-- ==== Sys2Proof/Word.lean ====
section
/-! DEFINITION. The word types of the device (spec/00_scope.md R4 to R6). -/

namespace Sys2Proof

/-- A byte. -/
abbrev Byte := BitVec 8

/-- A 32-bit word: a general register, an instruction word, a register of BAR0. -/
abbrev Word := BitVec 32

/-- A 64-bit word: a fabric time, a doubleword of memory. -/
abbrev DWord := BitVec 64

/-- An execution unit: compute core die×128 + bunch×8 + core below 256, Steward n at 256 + n (R4, R539). -/
abbrev UnitId := Fin 264

/-- An instance: 0 is the physical function (R5). -/
abbrev InstId := Fin 64

end Sys2Proof
end

