-- ==== Sys2Proof/Syntax.lean ====
section
/-! DEFINITION. The commands of the block: one constructor of Instr per row of spec/opcode_table.json, with the structures their operands are made of. -/

namespace Sys2Proof

/-! ## Core instructions (spec/05_core_instruction_reference.md)

A core instruction command names the unit that issues it, its guard, and its word's fields as Table 5.1 lays them out,
reserved fields included. -/

/-- The guard of an instruction (R89), whether the residue check of its result fails (R226), and, of a REP, the repetition after which a HALT_REQ
arrives, if one does (R152). -/
structure Issue where
  pred : BitVec 3
  neg : Bool
  residue : Bool
  stop : Option Nat := none
  deriving DecidableEq, Repr

/-- Format N. -/
structure FN where
  rsv : BitVec 21
  deriving DecidableEq, Repr

/-- Format RR. -/
structure FRR where
  d : BitVec 5
  a : BitVec 5
  b : BitVec 5
  rm : BitVec 3
  sat : Bool
  rsv : BitVec 2
  deriving DecidableEq, Repr

/-- Format RS. -/
structure FRS where
  d : BitVec 5
  a : BitVec 5
  b : BitVec 5
  ps : BitVec 3
  rsv : BitVec 3
  deriving DecidableEq, Repr

/-- Format RI. -/
structure FRI where
  d : BitVec 5
  a : BitVec 5
  sat : Bool
  imm : BitVec 10
  deriving DecidableEq, Repr

/-- Format I16. -/
structure FI16 where
  d : BitVec 5
  imm : BitVec 16
  deriving DecidableEq, Repr

/-- Format PC. -/
structure FPC where
  pd : BitVec 3
  cond : BitVec 3
  a : BitVec 5
  b : BitVec 5
  rsv : BitVec 5
  deriving DecidableEq, Repr

/-- Format PCI. -/
structure FPCI where
  pd : BitVec 3
  cond : BitVec 3
  a : BitVec 5
  imm : BitVec 10
  deriving DecidableEq, Repr

/-- Format AC. -/
structure FAC where
  acc : BitVec 3
  a : BitVec 5
  b : BitVec 5
  rm : BitVec 3
  sat : Bool
  rsv : BitVec 4
  deriving DecidableEq, Repr

/-- Format AR. -/
structure FAR where
  acc : BitVec 3
  a : BitVec 5
  rsv : BitVec 13
  deriving DecidableEq, Repr

/-- Format AA. -/
structure FAA where
  acc : BitVec 3
  accs : BitVec 3
  sat : Bool
  rsv : BitVec 14
  deriving DecidableEq, Repr

/-- Format EX. -/
structure FEX where
  d : BitVec 5
  acc : BitVec 3
  sh : BitVec 4
  rm : BitVec 3
  sat : Bool
  rsv : BitVec 5
  deriving DecidableEq, Repr

/-- Format M. -/
structure FM where
  t : BitVec 5
  base : BitVec 5
  size : BitVec 2
  sx : Bool
  mode : BitVec 2
  off : BitVec 6
  deriving DecidableEq, Repr

/-- Format MA. -/
structure FMA where
  acc : BitVec 3
  rsv1 : BitVec 2
  base : BitVec 5
  rsv2 : BitVec 3
  mode : BitVec 2
  off : BitVec 6
  deriving DecidableEq, Repr

/-- Format IO. -/
structure FIO where
  t : BitVec 5
  port : BitVec 16
  deriving DecidableEq, Repr

/-- Format CR. -/
structure FCR where
  t : BitVec 5
  rsv : BitVec 8
  c : BitVec 8
  deriving DecidableEq, Repr

/-- Format B. -/
structure FB where
  rsv : BitVec 5
  off : BitVec 16
  deriving DecidableEq, Repr

/-- Format J. -/
structure FJ where
  rsv1 : BitVec 5
  a : BitVec 5
  rsv2 : BitVec 11
  deriving DecidableEq, Repr

/-- Format L. -/
structure FL where
  a : BitVec 5
  rsv : BitVec 2
  eoff : BitVec 14
  deriving DecidableEq, Repr

/-- The format of REP: J with A at [20:16] and [15:0] reserved. -/
structure FREP where
  a : BitVec 5
  rsv : BitVec 16
  deriving DecidableEq, Repr

/-- A pip (R88). -/
structure Pip where
  op : BitVec 4
  d : BitVec 5
  s : BitVec 5
  deriving DecidableEq, Repr

/-- The operation an instruction word spells: the long operations of Table 5.2, a reserved OP code, and a pip pair. -/
inductive CoreOp where
  | nop (f : FN) | add (f : FRR) | sub (f : FRR) | and (f : FRR) | or (f : FRR) | xor (f : FRR)
  | shl (f : FRR) | shr (f : FRR) | sar (f : FRR) | min (f : FRR) | max (f : FRR) | minu (f : FRR) | maxu (f : FRR)
  | mul (f : FRR) | mulh (f : FRR) | mulhu (f : FRR) | fmul (f : FRR) | esadd (f : FRR) | esaddD (f : FRR)
  | sel (f : FRS) | addi (f : FRI) | andi (f : FRI) | ori (f : FRI) | xori (f : FRI)
  | movi (f : FI16) | movhi (f : FI16) | cmp (f : FPC) | cmpi (f : FPCI)
  | mac (f : FAC) | msu (f : FAC) | ext (f : FEX) | accset (f : FAR) | accclr (f : FAR) | accadd (f : FAA)
  | ld (f : FM) | st (f : FM) | lda (f : FMA) | sta (f : FMA) | fence (f : FN)
  | inn (f : FIO) | out (f : FIO) | mfc (f : FCR) | mtc (f : FCR)
  | br (f : FB) | call (f : FB) | jmp (f : FJ) | callr (f : FJ) | ret (f : FN) | eret (f : FN)
  | halt (f : FN) | brk (f : FN) | loop (f : FL) | loopx (f : FN) | lpop (f : FN) | rep (f : FREP)
  | reserved (op : BitVec 6) (rest : BitVec 21)
  | pair (p1 p2 : Pip)
  deriving DecidableEq, Repr

/-- An instruction word read: its guard and its operation. A pip pair's NEG is always clear. -/
structure CoreWord where
  pred : BitVec 3
  neg : Bool
  op : CoreOp
  deriving DecidableEq, Repr


/-! ## Engines, memory, fabric time and beats (spec/06, spec/07) -/

/-- The word a patrol scrub reads: a 64-bit word of a Bunch SRAM, or a 64-byte block of HBM counted through the stacks (R229). -/
inductive ScrubWord where
  | bunch (b : Fin 32) (word : BitVec 19)
  | hbm (block : BitVec 32)
  deriving DecidableEq, Repr

/-- A PTP message as the device's PTP function reads it (R233, R234). Times are in 2^−16 ns. -/
structure PtpMsg where
  domain : Nat
  seq : Nat
  twoStep : Bool
  /-- correctionField, in 2^−16 ns. -/
  correction : Int
  /-- originTimestamp, preciseOriginTimestamp, requestReceiptTimestamp or responseOriginTimestamp. -/
  stamp : Nat
  /-- The requesting port identity of a Pdelay answer is this port's. -/
  forUs : Bool
  /-- grandmasterClockQuality.clockClass of an Announce. -/
  clockClass : Nat
  /-- messageType, for a message the device does not use. -/
  msgType : Nat
  deriving DecidableEq, Repr

/-- A link beacon (Table 7.2). -/
structure Beacon where
  verMajor : Nat
  verMinor : Nat
  type : Nat
  flags : Nat
  orchardId : Nat
  rank : Nat
  seq : Nat
  tTx : Nat
  tTxFrac : Nat
  echoSeq : Nat
  tRxEcho : Nat
  tRxEchoFrac : Nat
  hops : Nat
  imageId : Nat
  deriving DecidableEq, Repr

/-- A switch notice (Table 7.10). -/
structure Notice where
  verMajor : Nat
  verMinor : Nat
  type : Nat
  orchardId : Nat
  originRank : Nat
  noticeSeq : Nat
  imageId : Nat
  variant : Nat
  reason : Nat
  hopCount : Nat
  switchSeason : Nat
  deriving DecidableEq, Repr

/-! ## Registers (spec/27) -/

/-- Who accesses a register: the physical function, a virtual function, or a Steward. -/
inductive RegAgent where
  | pf
  | vf (n : InstId)
  | steward (n : Fin 8)
  deriving DecidableEq, Repr


/-! ## Collective cells (spec/08) -/

/-- A collective cell: the header of Table 8.10 and its payload. -/
structure Cell where
  verMajor : Nat
  verMinor : Nat
  kind : Nat
  flags : Nat
  group : Nat
  leg : Nat
  step : Nat
  gen : Nat
  orchardId : Nat
  attempt : Nat
  srcRank : Nat
  fragSeq : Nat
  round : Nat
  fmt : Nat
  firstBlock : Nat
  nblocks : Nat
  payloadLen : Nat
  payload : List Byte
  deriving DecidableEq, Repr


/-! ## Resident state (spec/15) -/

/-- A shard of the resident-state definition, in bytes (Table 15.1). -/
structure Shard where
  id : Nat
  stack : Nat
  off : Nat
  len : Nat
  deriving DecidableEq, Repr

/-- A binding of a group to its update kernels (Table 15.1). -/
structure Binding where
  group : Nat
  addr : Nat
  half : Nat
  deriving DecidableEq, Repr

/-- A resident-state definition (Table 15.1). -/
structure RsDef where
  orchardId : Nat
  rank : Nat
  seed : BitVec 64
  replica : Bool
  shards : List Shard
  bindings : List Binding
  deriving DecidableEq, Repr

/-- A checkpoint target (Table 15.2). -/
inductive CkptTarget where
  | volume (vol half : Nat)
  | remote (qpn rkey half : Nat)
  deriving DecidableEq, Repr


/-! ## Witnessed groups (spec/16) -/

/-- A peer replica of a witnessed group (R468). -/
structure WitPeer where
  rank : Nat
  orchard : Nat
  qpn : Nat
  deriving DecidableEq, Repr

/-- A witnessed group's definition (R468, Table 15.4). -/
structure WitDef where
  w : Nat
  shards : List Nat
  replicas : Nat
  replica : Nat
  peers : List WitPeer
  groups : List Nat
  deadlineUs : Nat
  deriving DecidableEq, Repr

/-- A digest record (R470). -/
structure WitRec where
  verMajor : Nat
  verMinor : Nat
  w : Nat
  replica : Nat
  season : Nat
  rank : Nat
  orchardId : Nat
  rsv : Bool
  digest : List Byte
  deriving DecidableEq, Repr



/-! ## Host rings and accelerator windows (spec/18, spec/08, spec/13, spec/14) -/

/-- The header of a CONTROL descriptor (Table 18.7), and what the host-memory reads and writes it asks for answer. -/
structure CtlHdr where
  tag : BitVec 16
  paramAddr : Nat
  paramLen : Nat
  outAddr : Nat
  outLen : Nat
  /-- A reserved field of the descriptor or of the parameter block is nonzero. -/
  rsv : Bool
  readOk : Bool
  writeOk : Bool
  deriving DecidableEq, Repr

/-- The windows of an accelerator port (R270, R399, R421). -/
inductive WinKind where
  | feed | block | decode
  deriving DecidableEq, Repr

/-- Bytes an accelerator writes into a window before the write the command names: offset and value. -/
abbrev WinWrites := List (Nat × Byte)


/-! ## Fabric transport and ports (spec/09 to spec/12) -/

/-- One path of a queue pair (Table 9.1). -/
structure LftPath where
  port : Nat
  addr : Nat
  peer : Nat
  deriving DecidableEq, Repr

/-- The attributes of a queue pair (Table 9.1). -/
structure QpAttr where
  peerQpn : Nat
  mtu : Nat
  retryLimit : Nat
  trafficClass : Nat
  paths : List LftPath
  enc : Bool
  txSlot : Nat
  rxSlot : Nat
  deriving DecidableEq, Repr

/-- Who issues a control operation: an instance on a ring, or a Steward directly (R302). -/
inductive CtlSrc where
  | host (i : InstId) (r : Fin 64) (h : CtlHdr)
  | steward (n : Fin 8)
  deriving DecidableEq, Repr

/-- Who posts a work request: an instance on a ring of type LFT, or a Steward on an internal queue. -/
inductive LftSrc where
  | ring (i : InstId) (r : Fin 64)
  | steward (n : Fin 8)
  deriving DecidableEq, Repr

/-- The body of a work request (Table 9.6) but for a valid OP, which the command names. -/
structure LftBody where
  /-- OP is a reserved code. -/
  rsvOp : Bool
  notify : Bool
  wait : Bool
  /-- A reserved bit or byte is nonzero. -/
  rsv : Bool
  qpn : Nat
  len : Nat
  laddr : Nat
  raddr : Nat
  rkey : Nat
  tag : Nat
  waitQpn : Nat
  waitCount : Nat
  deriving DecidableEq, Repr

/-- An LFT packet: the fields of its IPv6 and UDP headers, the header of Table 9.3, its payload and its tag. -/
structure LftPkt where
  src : Nat
  dst : Nat
  tclass : Nat
  sport : Nat
  csumOk : Bool
  verMajor : Nat
  verMinor : Nat
  opcode : Nat
  flags : Nat
  destQpn : Nat
  srcQpn : Nat
  psn : Nat
  msgPsn : Nat
  txTime : Nat
  msgLen : Nat
  msgOffset : Nat
  raddr : Nat
  rkey : Nat
  payloadLen : Nat
  epoch : Nat
  payload : List Byte
  tag : List Byte
  deriving DecidableEq, Repr

/-- A technology ability of Clause 73: the mode of Table 10.1, and whether the PMD is KR (1) or CR (0). -/
structure Ability where
  mode : Nat
  pmd : Nat
  deriving DecidableEq, Repr

/-- The SecTAG of a received frame, with its recovered packet number, and whether its ICV verified. -/
structure SecTag where
  sci : Nat
  an : Nat
  pn : Nat
  icvOk : Bool
  /-- The frame as received, with SecTAG and ICV. -/
  raw : List (BitVec 8)
  deriving DecidableEq, Repr

/-- Where a frame goes: a destination of Table 10.4. -/
inductive FrameDest where
  | transport
  | ring (inst ring : Nat)
  | port (port queue : Nat)
  | steward
  | drop
  deriving DecidableEq, Repr

/-- A cipher request of Table 12.1 but for its OP: who issues it, and which comparisons fail (0 none, 1 the first engine's, 2 the
rerun's too) on which engines (R379). -/
structure CipherReq where
  du4k : Bool
  rsv : Bool
  slot : Nat
  len : Nat
  aadLen : Nat
  tag : Nat
  inst : Nat
  iv : List Byte
  src : Nat
  dst : Nat
  steward : Bool
  mismatch : Fin 3
  e1 : Fin 8
  e2 : Fin 8
  deriving DecidableEq, Repr

/-- A key record: its mode, its owner and its key material. -/
structure KeyRec where
  xts : Bool
  owner : Nat
  k1 : BitVec 256
  k2 : BitVec 256
  deriving DecidableEq, Repr

/-- A TX ring descriptor (Table 18.10), and the frame its read of host memory answers. -/
structure TxDesc where
  port : Nat
  cls : Nat
  rsv : Bool
  tag : Nat
  len : Nat
  addr : Nat
  data : Option (List Byte)
  deriving DecidableEq, Repr



/-! ## Block service (spec/13) -/

/-- A member of a volume (Table 13.1). -/
inductive VolMember where
  | drive (port nsid lba blocks : Nat)
  | remote (qpn rkey off blocks : Nat)
  deriving DecidableEq, Repr

/-- The attributes of a volume (Table 13.1). -/
structure VolAttr where
  vol : Nat
  bs : Nat
  layout : Nat
  stripe : Nat
  members : List VolMember
  home : Nat
  writeThrough : Nat
  enc : Nat
  slot : Nat
  deriving DecidableEq, Repr

/-- Who issues a block command: an instance on a BLOCK ring, or an accelerator on a queue of its block window. -/
inductive BlkSrc where
  | ring (i : InstId) (r : Fin 64)
  | accel (port : Fin 8) (q : Fin 4)
  deriving DecidableEq, Repr

/-- The body of a block command (Table 13.5) but for its OP, with what the read of its buffer answers, and whether writes to its buffer
succeed. An accelerator's body is the entry in its window. -/
structure BlkBody where
  fua : Bool
  bufHbm : Bool
  /-- A reserved field, or a field the OP does not use, is nonzero. -/
  rsv : Bool
  tag : Nat
  vol : Nat
  abortTag : Nat
  lba : Nat
  nlb : Nat
  bufLen : Nat
  bufAddr : Nat
  action : Nat
  port : Nat
  data : Option (List Byte)
  dmaOk : Bool
  deriving DecidableEq, Repr

/-- A namespace of a drive: NSID, blocks, block size, and whether deallocated blocks read as zero. -/
structure NsInfo where
  nsid : Nat
  blocks : Nat
  bs : Nat
  dzero : Bool
  deriving DecidableEq, Repr

/-- What bringing a drive up finds (R390). -/
structure DriveInfo where
  serial : Nat
  multiPort : Bool
  reservations : Bool
  /-- Largest transfer in bytes; 0 for no limit. -/
  mdts : Nat
  ns : List NsInfo
  rate : Nat
  width : Nat
  deriving DecidableEq, Repr



/-! ## Decode support (spec/14) -/

/-- The attributes of a decode sequence (Table 14.3) but for SEQ. -/
structure SeqAttr where
  tag : Nat
  seed : Nat
  mask : Nat
  home : Nat
  shift : Nat
  initLen : Nat
  maxLen : Nat
  eos : Nat
  invT : Nat
  topk : Nat
  topp : Nat
  w0 : Nat
  stream : Nat
  slotmap : Nat
  durable : Nat
  deriving DecidableEq, Repr

/-- A pool (Table 18.8): T0 runs of accelerator, bus address and slots; a T1 or T2 extent; a T3 volume; or a reserved selector. -/
inductive PoolDef where
  | t0 (runs : List (Nat × Nat × Nat))
  | t1 (base len : Nat)
  | t2 (base len : Nat)
  | t3 (vol : Nat)
  | reserved (sel : Nat)
  deriving DecidableEq, Repr



/-! ## Rings (spec/18) -/

/-- The parameters of RING_CREATE (Table 18.8). -/
structure RingDef where
  ring : Nat
  typ : Nat
  vec : Nat
  sqN : Nat
  cqN : Nat
  sqBase : Nat
  cqBase : Nat
  coalCount : Nat
  coalUs : Nat
  deriving DecidableEq, Repr


/-! ## Contexts that the twin mirrors (spec/17 R488) -/

end Sys2Proof
namespace Sys2Proof.Machine

/-- A descriptor taken from a host ring. -/
structure Work where
  inst : Nat
  ring : Nat
  tag : Nat
  gen : Nat
  /-- Its place among the descriptors the ring has taken. -/
  ix : Nat
  deriving DecidableEq, Repr

/-- Ring states (Table 18.6). -/
inductive RingSt where
  | none | active | error | draining
  deriving DecidableEq, Repr

/-- A host ring: its parameters and absolute counts, from which head, tail, slot and phase follow (R507 to R514). -/
structure Ring where
  st : RingSt
  typ : Nat
  vec : Nat
  sqN : Nat
  cqN : Nat
  sqBase : Nat
  cqBase : Nat
  coalCount : Nat
  coalUs : Nat
  /-- The generation it was created under. -/
  gen : Nat
  /-- Descriptors announced and descriptors taken since creation. -/
  tail : Nat
  taken : Nat
  /-- Descriptors taken and not yet completed, by place. -/
  live : List Nat
  /-- Completions posted and released since creation. -/
  posted : Nat
  released : Nat
  /-- Completions written since the last signal, and when the first of them was (R519). -/
  unsig : Nat
  firstUnsig : Nat
  deriving DecidableEq, Repr

/-- A queue of an accelerator window: state 0 CLOSED, 1 OPEN, 2 ERROR, the record latched at OPEN, and absolute counts (R271 to R278). -/
structure AccQ where
  st : Nat
  cqBase : Nat
  sqN : Nat
  cqN : Nat
  tail : Nat
  taken : Nat
  posted : Nat
  released : Nat
  deriving DecidableEq, Repr

/-- A feed submission entry (Table 8.4). -/
structure FeedEntry where
  op : Nat
  rsv : Bool
  group : Nat
  step : Nat
  src : Nat
  dst : Nat
  tag : Nat
  deriving DecidableEq, Repr

/-- A feed entry taken and not yet completed: the retained input it brought, the side whose blocks that holds (none: every block), its status once
decided, NF and SAT of its result, and the converted elements of its blocks (R268, R269, R276, R295). -/
structure FeedTaken where
  port : Nat
  q : Nat
  gen : Nat
  sqHead : Nat
  e : FeedEntry
  /-- The entry belongs to the mirrored queues of the lost twin (R300). -/
  twin : Bool
  data : List Byte
  part : Option Nat
  status : Option Nat
  nf : Bool
  sat : Bool
  replayed : Bool
  conv : List (Nat × List Int)
  deriving DecidableEq, Repr

/-- QP states (Table 9.5). -/
inductive QpState where
  | reset | hello | ready | error
  deriving DecidableEq, Repr

/-- A work request held by a queue pair: its descriptor or its Steward, and how far it has come. -/
structure LftReq where
  op : Nat
  b : LftBody
  work : Option Work
  /-- The Steward that posted it, or the function of the device: 16 block service, 17 checkpoint, 18 twin, 19 witness; 8 for none. -/
  steward : Nat
  /-- Its place among all work requests posted. -/
  ord : Nat
  /-- The status of a check it failed (R315). -/
  bad : Option Nat
  started : Bool
  psn : Nat
  n : Nat
  /-- The data of a Steward's own buffer: what a WRITE sends, or what a READ has received. -/
  inl : Option (List Byte)
  /-- READ_RESP packets placed, by index. -/
  got : List Nat
  done : Bool
  deriving DecidableEq, Repr

/-- A message or read being received. -/
structure LftMsg where
  psn : Nat
  n : Nat
  len : Nat
  raddr : Nat
  rkey : Nat
  read : Bool
  notify : Bool
  placed : Nat
  /-- Its notify completion has been asked for. -/
  asked : Bool
  deriving DecidableEq, Repr

/-- A queue pair (R302 to R329). -/
structure Qp where
  /-- The instance that owns it; 64 for firmware. -/
  owner : Nat
  notifyRing : Nat
  a : QpAttr
  st : QpState
  initPsn : Nat
  /-- The peer's INIT_PSN at READY. -/
  peerPsn : Nat
  mtu : Nat
  txEpoch : Nat
  rxEpoch : Nat
  /-- The receive slot of the epoch before. -/
  rxOld : Option Nat
  /-- The next PSN to assign, the next to transmit, the acknowledged edge, and the last SACK bitmap. -/
  next : Nat
  sent : Nat
  acked : Nat
  sack : Nat
  /-- Consecutive expiries, and when the retry timer was armed. -/
  k : Nat
  armed : Option Nat
  lastTx : Nat
  path : Nat
  /-- The retired edge, the PSNs marked above it, and what they carry. -/
  edge : Nat
  marks : List Nat
  msgs : List LftMsg
  /-- Packets marked since the last ACK, the first unacknowledged arrival, and the last ACK of a duplicate. -/
  since : Nat
  ackFrom : Option Nat
  dupAck : Option Nat
  /-- Packets that wait to be sent: answers, and a HELLO; and the PSNs to transmit again that wait (R328, R534). -/
  waits : List LftPkt
  again : List Nat
  reqs : List LftReq
  /-- Requests ended whose completions may not be written yet. -/
  due : List Work
  count : Nat
  resident : Bool
  used : Nat
  deriving DecidableEq, Repr

/-- A target region (R305). -/
structure Region where
  inst : Nat
  base : Nat
  len : Nat
  read : Bool
  write : Bool
  gen : Nat
  deriving DecidableEq, Repr

/-- A volume: its attributes, and whether it is FAILED (R410). -/
structure Volume where
  a : VolAttr
  failed : Bool
  /-- Taken over from a lost twin (R495). -/
  taken : Bool
  deriving DecidableEq, Repr

/-- An attachment to an instance or, with `acc`, to port Ak (R388). -/
structure Attach where
  vol : Nat
  acc : Bool
  index : Nat
  ro : Bool
  deriving DecidableEq, Repr

/-- A block held in the write cache: its newest data, whether it is dirty, and the ring that wrote it (R403). -/
structure CBlk where
  vol : Nat
  lba : Nat
  data : List Byte
  dirty : Bool
  acc : Bool
  inst : Nat
  ring : Nat
  deriving DecidableEq, Repr

/-- A Block Error Log entry of a requester, with its index (R408, R521). -/
structure BelE where
  acc : Bool
  inst : Nat
  index : Nat
  time : Nat
  lba : Nat
  nlb : Nat
  vol : Nat
  ring : Nat
  status : Nat
  src : Nat
  deriving DecidableEq, Repr

/-- Whom a block operation is carried out for. -/
inductive BlkOwner where
  | ring (w : Work)
  | acc (port q gen : Nat)
  /-- A destage of a range, once retried or not (R408). -/
  | destage (retry : Bool)
  /-- A read or write of the checkpoint movers. -/
  | ckpt
  deriving DecidableEq, Repr

/-- A block operation taken and not completed. -/
structure BlkOp where
  id : Nat
  owner : BlkOwner
  op : Nat
  b : BlkBody
  /-- The volume as it stood when the operation was taken. -/
  a : Option VolAttr
  started : Bool
  /-- Sub-commands outstanding. -/
  subs : Nat
  /-- Blocks read, by volume block. -/
  got : List (Nat × List Byte)
  fail : Option Nat
  /-- For FLUSH: 1 while it destages, 2 while drives flush. -/
  phase : Nat
  /-- The NVMe or LFT status of a failed sub-command, and its source (R521). -/
  why : Nat × Nat
  deriving DecidableEq, Repr

/-- A journal record of a sanitise or format (R413), with the port and whether the journal records the end. -/
structure JournalRec where
  serial : Nat
  port : Nat
  op : Nat
  action : Nat
  nsid : Nat
  progress : Nat
  seq : Nat
  ended : Bool
  deriving DecidableEq, Repr

/-- An entry of the Health Log (R462). -/
structure HlogE where
  time : Nat
  code : Nat
  unit : Nat
  season : Nat
  detail : Nat
  deriving DecidableEq, Repr

/-- A logical page: its number, its tier (1 T0, 2 T1, 3 T2, 4 T3) and LOC, where a copy in progress takes it, DIRTY, and when it was last
read (R416, Table 14.2, R428). -/
structure SeqPage where
  pn : Nat
  tier : Nat
  loc : Nat
  move : Option (Nat × Nat)
  dirty : Bool
  used : Nat
  deriving DecidableEq, Repr

/-- Sequence states (Table 14.7). -/
inductive SeqSt where
  | granted | merging | ended
  deriving DecidableEq, Repr

/-- A completion of a sequence not yet posted to a member: member, KIND, bytes, and the twin record that must be confirmed first. -/
structure SeqCpl where
  member : Nat
  kind : Nat
  body : List Byte
  need : Nat
  deriving DecidableEq, Repr

/-- A decode sequence (R419 to R433). -/
structure Seq where
  inst : Nat
  a : SeqAttr
  gen : Nat
  st : SeqSt
  /-- The position being generated. -/
  pos : Nat
  /-- The pages streamed in the step and the pages that are resident in it with their slots, by ascending page number. -/
  stream : List Nat
  mapped : List (Nat × Nat)
  /-- The step has been laid out. -/
  laid : Bool
  /-- The next pass to grant. -/
  next : Nat
  /-- Chunks loaded, and chunks being loaded. -/
  loaded : Nat
  loading : List Nat
  /-- PASS_DONE taken: member and pass. -/
  done : List (Nat × Nat)
  /-- CANDIDATES taken: member, and the tokens and logits kept. -/
  cands : List (Nat × List (Nat × Nat))
  /-- The sampled token, and the twin record that must be confirmed before it is posted. -/
  token : Nat
  need : Nat
  pages : List SeqPage
  /-- Nodes of the page table: level, the page-number bits above it, and the 64 KiB unit of the working partition. -/
  nodes : List (Nat × Nat × Nat)
  /-- The T0 slots of the two stream halves. -/
  half : List Nat
  held : List SeqCpl
  /-- The step in turn needs a new page, that of position POS − 1, which is not allocated yet; the page waits for a T0 slot. -/
  alloc : Bool
  want : Bool
  resident : Bool
  /-- When it gave its context up, or was created without one, in decode steps: its turn among those that wait (R29). -/
  waitFrom : Nat
  used : Nat
  /-- Taken over from a lost twin (R433). -/
  taken : Bool
  deriving DecidableEq, Repr

end Sys2Proof.Machine
namespace Sys2Proof
open Sys2Proof.Machine



/-! ## Twin records (spec/17) -/

/-- The content of a MIRROR record: what it says of a context of a class of Table 17.2. -/
inductive MirItem where
  /-- A record of a class, as this device sends it: its image is the context's state (log entry 40). -/
  | other (cls : Nat)
  /-- A block of the write cache; one that is not dirty has been destaged. -/
  | line (c : CBlk)
  | volume (n : Nat) (v : Option Volume)
  | attach (a : Attach) (on : Bool)
  | failedRange (vol lba n : Nat) (on : Bool)
  | belog (e : BelE)
  | qp (n : Nat) (q : Option Qp)
  | region (i : Nat) (r : Option Region)
  | ring (inst ring : Nat) (r : Ring)
  /-- A completion due in an absolute slot of a host ring. -/
  | due (inst ring index : Nat) (bytes : List Byte)
  /-- A block command taken, and one that has completed. -/
  | cmd (o : BlkOp)
  | cmdEnd (id : Nat)
  | queue (k : WinKind) (port q gen : Nat) (x : AccQ)
  | accDue (k : WinKind) (port q index : Nat) (bytes : List Byte)
  /-- A feed entry taken, and one that has completed. -/
  | entry (t : FeedTaken)
  | entryEnd (t : FeedTaken)
  /-- The agreed exponents of an unsettled step, by block. -/
  | exps (group step : Nat) (vs : List (Nat × Int))
  | seq (n : Nat) (q : Option Seq)
  /-- A T1 page of a DURABLE sequence. -/
  | page (n pn : Nat) (data : List Byte)
  | journal (j : JournalRec)
  | health (e : HlogE)
  | margin (bunch level : Nat)
  /-- The digest list of a REPLICA checkpoint (R452): its SEQ and the digest of each shard. -/
  | ckptDigests (seq : Nat) (d : List (List Byte))
  deriving DecidableEq, Repr

/-- The header of a twin record (Table 17.1). -/
structure TwinRec where
  verMajor : Nat
  verMinor : Nat
  kind : Nat
  cls : Nat
  seq : Nat
  confirmed : Nat
  side : Nat
  state : Nat
  serial : Nat
  len : Nat
  /-- A reserved field is nonzero. -/
  rsv : Bool
  /-- The sender's time state is FAULT, which R492 reads from its last record (log entry 41). -/
  fault : Bool
  deriving DecidableEq, Repr

/-- The class of a record. -/
def MirItem.cls : MirItem → Nat
  | .other c => c
  | .line _ => 1
  | .volume _ _ | .attach _ _ | .failedRange _ _ _ _ | .belog _ => 2
  | .qp _ _ | .region _ _ => 3
  | .cmd o => match o.owner with | .acc _ _ _ => 5 | _ => 4
  | .ring _ _ _ | .due _ _ _ _ | .cmdEnd _ => 4
  | .queue _ _ _ _ _ | .accDue _ _ _ _ _ | .entry _ | .entryEnd _ | .exps _ _ _ => 5
  | .seq _ _ | .page _ _ _ => 6
  | .journal _ => 7
  | .health _ | .margin _ _ => 8
  | .ckptDigests _ _ => 8


/-! ## In-stack copies (spec/06) -/

/-- How far a copy has come: MiB copied, and on-die uncorrectable events met (R224). -/
structure CopyPart where
  mib : Nat
  uncorr : Nat
  deriving DecidableEq, Repr

/-! ## Firmware, the Device Record and flash (spec/20, spec/21) -/

/-- HBM timings in ns: tREFI, tRCD, tRP, tRAS and tRFCpb (Table 6.8). -/
structure HbmTim where
  refi : Nat
  rcd : Nat
  rp : Nat
  ras : Nat
  rfcpb : Nat
  deriving DecidableEq, Repr

/-- The constants of a lane mode, in 2^−16 ns (R234, R236): what is added to a time captured on transmit and on receive, and the lane asymmetry.
A lane mode is the MODE of the octet, 4 more with an enabled SecY, and 8 on the twin link (log entry 162). -/
structure LaneConst where
  egress : Int
  ingress : Int
  asym : Int
  deriving DecidableEq, Repr

/-- The sections of a Device Record, as far as the device acts on them (Table 21.3; log entry 50). -/
structure DrData where
  /-- MFG: equaliser presets, by register; the HBM timings; the timestamp and lane-asymmetry constants, by lane mode. -/
  mfg : List (Nat × Word)
  hbm : HbmTim
  laneConsts : List (Nat × LaneConst)
  /-- REPAIR: logical core, physical Bunch and physical core; die-to-die lanes replaced; rows to remap and to repair. -/
  cores : List (Nat × Nat × Nat)
  lanes : List Nat
  sramRemap : List (Nat × Nat)
  hbmRepair : List (Nat × Nat)
  /-- AGEING (Table 16.7): margin levels by die and physical Bunch, counts and failed units by unit code. -/
  hours : Nat
  tjMax : Nat
  margins : List (Nat × Nat × Nat)
  residue : List (Nat × Nat)
  katFails : List (Nat × Nat)
  failed : List Nat
  replace : Bool
  degraded : Bool
  /-- RIND: the RWL fields of Table 20.5 and the domains, by register. -/
  rind : List (Nat × Word)
  /-- CONFIG: registers, the code of HBM_PART.SPARE, and OWNER_KEY_HASH, empty for zero. -/
  config : List (Nat × Word)
  spare : Nat
  ownerKey : List (BitVec 8)
  deriving DecidableEq, Repr

/-- A copy of the Device Record: the checks of R568 that concern bytes the model does not hold, SEQ, DEVICE_SERIAL and the sections. -/
structure DevRec where
  hdrOk : Bool
  mfgOk : Bool
  idOk : Bool
  recOk : Bool
  seq : Nat
  serial : Nat
  d : DrData
  deriving DecidableEq, Repr

/-- The flash device: its regions (Table 21.1) and RPMC counters. -/
structure Flash where
  recA : Option DevRec
  recB : Option DevRec
  pkgA : List (BitVec 8)
  pkgB : List (BitVec 8)
  journal : List JournalRec
  rpmc0 : Nat
  rpmc1 : Nat
  deriving DecidableEq, Repr

/-- What a boot meets: the straps sampled, whether the flash starts, the PLLs lock, the PUF reconstructs and the hardware of step 5
initialises; and the flash's contents where they are not as the device left them. -/
structure BootIn where
  side : Bool
  testEn : Bool
  flashOk : Bool
  pllOk : Bool
  pufOk : Bool
  hwOk : Bool
  flash : Option Flash
  deriving DecidableEq, Repr

/-- The section a DR_UPDATE carries: its contents and its bytes. -/
inductive DrSection where
  | rind (words : List (Nat × Word))
  | config (words : List (Nat × Word)) (spare : Nat) (ownerKey : List (BitVec 8))
  deriving DecidableEq, Repr

/-- A DR_UPDATE message (R570). -/
structure DrUpdate where
  section_ : DrSection
  raw : List (BitVec 8)
  key : List (BitVec 8)
  sig : List (BitVec 8)
  deriving DecidableEq, Repr

/-- What resets port H (R524, R613). -/
inductive PortHEvent where
  | perst | hotReset | linkDown
  deriving DecidableEq, Repr

/-- The readings of a thermal sample: by die and physical Bunch, and by stack, in thousandths of a degree (R611). -/
structure ThermIn where
  bunch : List (Nat × Nat × Nat)
  stk : List (Nat × Nat)
  deriving DecidableEq, Repr

/-! ## The commands -/

/-- One constructor per row of the opcode table; the rule each docstring names is the row's. -/
inductive Instr where
  /-- REGISTER_WRITE (R8). -/
  | registerWrite (a : RegAgent) (off : Nat) (size : Nat) (v : BitVec 64) (hw : Word)
  /-- RC_FIELD_READ (R10). -/
  | rcFieldRead (a : RegAgent) (off : Nat) (size : Nat) (upd : Word)
  /-- QP_CONTEXT_LOADED (R32). -/
  | qpContextLoaded (qpn t : Nat)
  /-- INSTANCE_QUANTUM_EXPIRY (R29). -/
  | instanceQuantumExpiry (t : Nat)
  /-- INSTANCE_CONTEXT_LOADED (R37). -/
  | instanceContextLoaded (i : InstId) (t : Nat)
  /-- NOP (R90). -/
  | nop (u : UnitId) (x : Issue) (f : FN)
  /-- ADD (R81). -/
  | add (u : UnitId) (x : Issue) (f : FRR)
  /-- SUB (R81). -/
  | sub (u : UnitId) (x : Issue) (f : FRR)
  /-- AND (R166). -/
  | and (u : UnitId) (x : Issue) (f : FRR)
  /-- OR (R166). -/
  | or (u : UnitId) (x : Issue) (f : FRR)
  /-- XOR (R166). -/
  | xor (u : UnitId) (x : Issue) (f : FRR)
  /-- SHL (R81). -/
  | shl (u : UnitId) (x : Issue) (f : FRR)
  /-- SHR (R166). -/
  | shr (u : UnitId) (x : Issue) (f : FRR)
  /-- SAR (R166). -/
  | sar (u : UnitId) (x : Issue) (f : FRR)
  /-- MIN (R166). -/
  | min (u : UnitId) (x : Issue) (f : FRR)
  /-- MAX (R166). -/
  | max (u : UnitId) (x : Issue) (f : FRR)
  /-- MINU (R166). -/
  | minu (u : UnitId) (x : Issue) (f : FRR)
  /-- MAXU (R166). -/
  | maxu (u : UnitId) (x : Issue) (f : FRR)
  /-- MUL (R167). -/
  | mul (u : UnitId) (x : Issue) (f : FRR)
  /-- MULH (R167). -/
  | mulh (u : UnitId) (x : Issue) (f : FRR)
  /-- MULHU (R167). -/
  | mulhu (u : UnitId) (x : Issue) (f : FRR)
  /-- FMUL (R168). -/
  | fmul (u : UnitId) (x : Issue) (f : FRR)
  /-- ESADD (R170). -/
  | esadd (u : UnitId) (x : Issue) (f : FRR)
  /-- ESADD_D (R170). -/
  | esaddD (u : UnitId) (x : Issue) (f : FRR)
  /-- SEL (R166). -/
  | sel (u : UnitId) (x : Issue) (f : FRS)
  /-- ADDI (R81). -/
  | addi (u : UnitId) (x : Issue) (f : FRI)
  /-- ANDI (R166). -/
  | andi (u : UnitId) (x : Issue) (f : FRI)
  /-- ORI (R166). -/
  | ori (u : UnitId) (x : Issue) (f : FRI)
  /-- XORI (R166). -/
  | xori (u : UnitId) (x : Issue) (f : FRI)
  /-- MOVI (R166). -/
  | movi (u : UnitId) (x : Issue) (f : FI16)
  /-- MOVHI (R166). -/
  | movhi (u : UnitId) (x : Issue) (f : FI16)
  /-- CMP (R172). -/
  | cmp (u : UnitId) (x : Issue) (f : FPC)
  /-- CMPI (R172). -/
  | cmpi (u : UnitId) (x : Issue) (f : FPCI)
  /-- MAC (R78). -/
  | mac (u : UnitId) (x : Issue) (f : FAC)
  /-- MSU (R78). -/
  | msu (u : UnitId) (x : Issue) (f : FAC)
  /-- EXT (R80). -/
  | ext (u : UnitId) (x : Issue) (f : FEX)
  /-- ACCSET (R166). -/
  | accset (u : UnitId) (x : Issue) (f : FAR)
  /-- ACCCLR (R166). -/
  | accclr (u : UnitId) (x : Issue) (f : FAR)
  /-- ACCADD (R79). -/
  | accadd (u : UnitId) (x : Issue) (f : FAA)
  /-- LD (R173). -/
  | ld (u : UnitId) (x : Issue) (f : FM)
  /-- ST (R173). -/
  | st (u : UnitId) (x : Issue) (f : FM)
  /-- LDA (R76). -/
  | lda (u : UnitId) (x : Issue) (f : FMA)
  /-- STA (R76). -/
  | sta (u : UnitId) (x : Issue) (f : FMA)
  /-- FENCE (R109). -/
  | fence (u : UnitId) (x : Issue) (f : FN)
  /-- MFC (R95). -/
  | mfc (u : UnitId) (x : Issue) (f : FCR)
  /-- MTC (R95). -/
  | mtc (u : UnitId) (x : Issue) (f : FCR)
  /-- BR (R129). -/
  | br (u : UnitId) (x : Issue) (f : FB)
  /-- CALL (R129). -/
  | call (u : UnitId) (x : Issue) (f : FB)
  /-- JMP (R129). -/
  | jmp (u : UnitId) (x : Issue) (f : FJ)
  /-- CALLR (R132). -/
  | callr (u : UnitId) (x : Issue) (f : FJ)
  /-- RET (R129). -/
  | ret (u : UnitId) (x : Issue) (f : FN)
  /-- ERET (R143). -/
  | eret (u : UnitId) (x : Issue) (f : FN)
  /-- HALT (R125). -/
  | halt (u : UnitId) (x : Issue) (f : FN)
  /-- BREAK (R129). -/
  | brk (u : UnitId) (x : Issue) (f : FN)
  /-- LOOP (R136). -/
  | loop (u : UnitId) (x : Issue) (f : FL)
  /-- LOOPX (R136). -/
  | loopx (u : UnitId) (x : Issue) (f : FN)
  /-- LPOP (R136). -/
  | lpop (u : UnitId) (x : Issue) (f : FN)
  /-- REP (R145). -/
  | rep (u : UnitId) (x : Issue) (f : FREP)
  /-- PIP_PAIR (R92). -/
  | pipPair (u : UnitId) (pred : BitVec 3) (residue : Bool) (p1 p2 : Pip)
  /-- ECMD_PUSH (R185). -/
  | ecmdPush (u : UnitId) (x : Issue) (e : Fin 4) (r : BitVec 5)
  /-- ECPL_POP (R183). -/
  | ecplPop (u : UnitId) (x : Issue) (e : Fin 4) (r : BitVec 5)
  /-- ECTL_DISCARD (R185). -/
  | ectlDiscard (u : UnitId) (x : Issue) (e : Fin 4) (r : BitVec 5)
  /-- DCMD_PUSH (R185). -/
  | dcmdPush (u : UnitId) (x : Issue) (r : BitVec 5)
  /-- DCPL_POP (R183). -/
  | dcplPop (u : UnitId) (x : Issue) (r : BitVec 5)
  /-- DCTL_DISCARD (R185). -/
  | dctlDiscard (u : UnitId) (x : Issue) (r : BitVec 5)
  /-- MB_TX (R183). -/
  | mbTx (u : UnitId) (x : Issue) (r : BitVec 5)
  /-- MB_RX (R183). -/
  | mbRx (u : UnitId) (x : Issue) (r : BitVec 5)
  /-- PEER_TX (R189). -/
  | peerTx (u : UnitId) (x : Issue) (n : Fin 8) (r : BitVec 5)
  /-- PEER_RX (R183). -/
  | peerRx (u : UnitId) (x : Issue) (n : Fin 8) (r : BitVec 5)
  /-- CNT_WRITE (R188). -/
  | cntWrite (u : UnitId) (x : Issue) (n : Fin 8) (r : BitVec 5)
  /-- CNT_SEL_WRITE (R579). -/
  | cntSelWrite (u : UnitId) (x : Issue) (n : Fin 8) (r : BitVec 5)
  /-- CNT_OVF_CLEAR (R188). -/
  | cntOvfClear (u : UnitId) (x : Issue) (r : BitVec 5)
  /-- CYC_LO_READ (R665). -/
  | cycLoRead (u : UnitId) (x : Issue) (r : BitVec 5)
  /-- BT_NOW_LO_READ (R231). -/
  | btNowLoRead (u : UnitId) (x : Issue) (r : BitVec 5) (t : Nat)
  /-- BT_ARM (R187). -/
  | btArm (u : UnitId) (x : Issue) (r : BitVec 5)
  /-- BT_WAIT (R187). -/
  | btWait (u : UnitId) (x : Issue) (r : BitVec 5)
  /-- IO_PORT_READY (R125), after the cycles waited. -/
  | ioPortReady (u : UnitId) (cycles : Nat)
  /-- IO_TIMEOUT (R115). -/
  | ioTimeout (u : UnitId)
  /-- CORE_START (R123). -/
  | coreStart (u : UnitId)
  /-- CORE_RESUME (R125). -/
  | coreResume (u : UnitId)
  /-- CORE_HALT_REQ (R126). -/
  | coreHaltReq (u : UnitId)
  /-- CORE_STEP (R662). -/
  | coreStep (u : UnitId) (residue : Bool)
  /-- CORE_RESET (R124). -/
  | coreReset (u : UnitId)
  /-- REGISTER_WINDOW_WRITE (R122). -/
  | registerWindowWrite (u : UnitId) (off : BitVec 12) (v : Word)
  /-- HALT_MESSAGE_LATCH_RELEASE (R544). -/
  | haltMessageLatchRelease (u : UnitId)
  /-- CONV_FWD (R58). -/
  | convFwd (u : UnitId) (e : Fin 4) (residue : Bool)
  /-- CONV_REV (R62). -/
  | convRev (u : UnitId) (e : Fin 4) (residue : Bool)
  /-- CONV_ES (R65). -/
  | convEs (u : UnitId) (e : Fin 4) (residue : Bool)
  /-- ESADD_V (R196). -/
  | esaddV (u : UnitId) (e : Fin 4) (residue : Bool)
  /-- SCOUT (R46). -/
  | scout (u : UnitId) (e : Fin 4) (residue : Bool)
  /-- SMAX (R47). -/
  | smax (u : UnitId) (e : Fin 4) (residue : Bool)
  /-- MAC_V (R194). -/
  | macV (u : UnitId) (e : Fin 4) (residue : Bool)
  /-- DMA_COPY (R211). -/
  | dmaCopy (u : UnitId)
  /-- DMA_FILL (R210). -/
  | dmaFill (u : UnitId)
  /-- DMA_COPY2D (R211). -/
  | dmaCopy2d (u : UnitId)
  /-- LOAD_I (R545). -/
  | loadI (u : UnitId)
  /-- D2D_FLIT_CRC_FAIL (R214). -/
  | d2dFlitCrcFail (dir : Fin 2) (again : Bool) (lane : BitVec 6)
  /-- HBM_REFRESH (R215). -/
  | hbmRefresh (stack : Fin 4)
  /-- HBM_TEMP_READOUT (R215). -/
  | hbmTempReadout (t0 t1 t2 t3 : Nat)
  /-- HBM_COPY_START (R221). -/
  | hbmCopyStart (n : Fin 4)
  /-- HBM_COPY_ISSUE (R222). -/
  | hbmCopyIssue (n : Fin 4)
  /-- HBM_COPY_END (R222). -/
  | hbmCopyEnd (n : Fin 4) (uncorr : Nat)
  /-- HBM_COPY_TIMEOUT (R224). -/
  | hbmCopyTimeout (n : Fin 4) (progress : CopyPart)
  /-- PATROL_SCRUB (R229). -/
  | patrolScrub (w : ScrubWord)
  /-- PTP_SYNC (R233). -/
  | ptpSync (port : Fin 33) (m : PtpMsg) (t : Nat)
  /-- PTP_FOLLOW_UP (R233). -/
  | ptpFollowUp (port : Fin 33) (m : PtpMsg) (t : Nat)
  /-- PTP_PDELAY_REQ (R233). -/
  | ptpPdelayReq (port : Fin 33) (m : PtpMsg) (t : Nat)
  /-- PTP_PDELAY_RESP (R233). -/
  | ptpPdelayResp (port : Fin 33) (m : PtpMsg) (t : Nat)
  /-- PTP_PDELAY_RESP_FOLLOW_UP (R233). -/
  | ptpPdelayRespFollowUp (port : Fin 33) (m : PtpMsg) (t : Nat)
  /-- PTP_ANNOUNCE (R233). -/
  | ptpAnnounce (port : Fin 33) (m : PtpMsg) (t : Nat)
  /-- PTP_UNUSED_MESSAGE (R233). -/
  | ptpUnusedMessage (port : Fin 33) (m : PtpMsg) (t : Nat)
  /-- SYNC_INTERVAL (R233). -/
  | syncInterval (port : Fin 33) (t : Nat)
  /-- PDELAY_REQ_INTERVAL (R233). -/
  | pdelayReqInterval (port : Fin 33) (t : Nat)
  /-- ANNOUNCE_INTERVAL (R233). -/
  | announceInterval (port : Fin 33) (t : Nat)
  /-- ANNOUNCE_RECEIPT_TIMEOUT (R233). -/
  | announceReceiptTimeout (port : Fin 33) (t : Nat)
  /-- LINK_BEACON_TRANSMIT (R235). -/
  | linkBeaconTransmit (t : Nat)
  /-- LINK_BEACON_RECEIVE (R236). -/
  | linkBeaconReceive (link : Fin 33) (b : Beacon) (t : Nat)
  /-- UPSTREAM_LOST (R239). -/
  | upstreamLost (t : Nat)
  /-- TIME_LOCK_ACQUIRED (R239). -/
  | timeLockAcquired (t : Nat)
  /-- HOLDOVER_LIMIT (R240). -/
  | holdoverLimit (t : Nat)
  /-- PPS_EDGE (R241). -/
  | ppsEdge (t : Nat) (second : Nat)
  /-- SLOT_START (R242). -/
  | slotStart (t : Nat)
  /-- BT_STAGE (R252). -/
  | btStage (t : Nat)
  /-- STAGING_END (R252). -/
  | stagingEnd (t : Nat)
  /-- BT_ACTIVATE (R253). -/
  | btActivate (t : Nat)
  /-- ACTIVATION_START (R254). -/
  | activationStart (t : Nat)
  /-- BT_ABORT (R256). -/
  | btAbort
  /-- BT_STOP (R256). -/
  | btStop
  /-- SCHEDULE_STOP (R256). -/
  | scheduleStop (t : Nat)
  /-- BT_VARIANT (R259). -/
  | btVariant (single : Bool) (t : Nat)
  /-- VARIANT_SWITCH (R263). -/
  | variantSwitch (t : Nat)
  /-- KERNEL_RELOAD (R250). -/
  | kernelReload (core : Fin 256)
  /-- SWITCH_NOTICE_RECEIVE (R261). -/
  | switchNoticeReceive (link : Fin 33) (n : Notice) (t : Nat)
  /-- IMAGE_MISMATCH_STOP (R255). -/
  | imageMismatchStop (t : Nat)
  /-- WINDOW_HELLO_OPEN (R272). -/
  | windowHelloOpen (k : WinKind) (port : Fin 8) (ws : WinWrites)
  /-- WINDOW_HELLO_CLOSE (R278). -/
  | windowHelloClose (k : WinKind) (port : Fin 8)
  /-- WINDOW_SQ_DOORBELL (R278). -/
  | windowSqDoorbell (k : WinKind) (port : Fin 8) (q : Fin 8) (ws : WinWrites) (tail : BitVec 16)
  /-- WINDOW_CQ_DOORBELL (R276). -/
  | windowCqDoorbell (k : WinKind) (port : Fin 8) (q : Fin 8) (head : BitVec 16)
  /-- FEED_WINDOW_BAD_WRITE (R270). -/
  | feedWindowBadWrite (port : Fin 8) (off value : Nat)
  /-- ACCEL_LINK_DOWN (R278). -/
  | accelLinkDown (port : Fin 8) (dpc : Bool)
  /-- FEED_COLLECTIVE (R273). -/
  | feedCollective (port : Fin 8) (data : Option (List Byte))
  /-- FEED_NOP (R277). -/
  | feedNop (port : Fin 8)
  /-- FEED_COMPLETION_POST (R276). -/
  | feedCompletionPost (port q : Fin 8)
  /-- CELL_DATA_RECEIVE (R285). -/
  | cellDataReceive (port : Fin 33) (c : Cell) (residue : Bool) (t : Nat)
  /-- CELL_SCOUT_RECEIVE (R290). -/
  | cellScoutReceive (port : Fin 33) (c : Cell) (t : Nat)
  /-- CELL_VERDICT_RECEIVE (R292). -/
  | cellVerdictReceive (port : Fin 33) (c : Cell) (t : Nat)
  /-- CELL_SETTLE_RECEIVE (R294). -/
  | cellSettleReceive (port : Fin 33) (c : Cell) (t : Nat)
  /-- RECEIVE_WINDOW_CLOSE (R288). -/
  | receiveWindowClose (leg t : Nat)
  /-- VERDICT_SEND (R292). -/
  | verdictSend (leg t : Nat)
  /-- VERDICT_WINDOW_CLOSE (R293). -/
  | verdictWindowClose (leg t : Nat)
  /-- STALE_HOLD_TIMEOUT (R298). -/
  | staleHoldTimeout (t : Nat)
  /-- QP_CREATE (R302). -/
  | qpCreate (c : CtlSrc) (notifyRing : Nat) (a : QpAttr)
  /-- QP_QUARANTINE_END (R304). -/
  | qpQuarantineEnd (qpn t : Nat)
  /-- QP_MODIFY (R303). -/
  | qpModify (c : CtlSrc) (qpn mask : Nat) (a : QpAttr)
  /-- QP_CONNECT (R311). -/
  | qpConnect (c : CtlSrc) (qpn t : Nat)
  /-- QP_RESET (R314). -/
  | qpReset (c : CtlSrc) (qpn : Nat)
  /-- QP_DESTROY (R304). -/
  | qpDestroy (c : CtlSrc) (qpn t : Nat)
  /-- REGION_REGISTER (R305). -/
  | regionRegister (c : CtlSrc) (base len access : Nat)
  /-- REGION_DEREGISTER (R306). -/
  | regionDeregister (c : CtlSrc) (rkey : Nat)
  /-- LFT_WRITE (R316). -/
  | lftWrite (src : LftSrc) (b : LftBody) (t : Nat)
  /-- LFT_READ (R316). -/
  | lftRead (src : LftSrc) (b : LftBody) (t : Nat)
  /-- LFT_WAIT (R326). -/
  | lftWait (src : LftSrc) (b : LftBody) (t : Nat)
  /-- WAIT_MET (R326). -/
  | waitMet (qpn t : Nat)
  /-- LFT_WRITE_PACKET (R319). -/
  | lftWritePacket (port : Fin 33) (p : LftPkt) (t : Nat)
  /-- LFT_READ_REQ_PACKET (R320). -/
  | lftReadReqPacket (port : Fin 33) (p : LftPkt) (t : Nat)
  /-- LFT_READ_RESP_PACKET (R320). -/
  | lftReadRespPacket (port : Fin 33) (p : LftPkt) (t : Nat)
  /-- LFT_ACK_PACKET (R323). -/
  | lftAckPacket (port : Fin 33) (p : LftPkt) (t : Nat)
  /-- LFT_NAK_PACKET (R330). -/
  | lftNakPacket (port : Fin 33) (p : LftPkt) (t : Nat)
  /-- LFT_HELLO_PACKET (R311). -/
  | lftHelloPacket (port : Fin 33) (p : LftPkt) (t : Nat)
  /-- LFT_HELLO_ACK_PACKET (R311). -/
  | lftHelloAckPacket (port : Fin 33) (p : LftPkt) (t : Nat)
  /-- LFT_RETRY_TIMEOUT (R323). -/
  | lftRetryTimeout (qpn t : Nat)
  /-- ACK_DELAY_TIMER (R322). -/
  | ackDelayTimer (qpn t : Nat)
  /-- NOTIFY_COMPLETION_POST (R513). -/
  | notifyCompletionPost (i : InstId) (r : Fin 64)
  /-- PORT_LINK_UP (R336). -/
  | portLinkUp (port : Fin 32)
  /-- PORT_LINK_DOWN (R336). -/
  | portLinkDown (port : Fin 32) (remoteFault hiSer : Bool)
  /-- AN_COMPLETE (R335). -/
  | anComplete (port : Fin 32) (offered : List Ability)
  /-- OCTET_MODE_WRITE (R333). -/
  | octetModeWrite (k : Fin 4) (mode : Fin 4)
  /-- PORT_ENABLE (R359). -/
  | portEnable (port : Fin 32) (t : Nat)
  /-- FRAME_RECEIVE (R337). -/
  | frameReceive (port : Fin 32) (data : List Byte) (fcsOk fecOk : Bool) (sec : Option SecTag) (t : Nat)
  /-- REORDER_RELEASE (R344). -/
  | reorderRelease (port : Fin 32) (t : Nat)
  /-- CLS_WRITE (R350). -/
  | clsWrite (table : Fin 4) (index : Fin 8192)
  /-- CLS_READ (R350). -/
  | clsRead (table : Fin 4) (index : Fin 8192)
  /-- CLS_COMMIT (R351). -/
  | clsCommit
  /-- CLS_COMMIT_DONE (R350). -/
  | clsCommitDone
  /-- SLOW_PATH_REINJECT (R353). -/
  | slowPathReinject (die : Fin 2) (port : Fin 32) (dest : FrameDest) (data : List Byte) (t : Nat)
  /-- EGRESS_ARBITRATION (R365). -/
  | egressArbitration (port : Fin 32) (t : Nat)
  /-- QUEUE_SHAPER_WRITE (R359). -/
  | queueShaperWrite (port : Fin 32) (q : Fin 8) (reg : Fin 4) (v : Word) (t : Nat)
  /-- GCM_ENC (R376). -/
  | gcmEnc (q : CipherReq)
  /-- GCM_DEC (R376). -/
  | gcmDec (q : CipherReq)
  /-- XTS_ENC (R376). -/
  | xtsEnc (q : CipherReq)
  /-- XTS_DEC (R376). -/
  | xtsDec (q : CipherReq)
  /-- KEY_WRITE (R373). -/
  | keyWrite (q : CipherReq) (k : KeyRec)
  /-- KEY_ERASE (R373). -/
  | keyErase (q : CipherReq)
  /-- BLK_READ (R395). -/
  | blkRead (src : BlkSrc) (b : BlkBody) (t : Nat)
  /-- BLK_WRITE (R403). -/
  | blkWrite (src : BlkSrc) (b : BlkBody) (t : Nat)
  /-- BLK_FLUSH (R406). -/
  | blkFlush (src : BlkSrc) (b : BlkBody) (t : Nat)
  /-- BLK_WRITE_ZEROES (R396). -/
  | blkWriteZeroes (src : BlkSrc) (b : BlkBody) (t : Nat)
  /-- BLK_DEALLOCATE (R397). -/
  | blkDeallocate (src : BlkSrc) (b : BlkBody) (t : Nat)
  /-- BLK_ABORT (R411). -/
  | blkAbort (src : BlkSrc) (b : BlkBody) (t : Nat)
  /-- BLK_SANITIZE (R412). -/
  | blkSanitize (src : BlkSrc) (b : BlkBody) (t : Nat)
  /-- BLK_FORMAT (R412). -/
  | blkFormat (src : BlkSrc) (b : BlkBody) (t : Nat)
  /-- DESTAGE (R404). -/
  | destage (vol lba nlb t : Nat)
  /-- NVME_COMPLETION (R390). -/
  | nvmeCompletion (port : Fin 8) (cid status : Nat) (phaseOk : Bool) (t : Nat)
  /-- NVME_COMMAND_TIMEOUT (R390). -/
  | nvmeCommandTimeout (port : Fin 8) (cid t : Nat)
  /-- NVME_ABORT_TIMEOUT (R390). -/
  | nvmeAbortTimeout (port : Fin 8) (cid : Nat) (resetOk : Bool) (t : Nat)
  /-- STORAGE_LINK_DOWN (R389). -/
  | storageLinkDown (port : Fin 8) (t : Nat)
  /-- SANITIZE_PROGRESS (R413). -/
  | sanitizeProgress (port : Fin 8) (sixteenths t : Nat)
  /-- DEC_CANDIDATES (R427). -/
  | decCandidates (port : Fin 8) (q : Fin 4) (cands : Option (List (Nat × Nat))) (t : Nat)
  /-- DEC_PASS_DONE (R426). -/
  | decPassDone (port : Fin 8) (q : Fin 4) (t : Nat)
  /-- CHUNK_LOADED (R426). -/
  | chunkLoaded (seq : Nat) (data : List (List Byte)) (t : Nat)
  /-- TOKEN_POST (R432). -/
  | tokenPost (seq : Nat) (t : Nat)
  /-- TIER_DEMOTION (R428). -/
  | tierDemotion (i : InstId) (tier : Nat) (t : Nat)
  /-- PAGE_MOVE_END (R428). -/
  | pageMoveEnd (seq pn : Nat) (data : List Byte) (t : Nat)
  /-- DECODE_HELD_POST (R422). -/
  | decodeHeldPost (seq : Nat) (t : Nat)
  /-- RS_REGION_WRITE (R436). -/
  | rsRegionWrite (n : Fin 4) (len : Bool) (v : Word)
  /-- HARVEST_CHUNK_DONE (R450). -/
  | harvestChunkDone (stack : Fin 4) (t : Nat)
  /-- MANIFEST_WRITE_DONE (R453). -/
  | manifestWriteDone (t : Nat)
  /-- RESTORE_DONE (R457). -/
  | restoreDone (a b : Option (List Byte)) (shards : List (Option (List Byte))) (t : Nat)
  /-- HEALTH_EVENT (R462). -/
  | healthEvent (t : Nat)
  /-- KAT_BUDGET_EXPIRY (R467). -/
  | katBudgetExpiry (core : Fin 256)
  /-- KAT_JUDGE (R467). -/
  | katJudge (core : Fin 256) (t : Nat)
  /-- AGEING_REWRITE (R479). -/
  | ageingRewrite (t : Nat)
  /-- WITNESS_DIGEST_DONE (R470). -/
  | witnessDigestDone (w : Fin 8) (t : Nat)
  /-- WITNESS_RECORD_RECEIVE (R470). -/
  | witnessRecordReceive (x : WitRec) (t : Nat)
  /-- WITNESS_DEADLINE (R471). -/
  | witnessDeadline (w : Fin 8) (t : Nat)
  /-- TWIN_HELLO_TIMER (R485). -/
  | twinHelloTimer (t : Nat)
  /-- TWIN_HELLO (R485). -/
  | twinHello (r : TwinRec) (t : Nat)
  /-- TWIN_HEARTBEAT_TIMER (R491). -/
  | twinHeartbeatTimer (t : Nat)
  /-- TWIN_HEARTBEAT (R491). -/
  | twinHeartbeat (r : TwinRec) (t : Nat)
  /-- BACKUP_WRITE_TIMER (R491). -/
  | backupWriteTimer (t : Nat)
  /-- TWIN_MIRROR (R486). -/
  | twinMirror (r : TwinRec) (m : MirItem) (t : Nat)
  /-- TWIN_CONFIRM (R489). -/
  | twinConfirm (r : TwinRec) (t : Nat)
  /-- MIRROR_RETRANSMIT_TIMEOUT (R486). -/
  | mirrorRetransmitTimeout (t : Nat)
  /-- TWIN_AUDIT (R498). -/
  | twinAudit (r : TwinRec) (agree : Bool) (t : Nat)
  /-- AUDIT_TIMER (R498). -/
  | auditTimer (t : Nat)
  /-- TWIN_YIELD (R491). -/
  | twinYield (r : TwinRec) (t : Nat)
  /-- TWIN_RESYNC_DONE (R500). -/
  | twinResyncDone (r : TwinRec) (t : Nat)
  /-- TWIN_LINK_SILENCE (R491). -/
  | twinLinkSilence (t : Nat)
  /-- BACKUP_SILENCE (R491). -/
  | backupSilence (t : Nat)
  /-- ARBITRATION_RESULT (R493). -/
  | arbitrationResult (ok failed : Fin 9) (conflict : Bool) (t : Nat)
  /-- LHQI_ENABLE (R506). -/
  | lhqiEnable (i : InstId) (t : Nat)
  /-- LHQI_DISABLE (R524). -/
  | lhqiDisable (i : InstId) (t : Nat)
  /-- LHQI_HEARTBEAT (R524). -/
  | lhqiHeartbeat (i : InstId) (v : Word) (t : Nat)
  /-- LHQI_HB_TIMEOUT (R524). -/
  | lhqiHbTimeout (i : InstId) (t : Nat)
  /-- LHQI_SQ_DOORBELL (R509). -/
  | lhqiSqDoorbell (i : InstId) (r : Fin 64) (v : BitVec 16) (t : Nat)
  /-- LHQI_CQ_DOORBELL (R509). -/
  | lhqiCqDoorbell (i : InstId) (r : Fin 64) (v : BitVec 16) (t : Nat)
  /-- DOORBELL_PAGE_BAD_WRITE (R508). -/
  | doorbellPageBadWrite (i : InstId) (off value : Nat)
  /-- RING_DRAINED (R514). -/
  | ringDrained (i : InstId) (r : Fin 64)
  /-- COALESCE_TIMER (R519). -/
  | coalesceTimer (i : InstId) (r : Fin 64) (t : Nat)
  /-- IDENTIFY (R517). -/
  | identify (i : InstId) (r : Fin 64) (h : CtlHdr)
  /-- RING_CREATE (R514). -/
  | ringCreate (i : InstId) (r : Fin 64) (h : CtlHdr) (p : RingDef)
  /-- RING_DELETE (R514). -/
  | ringDelete (i : InstId) (r : Fin 64) (h : CtlHdr) (ring : Nat)
  /-- LOG_READ (R521). -/
  | logRead (i : InstId) (r : Fin 64) (h : CtlHdr) (log first count : Nat)
  /-- KEY_LOAD (R371). -/
  | keyLoad (i : InstId) (r : Fin 64) (h : CtlHdr) (slot mode : Nat) (wrapped : List Byte)
  /-- KEY_RELEASE (R517). -/
  | keyRelease (i : InstId) (r : Fin 64) (h : CtlHdr) (slot : Nat)
  /-- VOL_CREATE (R386). -/
  | volCreate (i : InstId) (r : Fin 64) (h : CtlHdr) (v : VolAttr)
  /-- VOL_DESTROY (R384). -/
  | volDestroy (i : InstId) (r : Fin 64) (h : CtlHdr) (vol : Nat)
  /-- VOL_ATTACH (R388). -/
  | volAttach (i : InstId) (r : Fin 64) (h : CtlHdr) (vol kind index : Nat) (ro : Bool)
  /-- VOL_DETACH (R388). -/
  | volDetach (i : InstId) (r : Fin 64) (h : CtlHdr) (vol kind index : Nat)
  /-- POOL_DEFINE (R415). -/
  | poolDefine (i : InstId) (r : Fin 64) (h : CtlHdr) (inst : Nat) (p : PoolDef)
  /-- SEQ_CREATE (R419). -/
  | seqCreate (i : InstId) (r : Fin 64) (h : CtlHdr) (a : SeqAttr)
  /-- SEQ_DESTROY (R427). -/
  | seqDestroy (i : InstId) (r : Fin 64) (h : CtlHdr) (seq : Nat)
  /-- RS_DEFINE (R437). -/
  | rsDefine (i : InstId) (r : Fin 64) (h : CtlHdr) (d : RsDef)
  /-- SHARD_LOAD (R437). -/
  | shardLoad (i : InstId) (r : Fin 64) (h : CtlHdr) (shard src off len : Nat)
  /-- CKPT_ARM (R444). -/
  | ckptArm (i : InstId) (r : Fin 64) (h : CtlHdr) (seq : Nat) (target : CkptTarget) (keySlot : Nat) (found : List Nat)
  /-- CKPT_RESTORE (R457). -/
  | ckptRestore (i : InstId) (r : Fin 64) (h : CtlHdr) (target : CkptTarget) (keySlot slot : Nat) (chain : List Byte)
  /-- CKPT_ABORT (R459). -/
  | ckptAbort (i : InstId) (r : Fin 64) (h : CtlHdr)
  /-- WIT_DEFINE (R468). -/
  | witDefine (i : InstId) (r : Fin 64) (h : CtlHdr) (d : WitDef)
  /-- TX_DESCRIPTOR (R518). -/
  | txDescriptor (i : InstId) (r : Fin 64) (d : TxDesc) (t : Nat)
  /-- RX_DESCRIPTOR (R518). -/
  | rxDescriptor (i : InstId) (r : Fin 64) (tag len addr : Nat) (rsv : Bool)
  /-- TELEMETRY_DESCRIPTOR (R587). -/
  | telemetryDescriptor (i : InstId) (r : Fin 64) (tag len addr : Nat) (rsv : Bool) (t : Nat)
  /-- ACCEL_UPSTREAM_UR (R523). -/
  | accelUpstreamUr (port : Fin 8) (addr : Nat) (translation : Bool)
  /-- FLR (R535). -/
  | flr (i : InstId) (t : Nat)
  /-- PORT_H_RESET (R524). -/
  | portHReset (e : PortHEvent) (t : Nat)
  /-- VF_ENABLE (R527). -/
  | vfEnable (enable : Bool) (num : Nat) (t : Nat)
  /-- INSTANCE_REMOVAL (R536). -/
  | instanceRemoval (i : InstId) (t : Nat)
  /-- INST_COMMIT (R530). -/
  | instCommit (i : InstId) (t : Nat)
  /-- SMB_TX (R543). -/
  | smbTx (st : Fin 8) (x : Issue) (n : Fin 8) (r : BitVec 5)
  /-- SMB_RX (R543). -/
  | smbRx (st : Fin 8) (x : Issue) (n : Fin 8) (r : BitVec 5)
  /-- CMSG_POP (R543). -/
  | cmsgPop (st : Fin 8) (x : Issue) (r : BitVec 5)
  /-- CTX_WRITE (R543). -/
  | ctxWrite (st : Fin 8) (x : Issue) (r : BitVec 5)
  /-- RIND_LOCK (R547). -/
  | rindLock
  /-- STEWARD_WATCHDOG_EXPIRY (R553). -/
  | stewardWatchdogExpiry (n : Fin 8) (t : Nat)
  /-- WATCHDOG_KICK (R553). -/
  | watchdogKick (n : Fin 8) (t : Nat)
  /-- STEWARD_RESTART (R553). -/
  | stewardRestart (n : Fin 8) (t : Nat)
  /-- GRAFT (R558). -/
  | graft (mask : BitVec 8) (persist : Bool) (t : Nat)
  /-- GRAFT_RESTART_CMD (R555). -/
  | graftRestartCmd (mask : BitVec 8) (t : Nat)
  /-- HANDOVER_ANSWER (R558). -/
  | handoverAnswer (n : Fin 8) (len t : Nat)
  /-- GRAFT_HANDOVER_TIMEOUT (R561). -/
  | graftHandoverTimeout (t : Nat)
  /-- ACCEPT (R558). -/
  | accept (n : Fin 8) (t : Nat)
  /-- REFUSE (R558). -/
  | refuse (n : Fin 8) (code : BitVec 8) (t : Nat)
  /-- GRAFT_START_TIMEOUT (R558). -/
  | graftStartTimeout (t : Nat)
  /-- POWER_ON (R613). -/
  | powerOn
  /-- RAIL_FAULT (R599). -/
  | railFault
  /-- SYS_RESET (R613). -/
  | sysReset (cool : Bool)
  /-- DEV_RESET (R613). -/
  | devReset
  /-- BOOT (R574). -/
  | boot (b : BootIn)
  /-- DR_UPDATE (R570). -/
  | drUpdate (u : DrUpdate)
  /-- DR_WRITE (R569). -/
  | drWrite
  /-- PKG_UPLOAD (R577). -/
  | pkgUpload (pkg : List (BitVec 8))
  /-- SPDM_GET_VERSION (R578). -/
  | spdmGetVersion (doe : Bool)
  /-- SPDM_GET_CAPABILITIES (R578). -/
  | spdmGetCapabilities (doe : Bool)
  /-- SPDM_NEGOTIATE_ALGORITHMS (R578). -/
  | spdmNegotiateAlgorithms (doe : Bool)
  /-- SPDM_GET_DIGESTS (R578). -/
  | spdmGetDigests (doe : Bool) (sess : Option (Fin 4))
  /-- SPDM_GET_CERTIFICATE (R578). -/
  | spdmGetCertificate (doe : Bool) (sess : Option (Fin 4)) (slot off len : Nat)
  /-- SPDM_CHALLENGE (R578). -/
  | spdmChallenge (doe : Bool) (slot : Nat) (nonce : List (BitVec 8))
  /-- SPDM_GET_MEASUREMENTS (R578). -/
  | spdmGetMeasurements (doe : Bool) (sess : Option (Fin 4)) (index : Nat) (sign : Bool) (nonce : List (BitVec 8))
  /-- SPDM_KEY_EXCHANGE (R578). -/
  | spdmKeyExchange (doe : Bool) (slot : Nat) (data : List (BitVec 8))
  /-- SPDM_FINISH (R578). -/
  | spdmFinish (doe : Bool) (sess : Fin 4) (ok : Bool)
  /-- SPDM_HEARTBEAT (R578). -/
  | spdmHeartbeat (doe : Bool) (sess : Fin 4)
  /-- SPDM_KEY_UPDATE (R578). -/
  | spdmKeyUpdate (doe : Bool) (sess : Fin 4)
  /-- SPDM_END_SESSION (R578). -/
  | spdmEndSession (doe : Bool) (sess : Fin 4)
  /-- GET_KEK (R573). -/
  | getKek (doe : Bool) (sess : Fin 4) (i : InstId)
  /-- TELEMETRY_PERIOD_SAMPLE (R583). -/
  | telemetryPeriodSample (t : Nat)
  /-- TELEMETRY_BUFFER_TIMEOUT (R587). -/
  | telemetryBufferTimeout (i : InstId) (t : Nat)
  /-- TELEM_SUBSCRIBE (R589). -/
  | telemSubscribe (mask div : BitVec 16)
  /-- POWER_EVALUATION (R608, R610, R639): the IMON inputs in µV and the rails in mV, by rail, of each reading of the interval. -/
  | powerEvaluation (p0 p1 : List (List Nat)) (t : Nat)
  /-- THERMAL_SAMPLE (R611). -/
  | thermalSample (x : ThermIn) (t : Nat)
  /-- PWR_SET (R607). -/
  | pwrSet (w : BitVec 16)
  /-- REFCLK_SYS_LOSS (R606). -/
  | refclkSysLoss
  /-- REFCLK_ETH_LOSS (R606). -/
  | refclkEthLoss (t : Nat)
  /-- REFCLK_H_LOSS (R606). -/
  | refclkHLoss (t : Nat)
  /-- JTAG_BYPASS (R632). -/
  | jtagBypass
  /-- JTAG_IDCODE (R632). -/
  | jtagIdcode
  /-- JTAG_SAMPLE_PRELOAD (R632). -/
  | jtagSamplePreload
  /-- JTAG_EXTEST (R632). -/
  | jtagExtest
  /-- JTAG_EXTEST_PULSE (R632). -/
  | jtagExtestPulse
  /-- JTAG_EXTEST_TRAIN (R632). -/
  | jtagExtestTrain
  /-- CXL_MEM_READ (R654). -/
  | cxlMemRead (bar4 : Bool) (off len : Nat)
  /-- CXL_MEM_WRITE (R654). -/
  | cxlMemWrite (bar4 : Bool) (off : Nat) (data : List (BitVec 8))
  /-- H2D_SNOOP (R501). -/
  | h2dSnoop (addr : Nat)
  /-- UNCATALOGUED_PORT_ACCESS (R113). -/
  | uncataloguedPortAccess (u : UnitId) (x : Issue) (out : Bool) (f : FIO)
  /-- ACCEL_LINK_UP (R522). -/
  | accelLinkUp (port : Fin 8) (rate : Fin 7) (width : Fin 9) (flit : Bool)
  /-- STORAGE_LINK_UP (R390). -/
  | storageLinkUp (port : Fin 8) (d : DriveInfo) (t : Nat)
  /-- TWIN_LINK_UP (R481). -/
  | twinLinkUp
  /-- TWIN_LINK_DOWN (R481). -/
  | twinLinkDown
  /-- TWIN_LINK_OTHER_FRAME (R482). -/
  | twinLinkOtherFrame
  /-- PERST_N_DEASSERT (R601). -/
  | perstNDeassert (refclkH : Bool)
  /-- PORT_H_LINK_UP (R617). -/
  | portHLinkUp
  /-- REF10M_VALIDITY_CHANGE (R240). -/
  | ref10mValidityChange (valid : Bool)
  /-- SEQUENCE_CONTEXT_LOADED (R29). -/
  | sequenceContextLoaded (seq : Nat) (t : Nat)
  /-- TOKEN_BUCKET_REFILLED (R358). -/
  | tokenBucketRefilled (t : Nat)
  /-- FLASH_WRITE_DONE (R569). -/
  | flashWriteDone (ok : Bool)
  /-- GLOBAL_PERSISTENT_FLUSH (R501). -/
  | globalPersistentFlush
  /-- STORAGE_AER_CORRECTABLE (R389). -/
  | storageAerCorrectable (port : Fin 8)
  /-- DRIVE_DMA (R393). -/
  | driveDma (port : Fin 8) (cid off len : Nat) (write : Bool) (data : List Byte) (t : Nat)
  /-- BACK_INVALIDATE_RESPONSE (R654). -/
  | backInvalidateResponse (line : Nat)
  deriving DecidableEq, Repr

end Sys2Proof
end

