-- ==== Sys2Proof/Decode.lean ====
section
/-! DEFINITION. The command a word spells by the bits of the opcode table. -/

namespace Sys2Proof

/-- No row of the opcode table gives bits: its rows are commands, events and messages of the block, so no word spells one. The words a
core fetches from I-space are read by `Sys2Proof.Machine.decodeWord`. -/
def decodeTableWord (_nbits _w : Nat) : Option Instr := none

end Sys2Proof
end

