-- ==== Sys2Proof/Machine/Bits.lean ====
section
/-! DEFINITION. Bit fields, byte order, two's complement ranges and list helpers (spec/00_scope.md R6, R7). -/

namespace Sys2Proof

/-- Bits `lo` to `lo + w − 1` of a word, as a number. -/
def bits (x : Nat) (lo w : Nat) : Nat := x / 2 ^ lo % 2 ^ w

/-- One bit of a number. -/
def bitAt (x : Nat) (i : Nat) : Bool := x / 2 ^ i % 2 == 1

/-- A Boolean as the bit it stands for. -/
def b2n (b : Bool) : Nat := if b then 1 else 0

/-- The number a little-endian byte list stands for (R7). -/
def leNat : List Byte → Nat
  | [] => 0
  | b :: bs => b.toNat + 256 * leNat bs

/-- The `n` little-endian bytes of a number (R7). -/
def natLe : Nat → Nat → List Byte
  | 0, _ => []
  | n + 1, v => BitVec.ofNat 8 v :: natLe n (v / 256)

/-- The number a big-endian byte list stands for (R7). -/
def beNat (l : List Byte) : Nat := leNat l.reverse

/-- The `n` big-endian bytes of a number (R7). -/
def natBe (n v : Nat) : List Byte := (natLe n v).reverse

/-- The number a bit pattern of `w` bits stands for in two's complement. -/
def signed (w x : Nat) : Int := if x % 2 ^ w < 2 ^ (w - 1) then (x % 2 ^ w : Int) else (x % 2 ^ w : Int) - 2 ^ w

/-- The largest of two's complement numbers of `w` bits. -/
def smax (w : Nat) : Int := 2 ^ (w - 1) - 1

/-- The smallest of two's complement numbers of `w` bits. -/
def smin (w : Nat) : Int := -(2 ^ (w - 1))

/-- An exact result lies in the two's complement range of `w` bits. -/
def fits (w : Nat) (v : Int) : Bool := decide (smin w ≤ v) && decide (v ≤ smax w)

/-- Clamp an exact result to the two's complement range of `w` bits. -/
def clamp (w : Nat) (v : Int) : Int := if v < smin w then smin w else if smax w < v then smax w else v

/-- The part of a list from `i`, of `n` elements. -/
def slice {α : Type} (l : List α) (i n : Nat) : List α := (l.drop i).take n

/-- Replace the element at an index of a list. -/
def upd {α : Type} (l : List α) (i : Nat) (a : α) : List α := l.set i a

theorem natLe_length (n v : Nat) : (natLe n v).length = n := by
  induction n generalizing v with
  | zero => rfl
  | succ n ih => simp [natLe, ih]

theorem leNat_natLe (n v : Nat) : leNat (natLe n v) = v % 256 ^ n := by
  induction n generalizing v with
  | zero => simp [natLe, leNat, Nat.mod_one]
  | succ n ih =>
    simp only [natLe, leNat, ih, BitVec.toNat_ofNat]
    rw [show 256 ^ (n + 1) = 256 * 256 ^ n from Nat.pow_succ', Nat.mod_mul]

end Sys2Proof
end

