-- ==== Sys2Proof/Config.lean ====
section
/-! DEFINITION. What the spec leaves open: constants without a body, of which no proof can know a value (log entries 6 to 12). A free
value is one of these applied to a counter in State, so that every use is a fresh value. -/

namespace Sys2Proof

/-- A fresh free 32-bit value. -/
opaque Config.freeWord : Nat → BitVec 32
/-- A fresh free byte. -/
opaque Config.freeByte : Nat → BitVec 8
/-- A fresh free choice among alternatives the spec does not order; taken modulo their number. -/
opaque Config.choice : Nat → Nat
/-- The interlock stall cycles of an instruction on producers that are not loads, and on memory (R159 to R161). -/
opaque Config.stallDep : Nat → Nat
/-- The stall cycles of an instruction on loads, bank waits and FENCE (R161, R182). -/
opaque Config.stallMem : Nat → Nat
/-- The cycles a unit has waited at a blocking port when a HALT_REQ meets it. -/
opaque Config.stallIo : Nat → Nat
/-- The validity of an ECDSA P-384 signature over a digest under a public key. -/
opaque Config.ecdsaOk : (key digest sig : List (BitVec 8)) → Bool
/-- The ECDSA P-384 signature made with a private key the device holds, over a digest; the counter is the per-signature secret. -/
opaque Config.ecdsaSign : (keyId : Nat) → (digest : List (BitVec 8)) → (fresh : Nat) → List (BitVec 8)
/-- Bytes of the device's certificate chain in slot 0; its Alias certificate is issued for the digest of the running package and carries it, with
DEVICE_SERIAL (R572). -/
opaque Config.certChain : (package : List (BitVec 8)) → (serial : Nat) → List (BitVec 8)
/-- The 384-bit root value of the PUF and other secrets used by an attestation exchange. -/
opaque Config.freeBytes : (n fresh : Nat) → List (BitVec 8)

/-- The LEG a sender puts in a cell: the leg entry index at the receiver, which no field of the sender's leg entry names. -/
opaque Config.destLeg : (leg dest : Nat) → Nat
/-- The bytes of a section of the Device Record, given what it holds as numbers; the layout of a section's fields is not given. -/
opaque Config.drSection : (type : Nat) → (content : List Nat) → List (BitVec 8)
/-- The MAC address of a port, and of the station its frames go to; the spec gives neither. -/
opaque Config.macSrc : (port : Nat) → Nat
opaque Config.macDst : (port : Nat) → Nat
/-- What the spec does not give of the IPv6 and UDP headers of a rendezvous cell: 0 traffic class, 1 flow label, 2 hop limit, 3 source address,
4 destination address, 5 source port. -/
opaque Config.rvIp : (port leg field : Nat) → Nat
/-- The public key of a certificate chain that verifies to the Odmel root; none for one that does not. -/
opaque Config.chainKey : (chain : List (BitVec 8)) → Option (List (BitVec 8))
/-- The public key of the leaf of a certificate chain that verifies to the root in mask ROM and carries the firmware-signing usage. -/
opaque Config.fwSigner : (chain : List (BitVec 8)) → Option (List (BitVec 8))

end Sys2Proof
end

