-- ==== Sys2Proof/Machine/Arith.lean ====
section
/-! DEFINITION. Rounding, the keyed generator, floating-point formats and exact-sum arithmetic (spec/02_exact_sum_arithmetic.md). -/

namespace Sys2Proof.Machine

/-- The value `n / 2^k` rounded to an integer by a mode of Table 2.4 with draw `r` (R59, R60). Codes 5 to 7 are refused before. -/
def roundShift (rm : Nat) (r : Nat) (n : Int) (k : Nat) : Int :=
  let fl := n / 2 ^ k
  let rem := n % 2 ^ k
  if rm = 0 then (if 2 * rem < 2 ^ k then fl else if 2 ^ k < 2 * rem then fl + 1 else if fl % 2 = 0 then fl else fl + 1)
  else if rm = 1 then (if 2 * rem < 2 ^ k then fl else if 2 ^ k < 2 * rem then fl + 1 else if n < 0 then fl else fl + 1)
  else if rm = 2 then (if n < 0 ∧ rem ≠ 0 then fl + 1 else fl)
  else if rm = 3 then fl
  else if (r : Int) < rem * 2 ^ 32 / 2 ^ k then fl + 1 else fl

/-- One round of Philox4x32 (R60, the published generator: log entry 13). -/
def philoxRound (k0 k1 : Word) (c : Word × Word × Word × Word) : Word × Word × Word × Word :=
  let p0 := 0xD2511F53 * c.1.toNat
  let p1 := 0xCD9E8D57 * c.2.2.1.toNat
  (BitVec.ofNat 32 (p1 / 2 ^ 32) ^^^ c.2.1 ^^^ k0, BitVec.ofNat 32 p1, BitVec.ofNat 32 (p0 / 2 ^ 32) ^^^ c.2.2.2 ^^^ k1, BitVec.ofNat 32 p0)

/-- `n` rounds of Philox4x32 with the key advanced after each. -/
def philoxRounds : Nat → Word → Word → Word × Word × Word × Word → Word × Word × Word × Word
  | 0, _, _, c => c
  | n + 1, k0, k1, c => philoxRounds n (k0 + 0x9E3779B9#32) (k1 + 0xBB67AE85#32) (philoxRound k0 k1 c)

/-- Philox4x32-10 under a 64-bit key and the counter words c0 to c3. -/
def philox (key : Nat) (c0 c1 c2 c3 : Nat) : Word × Word × Word × Word :=
  philoxRounds 10 (BitVec.ofNat 32 key) (BitVec.ofNat 32 (key / 2 ^ 32))
    (BitVec.ofNat 32 c0, BitVec.ofNat 32 c1, BitVec.ofNat 32 c2, BitVec.ofNat 32 c3)

/-- The draw r: word 0 of the generator's output (R60). -/
def draw (key c0 c1 c2 c3 : Nat) : Nat := (philox key c0 c1 c2 c3).1.toNat

/-! ## Floating-point formats (Table 2.3) -/

/-- A format: significand width with the implicit bit, exponent bits, whether it has infinities, and its bytes. -/
structure FpFmt where
  p : Nat
  eb : Nat
  hasInf : Bool
  bytes : Nat
  nan : Nat
  maxFinite : Nat
  deriving DecidableEq, Repr

/-- The formats by code; codes 5 to 15 are reserved. -/
def fpFmt (code : Nat) : Option FpFmt :=
  if code = 0 then some ⟨8, 8, true, 2, 0x7FC0, 0x7F7F⟩ else if code = 1 then some ⟨11, 5, true, 2, 0x7E00, 0x7BFF⟩
  else if code = 2 then some ⟨24, 8, true, 4, 0x7FC00000, 0x7F7FFFFF⟩ else if code = 3 then some ⟨4, 4, false, 1, 0x7F, 0x7E⟩
  else if code = 4 then some ⟨3, 5, true, 1, 0x7E, 0x7B⟩ else none

/-- A floating-point datum: not a number, an infinity, or ± m × 2^e. -/
inductive FpVal where
  | nan
  | inf (neg : Bool)
  | fin (neg : Bool) (m : Nat) (e : Int)
  deriving DecidableEq, Repr

/-- The exponent bias. -/
def FpFmt.bias (f : FpFmt) : Int := 2 ^ (f.eb - 1) - 1
/-- The exponent of the least significant bit of subnormals. -/
def FpFmt.minLsb (f : FpFmt) : Int := 1 - f.bias - (f.p - 1 : Nat)

/-- The datum an encoding stands for. -/
def fpDecode (f : FpFmt) (x : Nat) : FpVal :=
  let neg := bitAt x (f.p - 1 + f.eb)
  let ex := bits x (f.p - 1) f.eb
  let fr := x % 2 ^ (f.p - 1)
  if ex = 2 ^ f.eb - 1 ∧ f.hasInf then (if fr = 0 then .inf neg else .nan)
  else if ex = 2 ^ f.eb - 1 ∧ fr = 2 ^ (f.p - 1) - 1 then .nan
  else if ex = 0 then .fin neg fr f.minLsb
  else .fin neg (fr + 2 ^ (f.p - 1)) (f.minLsb + (ex : Int) - 1)

/-- The magnitude m × 2^lsb (lsb at least that of subnormals, m at most 2^p) encoded, without a range check. -/
def fpEncode (f : FpFmt) (neg : Bool) (m : Nat) (lsb : Int) : Nat :=
  let s := b2n neg * 2 ^ (f.p - 1 + f.eb)
  if m < 2 ^ (f.p - 1) then s + m
  else
    let (m', l') := if m = 2 ^ f.p then (2 ^ (f.p - 1), lsb + 1) else (m, lsb)
    s + (l' - f.minLsb + 1).toNat * 2 ^ (f.p - 1) + (m' - 2 ^ (f.p - 1))

/-- e(x) of a finite nonzero m × 2^e (R40). -/
def expOf (m : Nat) (e : Int) : Int := (Nat.log2 m : Int) + e

/-- Forward conversion of one element against agreed exponent `E` (R58, R661): the value and whether the element was beyond
the agreed exponent. -/
def convFwd (f : FpFmt) (x : Nat) (E : Int) (F rm r : Nat) : Int × Bool :=
  let S := E + 1 - F
  match fpDecode f x with
  | .nan => (0, true)
  | .inf neg => (if neg then -(2 ^ F) else 2 ^ F, true)
  | .fin neg m e =>
    if m = 0 then (0, false)
    else if E + 1 ≤ expOf m e then (if neg then -(2 ^ F) else 2 ^ F, true)
    else
      let n : Int := if neg then -(m : Int) else m
      if S ≤ e then (n * 2 ^ (e - S).toNat, false) else (roundShift rm r n (S - e).toNat, false)

/-- Reverse conversion of the sum Q × 2^S (R62 to R64): the encoding and whether it went beyond the largest finite value. -/
def convRev (f : FpFmt) (Q S : Int) (rrm : Nat) (satr : Bool) (r : Nat) : Nat × Bool :=
  if Q = 0 then (0, false)
  else
    let neg := decide (Q < 0)
    let lsb := max (expOf Q.natAbs S - (f.p - 1 : Nat)) f.minLsb
    let n : Int := if lsb ≤ S then Q * 2 ^ (S - lsb).toNat else roundShift rrm r Q (lsb - S).toNat
    let enc := fpEncode f false n.natAbs lsb
    if enc ≤ f.maxFinite then (b2n neg * 2 ^ (f.p - 1 + f.eb) + enc, false)
    else
      let sgn := b2n neg * 2 ^ (f.p - 1 + f.eb)
      if satr then (sgn + f.maxFinite, true)
      else if f.hasInf then (sgn + (2 ^ f.eb - 1) * 2 ^ (f.p - 1), true) else (f.nan, true)

/-! ## Exact-sum elements (Table 2.1) -/

/-- The width of an ES format by FMT code. -/
def esWidth (fmt : Nat) : Option Nat :=
  if fmt = 0 then some 16 else if fmt = 1 then some 24 else if fmt = 2 then some 32 else if fmt = 3 then some 48
  else if fmt = 4 then some 64 else none

/-- Wrap an exact value to `w` bits of two's complement. -/
def wrapTo (w : Nat) (v : Int) : Int := signed w (v % 2 ^ w).toNat

/-- An exact-sum add at width `w`: the wrapped sum and whether it overflowed (R56). -/
def esAdd (w : Nat) (a b : Int) : Int × Bool := (wrapTo w (a + b), !fits w (a + b))

/-- ES-to-ES conversion (R65): the result and whether it saturated or wrapped. -/
def convEs (v : Int) (F1 F2 w : Nat) (rm r : Nat) (sat : Bool) : Int × Bool :=
  let x := if F1 ≤ F2 then v * 2 ^ (F2 - F1) else roundShift rm r v (F1 - F2)
  if fits w x then (x, false) else if sat then (clamp w x, true) else (wrapTo w x, true)

/-- The guard bits of a leg that holds at most k contributions: ceil(log2(k + 1)), at least 1 (R53). -/
def guardBits (k : Nat) : Nat := if k = 0 then 1 else Nat.log2 k + 1

/-- The scout value that combines (R48): a value that is no exponent and neither identity nor non-finite combines as 0x7FFF. -/
def scoutSane (v : Int) : Int := if v = -32768 ∨ v = 32767 ∨ (-149 ≤ v ∧ v ≤ 127) then v else 32767

/-- Signed maximum of two scout values (R47). -/
def scoutMax (a b : Int) : Int := max (scoutSane a) (scoutSane b)

/-- The local exponent of a block's elements as a scout value (R46). -/
def scoutOf (f : FpFmt) (xs : List Nat) : Int :=
  xs.foldl (fun acc x =>
    match fpDecode f x with
    | .nan => 32767
    | .inf _ => 32767
    | .fin _ m e => if m = 0 then acc else max acc (expOf m e)) (-32768)

end Sys2Proof.Machine
end

