-- ==== Sys2Proof/Machine/CoreState.lean ====
section
/-! DEFINITION. The architectural state of a core and of a Steward, and of the engines, movers and mailboxes behind its ports
(spec/03_core_programming_model.md R73, spec/05_core_instruction_reference.md Tables 5.8 and 5.9, spec/20_firmware_and_rind.md Table 20.3). -/

namespace Sys2Proof.Machine

/-- CORE_STAT.STATE (Table 3.13). -/
inductive RunState where
  | reset | halted | running | waiting
  deriving DecidableEq, Repr

/-- CORE_STAT.HALT_REASON (Table 3.13). -/
inductive HaltReason where
  | none | request | exception | double | halt | step
  deriving DecidableEq, Repr

/-- The code of a run state. -/
def RunState.code : RunState → Nat
  | .reset => 0 | .halted => 1 | .running => 2 | .waiting => 3

/-- The code of a halt reason. -/
def HaltReason.code : HaltReason → Nat
  | .none => 0 | .request => 1 | .exception => 2 | .double => 3 | .halt => 4 | .step => 5

/-- The exception causes of Table 3.11. -/
inductive Cause where
  | illegal | repLoopreg | loopDepth | fetchRange | fetchEcc | misaligned | unmapped | apDisabled | apFence
  | dataEcc | ioPort | ioTimeout | brk
  deriving DecidableEq, Repr

/-- The code of a cause (Table 3.11). -/
def Cause.code : Cause → Nat
  | .illegal => 0x01 | .repLoopreg => 0x02 | .loopDepth => 0x03 | .fetchRange => 0x04 | .fetchEcc => 0x05
  | .misaligned => 0x06 | .unmapped => 0x07 | .apDisabled => 0x08 | .apFence => 0x09 | .dataEcc => 0x0A
  | .ioPort => 0x0B | .ioTimeout => 0x0C | .brk => 0x0D

/-- The priority of a cause; the lowest number is taken (Table 4.2). -/
def Cause.priority : Cause → Nat
  | .fetchRange => 1 | .fetchEcc => 2 | .illegal => 3 | .repLoopreg => 4 | .loopDepth => 5 | .brk => 6 | .ioPort => 7
  | .misaligned => 8 | .unmapped => 9 | .apDisabled => 10 | .apFence => 11 | .dataEcc => 12 | .ioTimeout => 13

/-- The running state of one active loop level (04, Hardware loops). -/
structure LoopLevel where
  start : BitVec 16
  stop : BitVec 16
  remaining : Word
  entryExl : Bool
  deriving DecidableEq, Repr

/-- The queues of one engine (Table 5.8): the words pushed and not yet taken, how many of them are committed, the
completion words not yet popped, and a finished command's completion that found the queue full. -/
structure EngineQ where
  cmd : List Word
  committed : Nat
  cpl : List Word
  held : Option Word
  deriving DecidableEq, Repr

/-- The registers of Table 3.1. The stored p[0] is never read: p0 reads as 1 (R74). -/
structure Regs where
  g : Vector Word 32
  acc : Vector (BitVec 40) 8
  p : Vector Bool 8
  pc : BitVec 16
  /-- The fetch address is 0x1_0000: sequential fetch has run past 0xFFFC (R156). -/
  past : Bool
  deriving DecidableEq, Repr

/-- The loop registers of Table 3.3 and the active levels, the innermost first. -/
structure Loops where
  ls : Vector (BitVec 16) 4
  le : Vector (BitVec 16) 4
  lc : Vector Word 4
  active : List LoopLevel
  /-- A REP that did not execute stands before the instruction at PC, whose end check compares both addresses (R148, R153). -/
  repPend : Bool
  deriving DecidableEq, Repr

/-- The control registers of Table 3.3 that are not loop registers. -/
structure Ctl where
  /-- CORE_ID (Table 3.4). -/
  id : Word
  /-- CORE_MODE (Table 3.5). -/
  mode : Word
  /-- CORE_STATUS (Table 3.6). -/
  status : Word
  /-- CAUSE (Table 3.7). -/
  cause : Word
  epc : BitVec 16
  badaddr : Word
  evec : BitVec 16
  ksKey : BitVec 64
  ksCtr : BitVec 128
  apBase : Vector Word 4
  apCtl : Vector Word 4
  fenceLo : Word
  fenceHi : Word
  deriving DecidableEq, Repr

/-- The control block of a core (Tables 3.12, 3.13 and 27.7). -/
structure Run where
  state : RunState
  reason : HaltReason
  cmdErr : Bool
  entry : BitVec 16
  args : Vector Word 4
  owner : BitVec 3
  /-- The instruction in progress is a STEP (R662). -/
  stepping : Bool
  /-- The IN or OUT a WAITING core stands on, with its guard, and the register of the REP it is a repetition of. -/
  waitOp : Option CoreOp
  waitIssue : Issue
  waitRep : Option (BitVec 5)
  /-- The REP at PC is under way, and its next repetition is held by an in-stack copy (R218). -/
  repHeld : Bool
  /-- A halt message held in the core's latch: header and second word (R544). -/
  haltMsg : Option (Word × Word)
  deriving DecidableEq, Repr

/-- The counters, their selections and the read latches (Tables 5.8 and 22.1). -/
structure Counters where
  cnt : Vector Word 8
  sel : Vector Word 8
  ovf : BitVec 8
  cyc : BitVec 64
  cycHi : Word
  btHi : Word
  /-- The armed target slot of BT_ARM, and BT_NOW_LO at the start that satisfied it (R187). -/
  arm : Option (BitVec 16)
  armAt : Option Word
  deriving DecidableEq, Repr

/-- The queues behind a core's ports (Tables 5.8 and 20.3). The Steward queues are empty on a compute core. -/
structure Ports where
  eng : Vector EngineQ 4
  dma : EngineQ
  mbTx : List Word
  mbRx : List Word
  /-- The words from logical core n of the same Bunch. -/
  peerRx : Vector (List Word) 8
  /-- The words from Steward n. -/
  smbRx : Vector (List Word) 8
  /-- The core-message queue of a Steward. -/
  cmsg : List Word
  /-- CTX_SEL of a Steward. -/
  ctxSel : BitVec 8
  deriving DecidableEq, Repr

/-- A core or a Steward. -/
structure Core where
  regs : Regs
  loops : Loops
  ctl : Ctl
  run : Run
  cnt : Counters
  ports : Ports
  deriving DecidableEq, Repr

/-! ## Reset values -/

/-- An empty queue. -/
def EngineQ.empty : EngineQ := { cmd := [], committed := 0, cpl := [], held := none }

/-- The registers cleared (R123 step 1). -/
def Regs.zero : Regs :=
  { g := Vector.replicate 32 0, acc := Vector.replicate 8 0, p := Vector.replicate 8 false, pc := 0, past := false }

/-- The loop registers cleared and D = 0 (R123, R135). -/
def Loops.zero : Loops :=
  { ls := Vector.replicate 4 0, le := Vector.replicate 4 0, lc := Vector.replicate 4 0, active := [], repPend := false }

/-- CORE_ID of a unit. The physical names stand as the logical ones until the Device Record is loaded (log entry 3). -/
def coreIdReset (u : UnitId) : Word :=
  if u.val < 256 then
    BitVec.ofNat 32 (u.val % 8 + u.val / 8 % 16 * 8 + u.val / 128 * 128 + u.val % 8 * 256 + u.val / 8 % 16 * 4096)
  else BitVec.ofNat 32 (u.val - 256 + (if u.val < 260 then 0 else 128) + 16777216)

/-- The control registers at reset (Tables 3.4 to 3.7 and 3.9; KS_KEY and KS_CTR: log entry 4). -/
def Ctl.reset (u : UnitId) : Ctl :=
  { id := coreIdReset u, mode := 0x60000#32, status := 0, cause := 0, epc := 0, badaddr := 0, evec := 0, ksKey := 0, ksCtr := 0,
    apBase := Vector.replicate 4 0, apCtl := Vector.replicate 4 0, fenceLo := 0, fenceHi := 0 }

/-- The control block at reset (Tables 3.13 and 27.7; CORE_ENTRY and CORE_ARG: log entry 4). -/
def Run.reset : Run :=
  { state := .reset, reason := .none, cmdErr := false, entry := 0, args := Vector.replicate 4 0, owner := 2,
    stepping := false, waitOp := none, waitIssue := ⟨0, false, false, none⟩, waitRep := none, repHeld := false, haltMsg := none }

/-- The counters cleared (R580); the read latches as log entry 4 says. -/
def Counters.zero : Counters :=
  { cnt := Vector.replicate 8 0, sel := Vector.replicate 8 0, ovf := 0, cyc := 0, cycHi := 0, btHi := 0, arm := none, armAt := none }

/-- Empty queues (Table 5.9). -/
def Ports.empty : Ports :=
  { eng := Vector.replicate 4 EngineQ.empty, dma := EngineQ.empty, mbTx := [], mbRx := [], peerRx := Vector.replicate 8 [],
    smbRx := Vector.replicate 8 [], cmsg := [], ctxSel := 0 }

/-- A unit right after reset. -/
def Core.reset (u : UnitId) : Core :=
  { regs := Regs.zero, loops := Loops.zero, ctl := Ctl.reset u, run := Run.reset, cnt := Counters.zero, ports := Ports.empty }

end Sys2Proof.Machine
end

