-- ==== Sys2Proof/Machine/Flags.lean ====
section
/-! DEFINITION. The fields of CORE_MODE, the event counters and every flag a core instruction sets
(spec/03 R79 to R86, R97, R98; spec/05 R167, R168, R170; spec/22 R579 to R582). -/

namespace Sys2Proof.Machine

/-- CORE_MODE.DEF_RM. -/
def Core.defRm (c : Core) : Nat := bits c.ctl.mode.toNat 0 3
/-- CORE_MODE.DEF_SAT. -/
def Core.defSat (c : Core) : Bool := c.ctl.mode.getLsbD 3
/-- CORE_MODE.EVEC_EN. -/
def Core.evecEn (c : Core) : Bool := c.ctl.mode.getLsbD 4
/-- CORE_MODE.EXL. -/
def Core.exl (c : Core) : Bool := c.ctl.mode.getLsbD 5
/-- CORE_MODE.IOWD_EXP. -/
def Core.iowdExp (c : Core) : Nat := bits c.ctl.mode.toNat 16 4
/-- Set or clear EXL. -/
def Core.setExl (c : Core) (b : Bool) : Core :=
  { c with ctl.mode := if b then c.ctl.mode ||| 0x20#32 else c.ctl.mode &&& ~~~(0x20#32) }

/-! ## Counters -/

/-- A counter counts an event now: its EVENT is the event, it is not chained, and NO_EXL does not hold it (Table 22.1). -/
def Counters.takes (k : Counters) (exl : Bool) (i : Fin 8) (ev : Nat) : Bool :=
  (k.sel[i].toNat % 256 == ev) && !(i.val % 2 == 1 && k.sel[i].getLsbD 8) && !(exl && k.sel[i].getLsbD 9)

/-- Add to one counter; a pass of 0xFFFF_FFFF sets its bit of CNT_OVF (R581). Answers how often it passed. -/
def Counters.add (k : Counters) (i : Fin 8) (n : Nat) : Counters × Nat :=
  let v := k.cnt[i].toNat + n
  ({ k with cnt := k.cnt.set i.val (BitVec.ofNat 32 v),
            ovf := if v < 2 ^ 32 then k.ovf else k.ovf ||| BitVec.ofNat 8 (2 ^ i.val) }, v / 2 ^ 32)

/-- Count an event on the counter pair (i, i + 1), i even, carrying overflows into a chained odd counter. -/
def Counters.countPair (k : Counters) (exl : Bool) (i j : Fin 8) (ev n : Nat) : Counters :=
  let e := k.add i (if k.takes exl i ev then n else 0)
  let o := if k.sel[j].getLsbD 8 then (if exl && k.sel[j].getLsbD 9 then 0 else e.2) else if k.takes exl j ev then n else 0
  (e.1.add j o).1

/-- Count `n` events of a code on every counter that selects it (R580, R581). -/
def Counters.count (k : Counters) (exl : Bool) (ev n : Nat) : Counters :=
  ((((k.countPair exl 0 1 ev n).countPair exl 2 3 ev n).countPair exl 4 5 ev n).countPair exl 6 7 ev n)

/-- Count events of a core. -/
def Core.count (c : Core) (ev n : Nat) : Core := { c with cnt := c.cnt.count c.exl ev n }

/-! ## CORE_STATUS -/

/-- Set a sticky bit of CORE_STATUS and count the setting: 0 SAT, 1 OVF, 2 CHK, 3 ECC_CORR (Tables 3.6 and 22.2). -/
def Core.setFlag (c : Core) (i : Nat) : Core :=
  Core.count { c with ctl.status := c.ctl.status ||| BitVec.ofNat 32 (2 ^ i) } (0x0C + i) 1

/-- Set a sticky bit when a condition holds. -/
def Core.flagIf (c : Core) (i : Nat) (b : Bool) : Core := if b then c.setFlag i else c

/-- The value a signed result takes at width `w` under the saturation bit (R79, R81). -/
def satValue (w : Nat) (sat : Bool) (v : Int) : Int := if sat then clamp w v else wrapTo w v

/-- The flag of a signed result at width `w`: SAT when it clamped, OVF when it wrapped (R79 to R81). -/
def Core.satFlag (c : Core) (w : Nat) (sat : Bool) (v : Int) : Core :=
  if fits w v then c else if sat then c.setFlag 0 else c.setFlag 1

/-- The keyed draw of one rounding event: under RKS the counter advances by one and the draw is counted (R85, R86). -/
def Core.drawn (c : Core) (rm : Nat) : Core :=
  if rm = 4 then Core.count { c with ctl.ksCtr := c.ctl.ksCtr + 1 } 0x0B 1 else c

/-- The draw value r of the next rounding event (R85). -/
def Core.drawVal (c : Core) : Nat :=
  draw c.ctl.ksKey.toNat (bits c.ctl.ksCtr.toNat 0 32) (bits c.ctl.ksCtr.toNat 32 32) (bits c.ctl.ksCtr.toNat 64 32)
    (bits c.ctl.ksCtr.toNat 96 32)

/-- The Q1.31 product rounded to 31 fraction bits (R78). -/
def Core.mulRound (c : Core) (rm : Nat) (a b : Word) : Int := roundShift rm c.drawVal (a.toInt * b.toInt) 31

end Sys2Proof.Machine
end

