-- ==== Sys2Proof/Machine/Operands.lean ====
section
/-! DEFINITION. The operand forms of core instructions: register reads and writes, immediates, addressing modes, control registers, and
the decode conditions of every format (spec/03 R74 to R76, R95; spec/05 R164 to R181). -/

namespace Sys2Proof.Machine

/-- Read a general register. -/
def Core.getG (c : Core) (i : BitVec 5) : Word := c.regs.g[i.toNat]'i.isLt
/-- Write a general register. -/
def Core.setG (c : Core) (i : BitVec 5) (v : Word) : Core := { c with regs.g := c.regs.g.set i.toNat v i.isLt }
/-- Read an accumulator. -/
def Core.getAcc (c : Core) (i : BitVec 3) : BitVec 40 := c.regs.acc[i.toNat]'i.isLt
/-- Write an accumulator. -/
def Core.setAcc (c : Core) (i : BitVec 3) (v : BitVec 40) : Core := { c with regs.acc := c.regs.acc.set i.toNat v i.isLt }
/-- Read a predicate; p0 reads as 1 (R74). -/
def Core.getP (c : Core) (i : BitVec 3) : Bool := if i = 0 then true else c.regs.p[i.toNat]'i.isLt
/-- Write a predicate; a write to p0 is discarded (R74). -/
def Core.setP (c : Core) (i : BitVec 3) (v : Bool) : Core :=
  if i = 0 then c else { c with regs.p := c.regs.p.set i.toNat v i.isLt }

/-- The register pair {gN+1:gN} as a 64-bit value (R75). -/
def Core.getG2 (c : Core) (i : BitVec 5) : DWord := (c.getG (i + 1)) ++ (c.getG i)
/-- Write a register pair: the low word to gN, the high to gN+1 (R75). -/
def Core.setG2 (c : Core) (i : BitVec 5) (v : DWord) : Core :=
  (c.setG i (v.truncate 32)).setG (i + 1) ((v >>> 32).truncate 32)

/-- A 10-bit immediate sign-extended (R164). -/
def imm10 (i : BitVec 10) : Word := i.signExtend 32
/-- A 16-bit immediate sign-extended (R164). -/
def imm16 (i : BitVec 16) : Word := i.signExtend 32

/-- A condition of Table 5.3. -/
def condHolds (cond : BitVec 3) (a b : Word) : Bool :=
  match cond.toNat with
  | 0 => a == b
  | 1 => a != b
  | 2 => decide (a.toInt < b.toInt)
  | 3 => decide (b.toInt ≤ a.toInt)
  | 4 => decide (a.toNat < b.toNat)
  | 5 => decide (b.toNat ≤ a.toNat)
  | 6 => (a &&& b) != 0
  | _ => (a &&& b) == 0

/-- The address offset k = OFF × w, OFF signed (R173). -/
def memOffset (off : BitVec 6) (w : Nat) : Word := BitVec.ofInt 32 (off.toInt * w)

/-- The access address of a mode of Table 5.4. -/
def accessAddr (mode : BitVec 2) (base k : Word) : Word := if mode = 1 then base else base + k

/-- The base register after the access (Table 5.4). -/
def baseAfter (mode : BitVec 2) (base k : Word) : Word := if mode = 0 then base else base + k

/-- The branch target (PC + 4 × off) mod 2^16 (Table 4.1). -/
def branchTarget (pc : BitVec 16) (off : BitVec 16) : BitVec 16 := pc + 4 * off
/-- The target of a register transfer: bits [15:2] (R131). -/
def regTarget (v : Word) : BitVec 16 := (v.truncate 16) &&& 0xFFFC#16
/-- The end address of LOOP, exact: PC + 4 + 4 × EOFF (R166). -/
def loopEnd (pc : BitVec 16) (eoff : BitVec 14) : Nat := pc.toNat + 4 + 4 * eoff.toNat

/-! ## Control registers (Table 3.3) -/

/-- A control register number is listed in Table 3.3. -/
def crListed (n : Nat) : Bool := (n < 0x1A && n != 0x07) || (0x20 ≤ n && n < 0x2A)

/-- Read a control register. -/
def Core.getCr (c : Core) (n : Nat) : Word :=
  if n = 0x00 then c.ctl.id
  else if n = 0x01 then c.ctl.mode
  else if n = 0x02 then c.ctl.status
  else if n = 0x03 then c.ctl.cause
  else if n = 0x04 then c.ctl.epc.zeroExtend 32
  else if n = 0x05 then c.ctl.badaddr
  else if n = 0x06 then c.ctl.evec.zeroExtend 32
  else if h : 0x08 ≤ n ∧ n < 0x0C then (c.loops.ls[n - 8]'(by omega)).zeroExtend 32
  else if h : 0x0C ≤ n ∧ n < 0x10 then (c.loops.le[n - 12]'(by omega)).zeroExtend 32
  else if h : 0x10 ≤ n ∧ n < 0x14 then c.loops.lc[n - 16]'(by omega)
  else if n = 0x14 then c.ctl.ksKey.truncate 32
  else if n = 0x15 then (c.ctl.ksKey >>> 32).truncate 32
  else if 0x16 ≤ n ∧ n < 0x1A then (c.ctl.ksCtr >>> (32 * (n - 0x16))).truncate 32
  else if h : 0x20 ≤ n ∧ n < 0x24 then c.ctl.apBase[n - 32]'(by omega)
  else if h : 0x24 ≤ n ∧ n < 0x28 then c.ctl.apCtl[n - 36]'(by omega)
  else if n = 0x28 then c.ctl.fenceLo
  else if n = 0x29 then c.ctl.fenceHi
  else 0

/-- Write a control register under its access code (R8, R95, Tables 3.3 to 3.9). The caller has refused a reserved DEF_RM. -/
def Core.setCr (c : Core) (n : Nat) (v : Word) : Core :=
  if n = 0x01 then { c with ctl.mode := v &&& 0xF003F#32 }
  else if n = 0x02 then { c with ctl.status := c.ctl.status &&& ~~~(v &&& 0xF#32) }
  else if n = 0x04 then { c with ctl.epc := v.truncate 16 }
  else if n = 0x06 then { c with ctl.evec := (v.truncate 16) &&& 0xFFFC#16 }
  else if h : 0x08 ≤ n ∧ n < 0x0C then { c with loops.ls := c.loops.ls.set (n - 8) (v.truncate 16) (by omega) }
  else if h : 0x0C ≤ n ∧ n < 0x10 then { c with loops.le := c.loops.le.set (n - 12) (v.truncate 16) (by omega) }
  else if h : 0x10 ≤ n ∧ n < 0x14 then { c with loops.lc := c.loops.lc.set (n - 16) v (by omega) }
  else if n = 0x14 then { c with ctl.ksKey := ((c.ctl.ksKey >>> 32).truncate 32 : Word) ++ v }
  else if n = 0x15 then { c with ctl.ksKey := v ++ (c.ctl.ksKey.truncate 32 : Word) }
  else if 0x16 ≤ n ∧ n < 0x1A then
    { c with ctl.ksCtr := BitVec.ofNat 128 (putBits128 c.ctl.ksCtr.toNat (32 * (n - 0x16)) v.toNat) }
  else if h : 0x20 ≤ n ∧ n < 0x24 then { c with ctl.apBase := c.ctl.apBase.set (n - 32) (v &&& 0x3FFFF#32) (by omega) }
  else if h : 0x24 ≤ n ∧ n < 0x28 then { c with ctl.apCtl := c.ctl.apCtl.set (n - 36) (v &&& 3#32) (by omega) }
  else c
where
  /-- Replace 32 bits of a number from bit `lo`. -/
  putBits128 (x lo v : Nat) : Nat := x % 2 ^ lo + v * 2 ^ lo + x / 2 ^ (lo + 32) * 2 ^ (lo + 32)

/-- A value whose DEF_RM field holds a reserved code (R84, Table 2.4). -/
def badDefRm (v : Word) : Bool := decide (5 ≤ v.toNat % 8)

/-! ## Decode conditions (R165, R171, R175, R176, R178) -/

/-- The RM and SAT fields and the reserved field of an RR operation are as Table 5.2 allows. -/
def rrOk (f : FRR) (rmUsed satUsed : Bool) : Bool :=
  f.rsv == 0 && (if rmUsed then decide (f.rm.toNat < 5) else f.rm == 0) && (satUsed || !f.sat)

/-- The fields of an LD are legal (R75, R173, R175, R176). -/
def ldOk (f : FM) : Bool :=
  f.mode != 3 && !(f.sx && decide (2 ≤ f.size.toNat)) && !(f.size == 3 && f.t.getLsbD 0) &&
  !((f.mode == 1 || f.mode == 2) && (f.t == f.base || (f.size == 3 && f.t + 1 == f.base)))

/-- The fields of an ST are legal (R75, R173, R176). -/
def stOk (f : FM) : Bool := f.mode != 3 && !f.sx && !(f.size == 3 && f.t.getLsbD 0)

/-- The fields of an LDA or STA are legal. -/
def maOk (f : FMA) : Bool := f.mode != 3 && f.rsv1 == 0 && f.rsv2 == 0

/-- The fields of a pip are legal (R178, R179). -/
def pipOk (q : Pip) : Bool :=
  match q.op.toNat with
  | 0x0 => q.d == 0 && q.s == 0
  | 0xD => !q.s.getLsbD 3
  | _ => true

/-- An operation at a PC meets no ILLEGAL condition of its encoding; REP's target is checked apart (R150, R165). -/
def opLegal (pc : BitVec 16) : CoreOp → Bool
  | .nop f => f.rsv == 0
  | .add f => rrOk f false true | .sub f => rrOk f false true
  | .and f => rrOk f false false | .or f => rrOk f false false | .xor f => rrOk f false false
  | .shl f => rrOk f false true
  | .shr f => rrOk f false false | .sar f => rrOk f false false
  | .min f => rrOk f false false | .max f => rrOk f false false
  | .minu f => rrOk f false false | .maxu f => rrOk f false false
  | .mul f => rrOk f false true | .mulh f => rrOk f false false | .mulhu f => rrOk f false false
  | .fmul f => rrOk f true true
  | .esadd f => rrOk f false true
  | .esaddD f => rrOk f false true && !f.d.getLsbD 0 && !f.a.getLsbD 0 && !f.b.getLsbD 0
  | .sel f => f.rsv == 0
  | .addi _ => true
  | .andi f => !f.sat | .ori f => !f.sat | .xori f => !f.sat
  | .movi _ => true | .movhi _ => true
  | .cmp f => f.rsv == 0 | .cmpi _ => true
  | .mac f => f.rsv == 0 && decide (f.rm.toNat < 5) | .msu f => f.rsv == 0 && decide (f.rm.toNat < 5)
  | .ext f => f.rsv == 0 && decide (f.rm.toNat < 5) && decide (f.sh.toNat ≤ 8)
  | .accset f => f.rsv == 0 | .accclr f => f.rsv == 0 && f.a == 0
  | .accadd f => f.rsv == 0
  | .ld f => ldOk f | .st f => stOk f | .lda f => maOk f | .sta f => maOk f
  | .fence f => f.rsv == 0
  | .inn _ => true | .out _ => true
  | .mfc f => f.rsv == 0 && crListed f.c.toNat | .mtc f => f.rsv == 0 && crListed f.c.toNat
  | .br f => f.rsv == 0 | .call f => f.rsv == 0
  | .jmp f => f.rsv1 == 0 && f.rsv2 == 0 | .callr f => f.rsv1 == 0 && f.rsv2 == 0
  | .ret f => f.rsv == 0 | .eret f => f.rsv == 0 | .halt f => f.rsv == 0 | .brk f => f.rsv == 0
  | .loop f => f.rsv == 0 && decide (loopEnd pc f.eoff ≤ 0xFFFC)
  | .loopx f => f.rsv == 0 | .lpop f => f.rsv == 0
  | .rep f => f.rsv == 0
  | .reserved _ _ => false
  | .pair q1 q2 => pipOk q1 && pipOk q2

/-- A pip writes a general register. -/
def pipWrites (q : Pip) (r : BitVec 5) : Bool :=
  match q.op.toNat with
  | 0x0 => false | 0xD => false | 0xE => false | _ => q.d == r

/-- A load writes a general register: its target or its base. -/
def ldWrites (f : FM) (r : BitVec 5) : Bool :=
  f.t == r || (f.size == 3 && f.t + 1 == r) || (f.mode != 0 && f.base == r)

/-- An operation writes a general register (for REP's restriction, R150). -/
def opWrites (r : BitVec 5) : CoreOp → Bool
  | .add f => f.d == r | .sub f => f.d == r | .and f => f.d == r | .or f => f.d == r | .xor f => f.d == r
  | .shl f => f.d == r | .shr f => f.d == r | .sar f => f.d == r | .min f => f.d == r | .max f => f.d == r
  | .minu f => f.d == r | .maxu f => f.d == r | .mul f => f.d == r | .mulh f => f.d == r | .mulhu f => f.d == r
  | .fmul f => f.d == r | .esadd f => f.d == r | .esaddD f => f.d == r || f.d + 1 == r
  | .sel f => f.d == r | .addi f => f.d == r | .andi f => f.d == r | .ori f => f.d == r | .xori f => f.d == r
  | .movi f => f.d == r | .movhi f => f.d == r | .ext f => f.d == r
  | .ld f => ldWrites f r | .st f => f.mode != 0 && f.base == r
  | .lda f => f.mode != 0 && f.base == r | .sta f => f.mode != 0 && f.base == r
  | .inn f => f.t == r | .mfc f => f.t == r
  | .call _ => r == 31 | .callr _ => r == 31
  | .pair q1 q2 => pipWrites q1 r || pipWrites q2 r
  | _ => false

/-- An operation is an instruction of Table 4.1 other than BREAK. -/
def opTransfers : CoreOp → Bool
  | .br _ => true | .call _ => true | .jmp _ => true | .callr _ => true | .ret _ => true | .eret _ => true | .halt _ => true
  | _ => false

/-- A target that REP refuses with REP_LOOPREG (R150). -/
def repLoopReg : CoreOp → Bool
  | .loop _ => true | .loopx _ => true | .lpop _ => true
  | .mtc f => decide (0x08 ≤ f.c.toNat) && decide (f.c.toNat ≤ 0x13)
  | _ => false

/-- An operation is REP. -/
def opIsRep : CoreOp → Bool
  | .rep _ => true
  | _ => false

/-- The decode exception of a REP word whose target, at PC + 4, is `t` (R150): ILLEGAL before REP_LOOPREG (Table 4.2). -/
def repTargetCause (pc : BitVec 16) (r : BitVec 5) (t : CoreOp) : Option Cause :=
  if !opLegal (pc + 4) t || opIsRep t || opTransfers t || opWrites r t then some .illegal
  else if repLoopReg t then some .repLoopreg else none

end Sys2Proof.Machine
end

