-- ==== Sys2Proof/Machine/Mem.lean ====
section
/-! DEFINITION. Sparse maps in one canonical form, and byte memories over them.

A sparse map is a list of (key, value) pairs with strictly rising keys and no entry equal to what an unlisted key reads as. -/

namespace Sys2Proof.Machine

/-- A sparse map. -/
abbrev SMap (α : Type) := List (Nat × α)

/-- The value at a key; an unlisted key reads as `d` gives. -/
def SMap.get {α : Type} (d : Nat → α) : SMap α → Nat → α
  | [], a => d a
  | (k, v) :: t, a => if k = a then v else if a < k then d a else SMap.get d t a

/-- Write the value at a key, keeping the canonical form: the entry of a key that is given what it reads as unlisted goes, and with it
whatever stands out of order behind it. -/
def SMap.set {α : Type} [DecidableEq α] (d : Nat → α) : SMap α → Nat → α → SMap α
  | [], a, x => if x = d a then [] else [(a, x)]
  | (k, v) :: t, a, x =>
    if a < k then (if x = d a then (k, v) :: t else (a, x) :: (k, v) :: t)
    else if a = k then (if x = d a then t.dropWhile (fun q => q.1 ≤ a) else (a, x) :: t)
    else (k, v) :: SMap.set d t a x

/-- The canonical form. -/
def SMap.wf {α : Type} [DecidableEq α] (d : Nat → α) : SMap α → Bool
  | [] => true
  | (k, v) :: t => (t.all fun q => k < q.1) && (v ≠ d k) && SMap.wf d t

/-- A byte memory: bytes by address; an unlisted byte reads zero (log entry 2). -/
abbrev Mem := List Host.Cell

/-- What a byte of memory that nothing has written reads as (log entry 2). -/
def memDefault (_ : Nat) : Byte := 0

/-- The canonical form of a byte memory. -/
def Mem.wf (m : Mem) : Bool := SMap.wf memDefault m

/-- One byte read. -/
def Mem.get (m : Mem) (a : Nat) : Byte := SMap.get memDefault m a

/-- One byte written. -/
def Mem.set (m : Mem) (a : Nat) (b : Byte) : Mem := SMap.set memDefault m a b

/-- `n` bytes read from an address upward. -/
def Mem.bytes (m : Mem) (a : Nat) : Nat → List Byte
  | 0 => []
  | n + 1 => m.get a :: Mem.bytes m (a + 1) n

/-- Bytes written from an address upward, the lowest first. -/
def Mem.put (m : Mem) (a : Nat) : List Byte → Mem
  | [] => m
  | b :: bs => Mem.put (m.set a b) (a + 1) bs

/-- Replace the range [da, da + n) by the bytes of [sa, sa + n) as they stood in `src`. -/
def Mem.copyRange (src dst : Mem) (sa da n : Nat) : Mem :=
  (dst.filter fun q => q.1 < da) ++
  ((src.filter fun q => sa ≤ q.1 && q.1 < sa + n).map fun q => (q.1 - sa + da, q.2)) ++
  (dst.filter fun q => da + n ≤ q.1)

/-- A memory with its protection words: the bytes, the protection words that hold an uncorrectable error, and those that
hold an error the code corrects, by word index (R227). Both lists are strictly rising. -/
structure Ram where
  bytes : Mem
  bad : List Nat
  soft : List Nat
  deriving DecidableEq, Repr

/-- An empty memory without errors. -/
def Ram.empty : Ram := { bytes := [], bad := [], soft := [] }

/-- A protection word of an access is uncorrectable. -/
def Ram.anyBad (r : Ram) (w a n : Nat) : Bool := r.bad.any fun i => a / w ≤ i && i * w < a + n

/-- A protection word of an access holds a corrected error. -/
def Ram.anySoft (r : Ram) (w a n : Nat) : Bool := r.soft.any fun i => a / w ≤ i && i * w < a + n

/-- A protection word touched by a write is re-encoded, so its marks go (R228, R230). -/
def unmark (w a n : Nat) (l : List Nat) : List Nat := l.filter fun i => !(a / w ≤ i && i * w < a + n)

/-- Write bytes and re-encode the protection words touched. The caller has checked the read-merge of R228. -/
def Ram.put (r : Ram) (w a : Nat) (l : List Byte) : Ram :=
  if l.isEmpty then r
  else { bytes := r.bytes.put a l, bad := unmark w a l.length r.bad, soft := unmark w a l.length r.soft }

/-- A write of `n` bytes at `a` covers an uncorrectable protection word only in part, so its read-merge fails (R228). -/
def Ram.mergeFails (r : Ram) (w a n : Nat) : Bool :=
  r.bad.any fun i => a / w ≤ i && i * w < a + n && !(a ≤ i * w && (i + 1) * w ≤ a + n)

end Sys2Proof.Machine
end

