-- ==== Sys2Proof/Machine/Csr.lean ====
section
/-! DEFINITION. The register file of BAR0, of the LHQI blocks and of the Steward domains: offsets, access codes, reset values and
fields (spec/27_address_map.md R646 to R652, R656; the field maps of the owning chapters; access codes of R8).

A register word is keyed by its BAR0 offset. The LHQI block of instance n is keyed at its place in the Steward-private region,
0x2040_0000 + 0x1_0000 × n, and the domain block of Steward n at 0x2080_0000 + 0x1000 × n (Table 27.6). -/

namespace Sys2Proof.Machine

/-- The access codes of the bits of one register word, and its reset value. Bits in no mask are RO or reserved. -/
structure RegInfo where
  rst : Nat
  rw : Nat
  w1c : Nat
  rc : Nat
  rwl : Nat
  deriving DecidableEq, Repr

/-- A word of read-only bits. -/
def ro (rst : Nat) : Option RegInfo := some { rst := rst, rw := 0, w1c := 0, rc := 0, rwl := 0 }
/-- A word of RW bits in a mask. -/
def rwm (rst m : Nat) : Option RegInfo := some { rst := rst, rw := m, w1c := 0, rc := 0, rwl := 0 }
/-- A word of RWL bits in a mask. -/
def rwl (rst m : Nat) : Option RegInfo := some { rst := rst, rw := 0, w1c := 0, rc := 0, rwl := m }
/-- A word of RC bits in a mask. -/
def rcm (m : Nat) : Option RegInfo := some { rst := 0, rw := 0, w1c := 0, rc := m, rwl := 0 }
/-- A word of W1C bits in a mask. -/
def w1m (m : Nat) : Option RegInfo := some { rst := 0, rw := 0, w1c := m, rc := 0, rwl := 0 }

/-- Every bit of a word. -/
def allOnes : Nat := 0xFFFFFFFF

/-- Block DEV (Tables 21.7, 24.x, 27.5). Before the Device Record is loaded the DR fields hold what log entry 3 says. -/
def infoDev (o : Nat) : Option RegInfo :=
  if o = 0x00 then ro 0xDB18140
  else if o = 0x08 ∨ o = 0x0C ∨ o = 0x10 ∨ o = 0x14 ∨ o = 0x18 ∨ o = 0x1C ∨ o = 0x20 then ro 0
  else none

/-- Block PWR (24_power_clocks_reset.md). -/
def infoPwr (o : Nat) : Option RegInfo :=
  if o = 0x00 then rwm 520 0x3FF else if o = 0x04 then ro (520 * 256) else if o = 0x08 ∨ o = 0x0C then ro 0 else none

/-- Block TELEM (Table 22.5). -/
def infoTelem (o : Nat) : Option RegInfo :=
  if o = 0x00 then rwm 0x1FF 0x1FF else if o = 0x04 then rwm 1000 allOnes else if o = 0x08 then rcm allOnes else none

/-- Block RIND (Table 20.5). -/
def infoRind (o : Nat) : Option RegInfo :=
  if o = 0x000 then rwl 0 1 else if o = 0x004 then rcm allOnes else if o = 0x008 then rwl 0 allOnes
  else if o = 0x00C then rwl 560 0x3FF else if o = 0x010 then rwl 0 0x3FFFF else if o = 0x014 then rwl 0 0x3FFFF
  else if 0x100 ≤ o ∧ o < 0x180 then rwl 0 0xFFFF
  else if 0x200 ≤ o ∧ o < 0x280 then
    (if o % 16 = 0 then rwl 0 0xFFFFF001 else if o % 16 = 8 then rwl 0 0xFFFFF000 else rwl 0 allOnes)
  else if 0x400 ≤ o ∧ o < 0x600 then
    (if o % 16 = 0 then rwl 0 0xFFFFF001 else if o % 16 = 8 then rwl 0 0xFFFFF000 else rwl 0 allOnes)
  else if 0x800 ≤ o ∧ o < 0xC00 then
    (if o % 32 = 0x04 ∨ o % 32 = 0x18 ∨ o % 32 = 0x1C then none else rwl 0 allOnes)
  else none

/-- Block GRAFT (Table 20.9). GRAFT_CTL is FE (WO) and reads zero. -/
def infoGraft (o : Nat) : Option RegInfo :=
  if o = 0x00 then rwm 0 allOnes else if o = 0x04 then rwm 0 0x3F else if o = 0x08 then rwm 0 allOnes
  else if o = 0x0C ∨ o = 0x10 then ro 0
  else if 0x100 ≤ o ∧ o < 0x140 then (if o % 8 = 0 then rcm 0xFFFF00 else ro 0)
  else none

/-- Block HLTH (Table 16.9). -/
def infoHlth (o : Nat) : Option RegInfo :=
  if o = 0x000 then rwm 0x10100 0x1FFFF else if o = 0x004 then ro 0 else if o = 0x008 then rcm allOnes
  else if 0x100 ≤ o ∧ o < 0x140 then
    (if o % 8 = 0 then some { rst := 0, rw := 0, w1c := 8, rc := 0xFF00, rwl := 0 } else ro 0)
  else if (0x200 ≤ o ∧ o < 0x244) ∨ (0x280 ≤ o ∧ o < 0x2C4) then ro 0
  else none

/-- Block TIME (Tables 7.4 and 7.9). -/
def infoTime (o : Nat) : Option RegInfo :=
  if o = 0x000 then ro 0x3F00 else if o = 0x004 then ro 0 else if o = 0x008 then rwl 0 0x37F7F
  else if o = 0x100 then ro 0 else if o = 0x104 then rwm 0 allOnes else if o = 0x108 then rwm 0 0x3F
  else if o = 0x10C then rwm 0 allOnes else if o = 0x110 then rcm 0xFFFF0000
  else if o = 0x114 ∨ o = 0x118 ∨ o = 0x11C then ro 0 else none

/-- Block TWIN (Table 17.4). -/
def infoTwin (o : Nat) : Option RegInfo :=
  if o = 0x0 then rwl 0xA14 allOnes else if o = 0x4 then rwm 1000 0xFFFF else if o = 0x8 then ro 0
  else if o = 0xC then rcm allOnes else none

/-- Block HBM (Tables 6.9 and 6.10). -/
def infoHbm (o : Nat) : Option RegInfo :=
  if o = 0 then ro (36864 * 16)
  else if 0x100 ≤ o ∧ o < 0x180 then
    (if o % 32 = 0x0 ∨ o % 32 = 0x4 ∨ o % 32 = 0x8 then rwm 0 0x3FFFF
     else if o % 32 = 0xC then ro 0 else if o % 32 = 0x10 then w1m 6 else none)
  else none

/-- Block DIE (Tables 2.7 and 8.13). -/
def infoDie (o : Nat) : Option RegInfo :=
  if o = 0x000 ∨ o = 0x100 then some { rst := 0, rw := 0, w1c := 7, rc := 0xFFFF0000, rwl := 0 }
  else if o = 0x004 ∨ o = 0x104 then rcm allOnes else none

/-- Block CKPT (Table 15.7). -/
def infoCkpt (o : Nat) : Option RegInfo :=
  if o = 0x000 then w1m 8 else if o = 0x008 ∨ o = 0x00C ∨ o = 0x010 then ro 0 else if o = 0x014 then rwm 60 0x7F
  else if 0x100 ≤ o ∧ o < 0x120 then rwm 0 0x3FFFF else none

/-- Block LFT (Table 9.10). -/
def infoLft (o : Nat) : Option RegInfo :=
  if o = 0x00 then rwm 7 0xF else if 0x10 ≤ o ∧ o < 0x20 then rcm allOnes else none

/-- Block BLK (13_block_service.md, Registers). -/
def infoBlk (o : Nat) : Option RegInfo :=
  if o < 0x80 then (if o % 16 = 0 then ro 0 else if o % 16 = 4 then rcm allOnes else none)
  else if o = 0x100 ∨ o = 0x104 then ro 0 else none

/-- Block DEC (Table 14.9). -/
def infoDec (o : Nat) : Option RegInfo :=
  if o = 0x00 ∨ o = 0x04 then ro 0 else if 0x10 ≤ o ∧ o < 0x1C then rcm allOnes else none

/-- Blocks ACC and HOSTWIN (Table 27.5). -/
def infoAcc (o : Nat) : Option RegInfo := if o < 0x80 ∧ o % 16 = 0 then w1m 0x400 else none
/-- Block HOSTWIN (Table 27.5). -/
def infoHostwin (o : Nat) : Option RegInfo :=
  if o = 0 then rwm 0 0x1FF03FF else if o = 4 then w1m 0x2000000 else none

/-- A word of an MSI-X table: address, data and vector control (R503, R652; log entry 60). -/
def infoMsix (o : Nat) : Option RegInfo :=
  if o % 16 = 12 then rwm 1 1 else if o % 16 = 0 then rwm 0 0xFFFFFFFC else rwm 0 allOnes
/-- Block LHQI0 beyond the LHQI block: the MSI-X table and PBA of the physical function (R652). -/
def infoPfMsix (o : Nat) : Option RegInfo :=
  if 0x80000 ≤ o ∧ o < 0x88000 then infoMsix o else if 0x90000 ≤ o ∧ o < 0x90100 then ro 0 else none
/-- The LHQI block of an instance (Table 18.3), with the MSI-X table and PBA of a virtual function (R652). -/
def infoLhqi (n o : Nat) : Option RegInfo :=
  if 0x8000 ≤ o ∧ n ≠ 0 then (if o < 0x8400 then infoMsix o else if o = 0xC000 ∨ o = 0xC004 then ro 0 else none)
  else if o = 0x00 then ro 0x100 else if o = 0x04 then rwm 0 0xFFFF else if o = 0x08 then ro 0 else if o = 0x0C then ro 0
  else if o = 0x10 ∨ o = 0x14 ∨ o = 0x18 ∨ o = 0x1C ∨ o = 0x20 then rwm 0 allOnes
  else if o = 0x24 then rwm 0 0x7FF else if o = 0x28 then rwm 0 allOnes else if o = 0x2C then rwm 1000 0xFFFF
  else if o = 0x30 ∨ o = 0x34 then w1m allOnes else if o = 0x38 then rcm 0xFFFF else none

/-- Block INST (Table 19.1). The shadow quota record of instance n. -/
def infoInst (o : Nat) : Option RegInfo :=
  if 0x4000 ≤ o then none else
  let n := o / 256
  let r := o % 256
  if r < 0x40 then
    (if r % 16 = 0 then rwm (if n = 0 ∧ r = 0 then 1 else 0) 0xFFFFF001
     else if r % 16 = 8 then rwm (if n = 0 ∧ r = 8 then 0xFFFFF000 else 0) 0xFFFFF000
     else if r % 16 = 12 then rwm (if n = 0 ∧ r = 12 then allOnes else 0) allOnes
     else rwm 0 allOnes)
  else if r = 0x40 then rwm (if n = 0 then 576 * 65536 else 0) 0x3FF03FF
  else if r = 0x44 then rwm (if n = 0 then 4096 * 65536 else 0) 0x1FFF0FFF
  else if r = 0x48 then rwm 0 0x7FFF1FFF else if r = 0x4C then rwm 0 allOnes else if r = 0x50 then ro 0
  else if r = 0x54 then some { rst := if n = 0 then 1 else 0, rw := 0, w1c := 16, rc := 0, rwl := 0 } else none

/-- Blocks NETk (Tables 10.6, 11.3, 12.4 and 27.2). MODE is written by OCTET_MODE_WRITE and EN by PORT_ENABLE too. -/
def infoNet (o : Nat) : Option RegInfo :=
  if o < 0x10 then
    (if o = 0 then some { rst := 0, rw := 3, w1c := 4, rc := 0, rwl := 0 } else if o = 4 then rwl 0xFAC688 0xFFFFFF
     else if o = 8 then rwl 0 0xFFFF else if o = 0xC then rwl 0 allOnes else none)
  else if 0x10000 ≤ o ∧ o < 0x18000 then
    let r := o % 0x1000
    (if r = 0 then rwm 8 0x3F else if r = 4 then ro 0 else if r = 8 ∨ r = 0xC ∨ (0x10 ≤ r ∧ r < 0x20) then rcm allOnes
     else if 0x40 ≤ r ∧ r < 0x80 then rwm 0 allOnes else none)
  else if 0x20000 ≤ o ∧ o < 0x28000 then
    let r := o % 0x1000
    (if r = 0 then rwm 0xFF3F14 0xFF7FFF else if r = 4 then rwm 0xFAC688 0xFFFFFF else if r = 8 then ro 0x7FF
     else if 0x100 ≤ r ∧ r < 0x300 then
       let q := r % 0x40
       (if q = 0 ∨ q = 4 then rwm 0 0x3FFFFF else if q = 8 then rwm 0 allOnes else if q = 0xC then rwm 0x100 0x3FFFF01
        else if q = 0x10 then ro 0 else if q = 0x14 then rcm 0xFFFFFF else if q = 0x18 then rcm allOnes
        else if q = 0x1C ∨ q = 0x20 then ro 0 else none)
     else none)
  else if 0x30000 ≤ o ∧ o < 0x38000 then
    let r := o % 0x1000
    (if r = 0 then some { rst := 2, rw := 0xFE, w1c := 0, rc := 0, rwl := 1 } else if r = 4 then rwm 0 allOnes
     else if r = 8 then rwm 0xC0000000 allOnes else if r = 0xC then rcm allOnes
     else if 0x10 ≤ r ∧ r < 0x20 then rwm 0 0xFFF
     else if 0x100 ≤ r ∧ r < 0x200 then
       (if r % 0x20 = 0 ∨ r % 0x20 = 4 then rwm 0 allOnes
        else if 8 ≤ r % 0x20 ∧ r % 0x20 < 0x18 then rwm 0 0x1FFF else none)
     else none)
  else none

/-- Block CLS (Table 10.7). -/
def infoCls (o : Nat) : Option RegInfo :=
  if o = 0 then rwm 0 0x7FFF else if o = 4 then w1m 0x40000 else if o = 8 then ro 0 else if o = 0xC then rcm allOnes
  else if 0x100 ≤ o ∧ o < 0x180 then rwm 0 allOnes else none

/-- Block CIPH (Table 12.4). -/
def infoCiph (o : Nat) : Option RegInfo := if o < 32 then rcm 0xFFFF else none

/-- The domain block of a Steward (Tables 20.9 and 27.6). -/
def infoDom (o : Nat) : Option RegInfo :=
  if o < 0x80 then rwl 0 allOnes else if o = 0x80 ∨ o = 0x84 then rwl 0 0x3FFFF else if o = 0x88 then rwl 0 0xFFFF else none

/-- The register word at a word-aligned key; `none` for an unassigned one (R649, R651). -/
def regInfo (key : Nat) : Option RegInfo :=
  if key % 4 ≠ 0 then none
  else if 0x20400000 ≤ key ∧ key < 0x20800000 then infoLhqi ((key - 0x20400000) / 0x10000) (key % 0x10000)
  else if 0x20800000 ≤ key ∧ key < 0x20808000 then infoDom (key % 0x1000)
  else if 0x10000000 ≤ key then none
  else
    let o := key % 0x100000
    match key / 0x100000 with
    | 0x00 => infoDev o | 0x01 => infoPwr o | 0x02 => infoTelem o | 0x03 => infoRind o | 0x04 => infoGraft o
    | 0x05 => infoHlth o | 0x06 => infoTime o | 0x07 => infoTwin o | 0x08 => infoHbm o | 0x09 => infoDie o
    | 0x0A => infoCkpt o | 0x0B => infoLft o | 0x0C => infoBlk o | 0x0D => infoDec o | 0x0E => infoAcc o
    | 0x0F => infoHostwin o | 0x10 => infoPfMsix o | 0x11 => infoInst o | 0x20 => infoNet o | 0x21 => infoNet o | 0x22 => infoNet o
    | 0x23 => infoNet o | 0x24 => infoCls o | 0x25 => infoCiph o | _ => none

/-- The key of a BAR0 offset: block LHQI0 is the LHQI block of instance 0 (R652). -/
def keyOfBar0 (o : Nat) : Nat := if 0x1000000 ≤ o ∧ o < 0x1010000 then o - 0x1000000 + 0x20400000 else o

/-- The reset value of a register word. -/
def resetVal (key : Nat) : Word := match regInfo key with | some i => BitVec.ofNat 32 i.rst | none => 0

/-- The register file. -/
abbrev Csr := SMap Word

/-- A register word read without side effect. -/
def Csr.get (c : Csr) (key : Nat) : Word := SMap.get resetVal c key

/-- A register word set by the device. -/
def Csr.set (c : Csr) (key : Nat) (v : Word) : Csr := SMap.set resetVal c key v

/-- A field of a register word. -/
structure Fld where
  key : Nat
  lo : Nat
  w : Nat
  deriving DecidableEq, Repr

/-- The value of a field. -/
def Csr.fld (c : Csr) (f : Fld) : Nat := bits (c.get f.key).toNat f.lo f.w

/-- A word with a field replaced. -/
def putBits (x lo w v : Nat) : Nat := x % 2 ^ lo + (v % 2 ^ w) * 2 ^ lo + x / 2 ^ (lo + w) * 2 ^ (lo + w)

/-- Set a field, leaving the rest of its word. -/
def Csr.setFld (c : Csr) (f : Fld) (v : Nat) : Csr := c.set f.key (BitVec.ofNat 32 (putBits (c.get f.key).toNat f.lo f.w v))

/-- Count up a field, saturating. -/
def Csr.incFld (c : Csr) (f : Fld) (n : Nat := 1) : Csr := c.setFld f (min (c.fld f + n) (2 ^ f.w - 1))

/-- Two adjacent words read as one number. -/
def Csr.get64 (c : Csr) (key : Nat) : Nat := (c.get key).toNat + (c.get (key + 4)).toNat * 2 ^ 32

/-- Set two adjacent words. -/
def Csr.set64 (c : Csr) (key : Nat) (v : Nat) : Csr := (c.set key (BitVec.ofNat 32 v)).set (key + 4) (BitVec.ofNat 32 (v / 2 ^ 32))

/-- The wide register a word belongs to: its first word and its number of words (R648; log entry 5). -/
def wideOf (key : Nat) : Option (Nat × Nat) :=
  let o := key % 0x100000
  match key / 0x100000 with
  | 0x03 =>
    if 0x200 ≤ o ∧ o < 0x600 then some (key / 8 * 8, 2)
    else if 0x800 ≤ o ∧ o < 0xC00 ∧ 8 ≤ o % 32 ∧ o % 32 < 0x18 then some (key / 8 * 8, 2) else none
  | 0x04 => if o = 0 ∨ o = 4 then some (0x400000, 2) else none
  | 0x11 => if o < 0x4000 ∧ o % 256 < 0x40 then some (key / 8 * 8, 2) else none
  | 0x20 | 0x21 | 0x22 | 0x23 =>
    if 0x10000 ≤ o ∧ o < 0x18000 ∧ 0x40 ≤ o % 0x1000 ∧ o % 0x1000 < 0x80 then some (key / 16 * 16, 4)
    else if 0x30000 ≤ o ∧ o < 0x38000 ∧ 0x100 ≤ o % 0x1000 ∧ o % 0x1000 < 0x200 ∧ o % 0x20 < 8 then some (key / 8 * 8, 2)
    else none
  | _ => none

/-! ## Register keys and fields by name -/

namespace R
def devSerial : Nat := 0x08
def bootStat : Nat := 0x10
def drStat : Nat := 0x14
def drSeq : Nat := 0x18
def rstCause : Nat := 0x20
def bootStep : Fld := ⟨bootStat, 0, 3⟩
def bootDone : Fld := ⟨bootStat, 3, 1⟩
def bootErr : Fld := ⟨bootStat, 4, 3⟩
def bootRecovery : Fld := ⟨bootStat, 7, 1⟩
def bootPkgSlot : Fld := ⟨bootStat, 8, 1⟩
def drCopy : Fld := ⟨drStat, 0, 1⟩
def drAValid : Fld := ⟨drStat, 1, 1⟩
def drBValid : Fld := ⟨drStat, 2, 1⟩
def drWriting : Fld := ⟨drStat, 3, 1⟩
def drPending : Fld := ⟨drStat, 4, 1⟩
def rstCauseF : Fld := ⟨rstCause, 0, 3⟩
def pwrCfg : Fld := ⟨0x100000, 0, 10⟩
def pwrLevel : Fld := ⟨0x100004, 0, 3⟩
def pwrFloor : Fld := ⟨0x100004, 3, 3⟩
def pwrCapLimited : Fld := ⟨0x100004, 6, 1⟩
def pwrCapInForce : Fld := ⟨0x100004, 8, 10⟩
def pwrMeas0 : Fld := ⟨0x100008, 0, 16⟩
def pwrMeas1 : Fld := ⟨0x100008, 16, 16⟩
def thermTj : Fld := ⟨0x10000C, 0, 8⟩
def thermHot : Fld := ⟨0x10000C, 8, 6⟩
def thermHbm : Fld := ⟨0x10000C, 16, 8⟩
def telemMask : Fld := ⟨0x200000, 0, 9⟩
def telemPeriod : Fld := ⟨0x200004, 0, 32⟩
def telemRingLost : Fld := ⟨0x200008, 0, 16⟩
def telemMctpLost : Fld := ⟨0x200008, 16, 16⟩
def rindLock : Fld := ⟨0x300000, 0, 1⟩
def rindBlocked : Fld := ⟨0x300004, 0, 32⟩
def rindCipher : Fld := ⟨0x300008, 0, 32⟩
def rindPower : Fld := ⟨0x30000C, 0, 10⟩
def rindFwresBase : Fld := ⟨0x300010, 0, 18⟩
def rindFwresLen : Fld := ⟨0x300014, 0, 18⟩
def rindTxCeil (p : Nat) : Fld := ⟨0x300100 + 4 * p, 0, 16⟩
def rindHdma (w : Nat) : Nat := 0x300200 + 0x10 * w
def rindAdma (k w : Nat) : Nat := 0x300400 + 0x40 * k + 0x10 * w
def rindStor (k w : Nat) : Nat := 0x300800 + 0x80 * k + 0x20 * w
def graftSrc : Nat := 0x400000
def graftLen : Fld := ⟨0x400008, 0, 32⟩
def graftState : Fld := ⟨0x400010, 0, 3⟩
def graftStatus : Fld := ⟨0x400010, 8, 4⟩
def graftDone : Fld := ⟨0x400010, 16, 8⟩
def fwState (n : Nat) : Fld := ⟨0x400100 + 8 * n, 0, 2⟩
def fwRestarting (n : Nat) : Fld := ⟨0x400100 + 8 * n, 2, 1⟩
def fwGrafting (n : Nat) : Fld := ⟨0x400100 + 8 * n, 3, 1⟩
def fwRestarts (n : Nat) : Fld := ⟨0x400100 + 8 * n, 8, 8⟩
def fwQueueLost (n : Nat) : Fld := ⟨0x400100 + 8 * n, 16, 8⟩
def fwVer (n : Nat) : Fld := ⟨0x400104 + 8 * n, 0, 32⟩
def drainLimit : Fld := ⟨0x500000, 0, 16⟩
def marginEn : Fld := ⟨0x500000, 16, 1⟩
def degraded : Fld := ⟨0x500004, 0, 1⟩
def flagReplace : Fld := ⟨0x500004, 1, 1⟩
def drained : Fld := ⟨0x500004, 2, 1⟩
def spareBunchUsed : Fld := ⟨0x500004, 4, 2⟩
def spareCoresUsed : Fld := ⟨0x500004, 8, 6⟩
def logHead : Fld := ⟨0x500004, 16, 10⟩
def katPass : Fld := ⟨0x500008, 0, 16⟩
def katFail : Fld := ⟨0x500008, 16, 16⟩
def witOutcome (w : Nat) : Fld := ⟨0x500100 + 8 * w, 0, 3⟩
def witSelf (w : Nat) : Fld := ⟨0x500100 + 8 * w, 3, 1⟩
def witSkipped (w : Nat) : Fld := ⟨0x500100 + 8 * w, 8, 8⟩
def witPass (w : Nat) : Fld := ⟨0x500104 + 8 * w, 0, 32⟩
def marginLevel (d b : Nat) : Fld := ⟨0x500200 + 0x80 * d + 4 * b, 0, 3⟩
def marginPending (d b : Nat) : Fld := ⟨0x500200 + 0x80 * d + 4 * b, 3, 1⟩
def ftState : Fld := ⟨0x600000, 0, 3⟩
def ftRef10m : Fld := ⟨0x600000, 3, 1⟩
def ftPps : Fld := ⟨0x600000, 4, 1⟩
def ftGm : Fld := ⟨0x600000, 5, 1⟩
def ftUpstream : Fld := ⟨0x600000, 8, 6⟩
def ftHops : Fld := ⟨0x600000, 14, 4⟩
def ftOffset : Fld := ⟨0x600004, 0, 32⟩
def ftDomain : Fld := ⟨0x600008, 0, 7⟩
def ftSysDomain : Fld := ⟨0x600008, 8, 7⟩
def ftPpsEn : Fld := ⟨0x600008, 16, 1⟩
def ftRef10mEn : Fld := ⟨0x600008, 17, 1⟩
def btStageLo : Fld := ⟨0x600104, 0, 32⟩
def btStageHi : Fld := ⟨0x600108, 0, 6⟩
def btStageLen : Fld := ⟨0x60010C, 0, 32⟩
def btState : Fld := ⟨0x600110, 0, 2⟩
def btStaged : Fld := ⟨0x600110, 2, 1⟩
def btVariant : Fld := ⟨0x600110, 3, 1⟩
def btSolo : Fld := ⟨0x600110, 4, 1⟩
def btPending : Fld := ⟨0x600110, 5, 1⟩
def btBusy : Fld := ⟨0x600110, 6, 1⟩
def btLoadStatus : Fld := ⟨0x600110, 8, 8⟩
def btMiss : Fld := ⟨0x600110, 16, 16⟩
def btPendSeason : Fld := ⟨0x600114, 0, 32⟩
def btImageId : Nat := 0x600118
def hbTimeout : Fld := ⟨0x700000, 0, 8⟩
def bkTimeout : Fld := ⟨0x700000, 8, 8⟩
def bkQpn : Fld := ⟨0x700000, 16, 16⟩
def auditMs : Fld := ⟨0x700004, 0, 16⟩
def twinHbUs : Fld := ⟨0x700000, 0, 8⟩
def twinBkUs : Fld := ⟨0x700000, 8, 8⟩
def twinBkQpn : Fld := ⟨0x700000, 16, 16⟩
def twinAuditMs : Fld := ⟨0x700004, 0, 16⟩
def twinState : Fld := ⟨0x700008, 0, 3⟩
def twinLinkUp : Fld := ⟨0x700008, 3, 1⟩
def twinBkAlive : Fld := ⟨0x700008, 4, 1⟩
def twinSide : Fld := ⟨0x700008, 5, 1⟩
def twinPeerMinor : Fld := ⟨0x700008, 8, 8⟩
def twinLag : Fld := ⟨0x700008, 16, 16⟩
def twinRetx : Fld := ⟨0x70000C, 0, 16⟩
def twinViol : Fld := ⟨0x70000C, 16, 16⟩
def hbmSpare : Fld := ⟨0x800000, 0, 2⟩
def hbmWorkMib : Fld := ⟨0x800000, 4, 18⟩
def copySrc (n : Nat) : Fld := ⟨0x800100 + 0x20 * n, 0, 18⟩
def copyDst (n : Nat) : Fld := ⟨0x800104 + 0x20 * n, 0, 18⟩
def copyLen (n : Nat) : Fld := ⟨0x800108 + 0x20 * n, 0, 18⟩
def copyBusy (n : Nat) : Fld := ⟨0x800110 + 0x20 * n, 0, 1⟩
def copyDone (n : Nat) : Fld := ⟨0x800110 + 0x20 * n, 1, 1⟩
def copyErr (n : Nat) : Fld := ⟨0x800110 + 0x20 * n, 2, 1⟩
def copyErrCode (n : Nat) : Fld := ⟨0x800110 + 0x20 * n, 3, 4⟩
def copyProgress (n : Nat) : Fld := ⟨0x800110 + 0x20 * n, 8, 18⟩
def copyUncorr (n : Nat) : Fld := ⟨0x800110 + 0x20 * n, 26, 6⟩
def esuNf (d : Nat) : Fld := ⟨0x900000 + 0x100 * d, 0, 1⟩
def esuSat (d : Nat) : Fld := ⟨0x900000 + 0x100 * d, 1, 1⟩
def esuOvf (d : Nat) : Fld := ⟨0x900000 + 0x100 * d, 2, 1⟩
def esuOvfCount (d : Nat) : Fld := ⟨0x900000 + 0x100 * d, 16, 16⟩
def collMissed (d : Nat) : Fld := ⟨0x900004 + 0x100 * d, 0, 8⟩
def collLate (d : Nat) : Fld := ⟨0x900004 + 0x100 * d, 8, 8⟩
def collStale (d : Nat) : Fld := ⟨0x900004 + 0x100 * d, 16, 8⟩
def collReplay (d : Nat) : Fld := ⟨0x900004 + 0x100 * d, 24, 8⟩
def ckptState : Fld := ⟨0xA00000, 0, 3⟩
def ckptRegErr : Fld := ⟨0xA00000, 3, 1⟩
def ckptLast : Fld := ⟨0xA00000, 8, 8⟩
def ckptSeq : Nat := 0xA00008
def ckptProg : Fld := ⟨0xA00010, 0, 32⟩
def rsBase (n : Nat) : Fld := ⟨0xA00100 + 8 * n, 0, 18⟩
def rsLen (n : Nat) : Fld := ⟨0xA00104 + 8 * n, 0, 18⟩
def lftRetry : Fld := ⟨0xB00000, 0, 4⟩
def lftDup : Fld := ⟨0xB00010, 0, 16⟩
def lftStale : Fld := ⟨0xB00010, 16, 16⟩
def lftOutWindow : Fld := ⟨0xB00014, 0, 16⟩
def lftTagFail : Fld := ⟨0xB00014, 16, 16⟩
def lftNoQp : Fld := ⟨0xB00018, 0, 16⟩
def lftBadCsum : Fld := ⟨0xB00018, 16, 16⟩
def lftMissDrop : Fld := ⟨0xB0001C, 0, 16⟩
def lftCtxLoad : Fld := ⟨0xB0001C, 16, 16⟩
def storKey (k : Nat) : Nat := 0xC00000 + 0x10 * k
def storLinkUp (k : Nat) : Fld := ⟨storKey k, 0, 1⟩
def storRate (k : Nat) : Fld := ⟨storKey k, 1, 3⟩
def storDegraded (k : Nat) : Fld := ⟨storKey k, 4, 1⟩
def storUnsupported (k : Nat) : Fld := ⟨storKey k, 5, 1⟩
def storPathFailed (k : Nat) : Fld := ⟨storKey k, 6, 1⟩
def storRelayed (k : Nat) : Fld := ⟨storKey k, 7, 1⟩
def storResHolder (k : Nat) : Fld := ⟨storKey k, 8, 1⟩
def storSanitizing (k : Nat) : Fld := ⟨storKey k, 9, 1⟩
def storAer (k : Nat) : Fld := ⟨storKey k + 4, 0, 16⟩
def storTimeout (k : Nat) : Fld := ⟨storKey k + 4, 16, 16⟩
def dirtyLines : Fld := ⟨0xC00100, 0, 22⟩
def failedRanges : Fld := ⟨0xC00104, 0, 13⟩
def decExist : Fld := ⟨0xD00000, 0, 17⟩
def decResident : Fld := ⟨0xD00004, 0, 15⟩
def decSteps : Fld := ⟨0xD00010, 0, 32⟩
def decCtxLoad : Fld := ⟨0xD00014, 0, 16⟩
def decStreamed : Fld := ⟨0xD00014, 16, 16⟩
def decDemoted : Fld := ⟨0xD00018, 0, 16⟩
def decViol : Fld := ⟨0xD00018, 16, 16⟩
def accKey (k : Nat) : Nat := 0xE00000 + 0x10 * k
def accLinkUp (k : Nat) : Fld := ⟨accKey k, 0, 1⟩
def accDpc (k : Nat) : Fld := ⟨accKey k, 10, 1⟩
def hostwinCfgBase : Fld := ⟨0xF00000, 0, 10⟩
def hostwinCfgLen : Fld := ⟨0xF00000, 16, 9⟩
def hostwinBase : Fld := ⟨0xF00004, 0, 10⟩
def hostwinLen : Fld := ⟨0xF00004, 16, 9⟩
def hostwinErr : Fld := ⟨0xF00004, 25, 1⟩
def lhqiKey (n : Nat) : Nat := 0x20400000 + 0x10000 * n
/-- The MSI-X table entry of a vector of an instance, its mask, and its pending bit (R503, R652). -/
def msixKey (n v : Nat) : Nat := if n = 0 then 0x1080000 + 16 * v else lhqiKey n + 0x8000 + 16 * v
def msixMask (n v : Nat) : Fld := ⟨msixKey n v + 12, 0, 1⟩
def msixPend (n v : Nat) : Fld := ⟨(if n = 0 then 0x1090000 else lhqiKey n + 0xC000) + 4 * (v / 32), v % 32, 1⟩
def hostVerMinor (n : Nat) : Fld := ⟨lhqiKey n + 0x04, 0, 8⟩
def hostVerMajor (n : Nat) : Fld := ⟨lhqiKey n + 0x04, 8, 8⟩
def lhqiEnable (n : Nat) : Fld := ⟨lhqiKey n + 0x08, 0, 1⟩
def lhqiReady (n : Nat) : Fld := ⟨lhqiKey n + 0x0C, 0, 1⟩
def lhqiQuiesced (n : Nat) : Fld := ⟨lhqiKey n + 0x0C, 1, 1⟩
def lhqiEnableErr (n : Nat) : Fld := ⟨lhqiKey n + 0x0C, 4, 4⟩
def lhqiRunMinor (n : Nat) : Fld := ⟨lhqiKey n + 0x0C, 8, 8⟩
def lhqiGen (n : Nat) : Fld := ⟨lhqiKey n + 0x0C, 16, 16⟩
def lhqiAdminSq (n : Nat) : Nat := lhqiKey n + 0x10
def lhqiAdminCq (n : Nat) : Nat := lhqiKey n + 0x18
def lhqiSqM1 (n : Nat) : Fld := ⟨lhqiKey n + 0x20, 0, 16⟩
def lhqiCqM1 (n : Nat) : Fld := ⟨lhqiKey n + 0x20, 16, 16⟩
def lhqiVec (n : Nat) : Fld := ⟨lhqiKey n + 0x24, 0, 11⟩
def lhqiHb (n : Nat) : Fld := ⟨lhqiKey n + 0x28, 0, 32⟩
def lhqiHbMs (n : Nat) : Fld := ⟨lhqiKey n + 0x2C, 0, 16⟩
def lhqiRingErr (n r : Nat) : Fld := ⟨lhqiKey n + 0x30 + 4 * (r / 32), r % 32, 1⟩
def lhqiViol (n : Nat) : Fld := ⟨lhqiKey n + 0x38, 0, 16⟩
def instKey (n : Nat) : Nat := 0x1100000 + 0x100 * n
def instEnabled (n : Nat) : Fld := ⟨instKey n + 0x54, 0, 1⟩
def instResident (n : Nat) : Fld := ⟨instKey n + 0x54, 1, 1⟩
def instPending (n : Nat) : Fld := ⟨instKey n + 0x54, 2, 1⟩
def instRemoving (n : Nat) : Fld := ⟨instKey n + 0x54, 3, 1⟩
def instErr (n : Nat) : Fld := ⟨instKey n + 0x54, 4, 1⟩
def instErrCode (n : Nat) : Fld := ⟨instKey n + 0x54, 5, 3⟩
def instGen (n : Nat) : Fld := ⟨instKey n + 0x54, 16, 16⟩
def netKey (k : Nat) : Nat := 0x2000000 + 0x100000 * k
def octMode (k : Nat) : Fld := ⟨netKey k, 0, 2⟩
def octModeErr (k : Nat) : Fld := ⟨netKey k, 2, 1⟩
def portKey (n : Nat) : Nat := netKey (n / 8) + 0x10000 + 0x1000 * (n % 8)
def portEn (n : Nat) : Fld := ⟨portKey n, 0, 1⟩
def portFabric (n : Nat) : Fld := ⟨portKey n, 1, 1⟩
def portDefSteward (n : Nat) : Fld := ⟨portKey n, 2, 1⟩
def portAnEn (n : Nat) : Fld := ⟨portKey n, 3, 1⟩
def portPmd (n : Nat) : Fld := ⟨portKey n, 4, 2⟩
def portStat (n i : Nat) : Fld := ⟨portKey n + 4, i, 1⟩
def portLinkUp (n : Nat) : Fld := portStat n 0
def portFecCorr (n : Nat) : Fld := ⟨portKey n + 8, 0, 32⟩
def portFecUncorr (n : Nat) : Fld := ⟨portKey n + 0xC, 0, 32⟩
/-- The CNT fields of a port in register order: FCS_ERR, OVERSIZE, RX_OVERFLOW, PAUSE_RX, DEST_DROP, MIRROR_DROP, IP_CSUM, SP_DROP. -/
def portCnt (n i : Nat) : Fld := ⟨portKey n + 0x10 + 4 * (i / 2), 16 * (i % 2), 16⟩
def portAddr (n a : Nat) : Nat := portKey n + 0x40 + 0x10 * a
def txKey (n : Nat) : Nat := netKey (n / 8) + 0x20000 + 0x1000 * (n % 8)
def txLenOvh (n : Nat) : Fld := ⟨txKey n, 0, 8⟩
def txCellQueue (n : Nat) : Fld := ⟨txKey n, 8, 3⟩
def txCellPcpDef (n : Nat) : Fld := ⟨txKey n, 11, 3⟩
def txCellTagDef (n : Nat) : Fld := ⟨txKey n, 14, 1⟩
def txGateDef (n : Nat) : Fld := ⟨txKey n, 16, 8⟩
def txTcmap (n j : Nat) : Fld := ⟨txKey n + 4, 3 * j, 3⟩
def txOpen (n : Nat) : Fld := ⟨txKey n + 8, 0, 8⟩
def txCellPcp (n : Nat) : Fld := ⟨txKey n + 8, 8, 3⟩
def txCellTag (n : Nat) : Fld := ⟨txKey n + 8, 11, 1⟩
def qKey (n q : Nat) : Nat := txKey n + 0x100 + 0x40 * q
def qCir (n q : Nat) : Fld := ⟨qKey n q, 0, 22⟩
def qPir (n q : Nat) : Fld := ⟨qKey n q + 4, 0, 22⟩
def qCbs (n q : Nat) : Fld := ⟨qKey n q + 8, 0, 16⟩
def qPbs (n q : Nat) : Fld := ⟨qKey n q + 8, 16, 16⟩
def qShapeEn (n q : Nat) : Fld := ⟨qKey n q + 0xC, 0, 1⟩
def qWeight (n q : Nat) : Fld := ⟨qKey n q + 0xC, 8, 8⟩
def qLim (n q : Nat) : Fld := ⟨qKey n q + 0xC, 16, 10⟩
def qDepth (n q : Nat) : Fld := ⟨qKey n q + 0x10, 0, 24⟩
def qDepthHwm (n q : Nat) : Fld := ⟨qKey n q + 0x14, 0, 24⟩
def qDlyHwm (n q : Nat) : Fld := ⟨qKey n q + 0x18, 0, 32⟩
def qSmpDepth (n q : Nat) : Fld := ⟨qKey n q + 0x1C, 0, 24⟩
def qSmpDly (n q : Nat) : Fld := ⟨qKey n q + 0x20, 0, 32⟩
def secyKey (n : Nat) : Nat := netKey (n / 8) + 0x30000 + 0x1000 * (n % 8)
def secyEn (n : Nat) : Fld := ⟨secyKey n, 0, 1⟩
def secyXpn (n : Nat) : Fld := ⟨secyKey n, 1, 1⟩
def secyInclSci (n : Nat) : Fld := ⟨secyKey n, 2, 1⟩
def secyTxAn (n : Nat) : Fld := ⟨secyKey n, 3, 2⟩
def secyNextValid (n : Nat) : Fld := ⟨secyKey n, 5, 1⟩
def secyNextAn (n : Nat) : Fld := ⟨secyKey n, 6, 2⟩
def secyWin (n : Nat) : Fld := ⟨secyKey n + 4, 0, 32⟩
def secyThresh (n : Nat) : Fld := ⟨secyKey n + 8, 0, 32⟩
def secyDrop (n : Nat) : Fld := ⟨secyKey n + 0xC, 0, 32⟩
def secyTxSlot (n a : Nat) : Fld := ⟨secyKey n + 0x10 + 4 * a, 0, 12⟩
def secyRxSci (n c : Nat) : Nat := secyKey n + 0x100 + 0x20 * c
def secyRxSlot (n c a : Nat) : Fld := ⟨secyKey n + 0x108 + 0x20 * c + 4 * a, 0, 12⟩
def secyRxValid (n c a : Nat) : Fld := ⟨secyKey n + 0x108 + 0x20 * c + 4 * a, 12, 1⟩
def clsTable : Fld := ⟨0x2400000, 0, 2⟩
def clsIndex : Fld := ⟨0x2400000, 2, 13⟩
def clsGen : Fld := ⟨0x2400004, 0, 16⟩
def clsPending : Fld := ⟨0x2400004, 16, 1⟩
def clsBusy : Fld := ⟨0x2400004, 17, 1⟩
def clsErr : Fld := ⟨0x2400004, 18, 1⟩
def clsErrTable : Fld := ⟨0x2400004, 20, 2⟩
def clsErrIndex : Fld := ⟨0x2400008, 0, 13⟩
def clsHits : Fld := ⟨0x240000C, 0, 32⟩
def clsData (i : Nat) : Nat := 0x2400100 + 4 * i
def ciphMismatch (e : Nat) : Fld := ⟨0x2500000 + 4 * e, 0, 16⟩
def ciphSuspect (e : Nat) : Fld := ⟨0x2500000 + 4 * e, 16, 1⟩
def domKey (n : Nat) : Nat := 0x20800000 + 0x1000 * n
def domCsr (n blk : Nat) : Fld := ⟨domKey n + 4 * (blk / 16), 2 * (blk % 16), 2⟩
def domPriv (n blk : Nat) : Fld := ⟨domKey n + 0x40 + 4 * (blk / 16), 2 * (blk % 16), 2⟩
def domFenceLo (n : Nat) : Fld := ⟨domKey n + 0x80, 0, 18⟩
def domFenceHi (n : Nat) : Fld := ⟨domKey n + 0x84, 0, 18⟩
def wdogMs (n : Nat) : Fld := ⟨domKey n + 0x88, 0, 16⟩
end R

end Sys2Proof.Machine
end

