-- ==== Sys2Proof/Machine/Parts.lean ====
section
/-! DEFINITION. The state of the device beyond its cores and registers, chapter by chapter. -/

namespace Sys2Proof.Machine

/-- An entry of the Violation Log (Table 18.11). -/
structure Viol where
  time : Nat
  cls : Nat
  partner : Nat
  protocol : Nat
  status : Nat
  reason : Nat
  ctx0 : Nat
  ctx1 : Nat
  deriving DecidableEq, Repr

/-- The Violation Log: the entries held, newest first, at most 4,096, and the running index of the next (R520). -/
structure VLog where
  entries : List Viol
  next : Nat
  deriving DecidableEq, Repr

/-- A health event: CODE, UNIT and DETAIL of R462. -/
structure HealthEv where
  code : Nat
  unit : Nat
  detail : Nat
  deriving DecidableEq, Repr


/-! ## HBM stacks, the die-to-die link, wide registers (spec/06_engines_bunches_memory.md, spec/27 R648) -/

/-- The phase of an in-stack copy (R222). -/
inductive CopyPhase where
  | idle | draining | copying
  deriving DecidableEq, Repr

/-- A stack's controller: the copy engine and the IEEE 1500 readout (R215, R220 to R224). -/
structure HbmSt where
  phase : CopyPhase
  /-- SRC, DST and LEN latched at START, in MiB. -/
  src : Nat
  dst : Nat
  len : Nat
  /-- The bytes of the source range as they stood at START, and its uncorrectable blocks, keyed by physical address. -/
  snap : Mem
  snapBad : List Nat
  /-- The blocks of the range with an error the code corrects, which is copied as it stands (R224). -/
  snapSoft : List Nat
  /-- The timing values loaded from the Device Record (R215). -/
  tim : HbmTim
  /-- Stack temperature in thousandths of a degree, as last read. -/
  temp : Nat
  /-- Per-bank refreshes issued. -/
  refreshes : Nat
  deriving DecidableEq, Repr

/-- One direction of the die-to-die link: consecutive replays of one flit, and whether the link is failed (R214). -/
structure D2dSt where
  replays : Nat
  failed : Bool
  deriving DecidableEq, Repr

/-- A host access to an FE register that waits for its Steward (R556): a write of a word, or a read that an agent made. -/
inductive FeAccess where
  | write (key : Nat) (v : Word)
  | read (agent : RegAgent) (off size : Nat) (upd : Word)
  deriving DecidableEq, Repr

/-- The write-holding buffers and read latches of wide registers, by word (R648), and the accesses to FE registers that wait, oldest
first. -/
structure WideSt where
  hold : SMap (Option Word)
  latch : SMap (Option Word)
  fe : List FeAccess
  deriving DecidableEq, Repr

/-- The timings that stepping B1 ships with (Table 6.8); until boot loads the record's they stand for it (log entry 158). -/
def HbmTim.b1 : HbmTim := { refi := 3900, rcd := 12, rp := 12, ras := 28, rfcpb := 160 }
/-- A controller at reset. -/
def HbmSt.reset : HbmSt :=
  { phase := .idle, src := 0, dst := 0, len := 0, snap := [], snapBad := [], snapSoft := [], tim := HbmTim.b1, temp := 0, refreshes := 0 }


/-! ## Fabric time and the Beat Table (spec/07_fabric_time_and_beats.md) -/

/-- A beacon link: port codes 0 to 31 and 32 for the twin link (R235, R236). Times are in units of 2^−16 ns. -/
structure LinkSt where
  txSeq : Nat
  lastTxTime : Nat
  rxSeq : Nat
  rxTime : Nat
  delay : Int
  /-- The last 32 offsets, newest first. -/
  window : List Int
  asym : Int
  /-- The peer's major version differs, so the link is not used for time (R238). -/
  versionBad : Bool
  discards : Nat
  /-- Fabric time in ns of the last valid beacon. -/
  lastValid : Option Nat
  deriving DecidableEq, Repr

/-- The PTP state of one port (R233). Times in 2^−16 ns. -/
structure PtpSt where
  syncSeq : Nat
  pdelaySeq : Nat
  announceSeq : Nat
  /-- A two-step Sync waiting for its Follow_Up: sequence number, receipt time, correction. -/
  pendingSync : Option (Nat × Nat × Int)
  /-- The Pdelay_Req in flight: sequence number and departure time. -/
  reqSent : Option (Nat × Nat)
  /-- A two-step Pdelay_Resp: sequence number, request receipt time, response receipt time, correction. -/
  respSeen : Option (Nat × Nat × Nat × Int)
  meanDelay : Int
  offset : Int
  /-- An Announce has been received within the receipt timeout. -/
  announced : Bool
  deriving DecidableEq, Repr

/-- Fabric time and the time function. -/
structure TimeSt where
  /-- Fabric time in ns, die 0's copy (R231). -/
  now : Nat
  /-- The latest value that a core of die 1 has read from its die's copy. -/
  now1 : Nat
  /-- The slew asked for and not yet worked off, in 2^−16 ns (R232, R236). -/
  slew : Int
  /-- Consecutive filter outputs beyond 4 ns (Table 7.3). -/
  badRun : Nat
  /-- Since when the offset has stayed within 2 ns. -/
  goodSince : Option Nat
  /-- When HOLDOVER was entered. -/
  holdAt : Nat
  primary : Nat
  standby : Nat
  /-- The roster makes this device the system port holder (R233). -/
  sysHolder : Bool
  /-- The last rising edge of the 1PPS input. -/
  ppsAt : Option Nat
  /-- The constants of the Device Record, by lane mode (R234, R236). -/
  consts : List (Nat × LaneConst)
  links : Vector LinkSt 33
  ptp : Vector PtpSt 33
  deriving DecidableEq, Repr

/-- A Beat Table event (Table 7.5). -/
structure BeatEvent where
  slot : Nat
  kind : Nat
  cond : Nat
  rsv : Nat
  target : Nat
  arg : Nat
  deriving DecidableEq, Repr

/-- A roster entry (R249). -/
structure RosterE where
  serial : Nat
  node : Nat
  side : Nat
  role : Nat
  priUp : Nat
  sbyUp : Nat
  hops : Nat
  deriving DecidableEq, Repr

/-- A kernel entry (R249). -/
structure KernelE where
  textOff : Nat
  textLen : Nat
  dataOff : Nat
  dataLen : Nat
  entry : Nat
  fenceLo : Nat
  fenceHi : Nat
  args : List Nat
  deriving DecidableEq, Repr

/-- An ES segment descriptor (Table 2.6). -/
structure SegDesc where
  verMajor : Nat
  fmt : Nat
  blk : Nat
  rm : Nat
  rrm : Nat
  satr : Bool
  frac : Nat
  guard : Nat
  infmt : Nat
  outfmt : Nat
  blocks : Nat
  stream : Nat
  indexBase : Nat
  deriving DecidableEq, Repr

/-- A group section entry (Table 8.1). -/
structure GroupE where
  group : Nat
  coll : Nat
  gatherEs : Bool
  accelMask : Nat
  checkRetry : Nat
  missRetry : Nat
  witness : Nat
  seg : SegDesc
  seed : Nat
  rvFmt : Nat
  genBase : Nat
  blocksPerRound : Nat
  split : Nat
  root : Nat
  deriving DecidableEq, Repr

/-- A leg entry (Table 8.8). -/
structure LegE where
  group : Nat
  kind : Nat
  flags : Nat
  inCount : Nat
  inFmt : Nat
  outFmt : Nat
  txPort : Nat
  txPort2 : Nat
  destRank : Nat
  destRank2 : Nat
  k : Nat
  rxSlots : Nat
  verdictSlots : Nat
  localBunch : Nat
  deliver : Nat
  destOrchard : Nat
  localOff : Nat
  blockOffset : Nat
  nblocks : Nat
  fragBlocks : Nat
  deriving DecidableEq, Repr

/-- A schedule image as this device holds it: the header, this device's four tables, and the sections (R248, R249). -/
structure Image where
  addr : Nat
  startTime : Nat
  slots : Nat
  orchardId : Nat
  size : Nat
  leadNs : Nat
  sysOrchards : Nat
  rvNs : Nat
  imageId : Nat
  rank : Nat
  roster : List RosterE
  /-- Normal die 0, normal die 1, single-twin die 0, single-twin die 1. -/
  tables : List (List BeatEvent)
  /-- Residency entries: 64 group numbers each. -/
  residency : List (List Nat)
  legs : List LegE
  groups : List GroupE
  kernels : List KernelE
  deriving DecidableEq, Repr

/-- A staging in progress: the working-partition address and length it was given (R252). -/
structure Staging where
  addr : Nat
  len : Nat
  deriving DecidableEq, Repr

/-- The beat dispatcher and the time-and-schedule Steward's state of it. -/
structure Beat where
  running : Option Image
  slot : Nat
  season : Nat
  staged : Option Image
  staging : Option Staging
  /-- ACTIVATE has been accepted and START_TIME awaited. -/
  activation : Bool
  /-- The pending variant switch: variant and full season number (R663). -/
  switch : Option (Nat × Nat)
  stopReq : Bool
  /-- The last accepted NOTICE_SEQ by origin rank. -/
  noticeSeq : SMap Nat
  ownSeq : Nat
  /-- The image that ran before the activation, and until when its notices are admitted (R254). -/
  prev : Option (Image × Nat)
  /-- Since which fabric time the upstream's beacons have carried a different nonzero IMAGE_ID (R255), and the upstream's rank. -/
  mismatch : Option (Nat × Nat)
  /-- The kernel a core holds, by core, plus one (R250). -/
  kernelHeld : SMap Nat
  /-- Cores whose KAT run has not been judged (R250, R467): core and kernel. -/
  katRuns : List (Nat × Nat)
  deriving DecidableEq, Repr

/-- A link at reset. -/
def LinkSt.reset : LinkSt :=
  { txSeq := 0, lastTxTime := 0, rxSeq := 0, rxTime := 0, delay := 0, window := [], asym := 0, versionBad := false, discards := 0,
    lastValid := none }
/-- A PTP port at reset. -/
def PtpSt.reset : PtpSt :=
  { syncSeq := 0, pdelaySeq := 0, announceSeq := 0, pendingSync := none, reqSent := none, respSeen := none, meanDelay := 0,
    offset := 0, announced := false }
/-- The time function at reset. -/
def TimeSt.reset : TimeSt :=
  { now := 0, now1 := 0, slew := 0, badRun := 0, goodSince := none, holdAt := 0, primary := 63, standby := 63, sysHolder := false, ppsAt := none, consts := [],
    links := Vector.replicate 33 LinkSt.reset,
    ptp := Vector.replicate 33 PtpSt.reset }
/-- The dispatcher at reset. -/
def Beat.reset : Beat :=
  { running := none, slot := 0, season := 0, staged := none, staging := none, activation := false, switch := none, stopReq := false,
    noticeSeq := [], ownSeq := 0, prev := none, mismatch := none, kernelHeld := [], katRuns := [] }

end Sys2Proof.Machine
end

