-- ==== Sys2Proof/Machine/Emit.lean ====
section
/-! DEFINITION. What the device sends to its partners: the records of State.out. -/

namespace Sys2Proof.Machine

/-- A frame sent on a network port or on the twin link. -/
inductive Frame where
  /-- A PTP message: messageType and fields (R233). -/
  | ptp (msgType : Nat) (m : PtpMsg)
  /-- A link beacon (R235). -/
  | beacon (b : Beacon)
  /-- A switch notice (R260). -/
  | notice (n : Notice)
  /-- A collective cell: its PCP tag if any, and whether it travels in IPv6/UDP (R283, R360). -/
  | cell (pcp : Option Nat) (rv : Bool) (c : Cell)
  /-- An LFT packet (R307). -/
  | lft (p : LftPkt)
  /-- A frame given byte by byte, without FCS. -/
  | raw (data : List Byte)
  deriving DecidableEq, Repr

/-- One thing sent to a partner. -/
inductive Emit where
  /-- A write to host memory by an instance (R512, R513). -/
  | hostWrite (inst : Nat) (addr : Nat) (data : List Byte)
  /-- An MSI-X message of a vector of an instance: its address and data (R519). -/
  | msix (inst vector addr data : Nat)
  /-- A write to accelerator memory behind port Ak. -/
  | accelWrite (port : Nat) (addr : Nat) (data : List Byte)
  /-- The value a register read returns (R8 to R10, R647). -/
  | readData (value : Nat)
  /-- The one technology ability a port advertises as auto-negotiation begins (R335). -/
  | anAdvert (port : Nat) (a : Ability)
  /-- A frame sent on a port code, or on the twin link (32): the secure association and packet number its SecY gives it, if any. -/
  | frame (port : Nat) (sec : Option (Nat × Nat)) (f : Frame)
  /-- A frame handed to the cell mover (0), the time function (1) or the transport mover (2), which act on it by the command of its
  message (log entry 31). -/
  | handed (port : Nat) (unit : Nat) (data : List Byte)
  /-- A status given to a Steward for something it asked of the device. -/
  | toSteward (steward tag status result : Nat)
  /-- An NVMe command issued on storage port k, or relayed through the twin: its identifier, opcode, NSID, first LBA, blocks, FUA and data
  (R390, R392). -/
  | nvme (port cid : Nat) (relayed : Bool) (opcode nsid lba nlb : Nat) (fua : Bool) (data : List Byte)
  /-- A controller reset on storage port k (R390, R393). -/
  | nvmeReset (port : Nat)
  /-- An SPDM response (R578). -/
  | spdm (code : Nat) (data : List Byte)
  /-- A telemetry packet sent by MCTP (R588). -/
  | mctp (data : List Byte)
  /-- A CXL message to the host: 0 read data, 1 write completion, 2 snoop response, 3 back-invalidate snoop, 4 GPF response (R501, R654). -/
  | cxl (kind : Nat) (addr : Nat) (data : List Byte)
  /-- A twin record sent on the twin link, or on the backup path (R484, R491). -/
  | twin (backup : Bool) (r : TwinRec)
  /-- The content of a MIRROR record sent (R488). -/
  | mirror (seq : Nat) (m : MirItem)
  /-- An answer to a PCIe or CXL request of a partner: all ones, or an Unsupported Request completion (R502, R523). -/
  | unsupported (port : Nat)
  deriving DecidableEq, Repr

end Sys2Proof.Machine
end

