-- ==== Sys2Proof/Machine/Hold.lean ====
section
/-! DEFINITION. The state of the device that holds what it will send: rings, queues, commitments, and the contexts of the services. -/

namespace Sys2Proof.Machine


/-! ## Collectives (spec/08) -/

/-- A Verdict: OUTCOME, CAUSE and ORIGIN (Table 8.11). -/
structure Verdict where
  outcome : Nat
  cause : Nat
  origin : Nat
  deriving DecidableEq, Repr

/-- An input fragment received on a leg. -/
structure FragIn where
  seq : Nat
  src : Nat
  flags : Nat
  payload : List Byte
  verdict : Option Verdict
  /-- Its verdict window closed without a Verdict (R293). -/
  lapsed : Bool
  deriving DecidableEq, Repr

/-- An output fragment of a leg: whether it left with POISON and with TENTATIVE, this device's own failure cause (0 none), and whether
its Verdict has been sent. -/
structure FragOut where
  seq : Nat
  poison : Bool
  tentative : Bool
  cause : Nat
  decided : Bool
  deriving DecidableEq, Repr

/-- A leg in its round: the die whose event named it, its windows and its fragments. -/
structure LegRun where
  leg : Nat
  die : Nat
  /-- The fabric time its receive window opened at. -/
  rxFrom : Option Nat
  rxClosed : Bool
  verdictClosed : Bool
  /-- Its CELL_TX has begun. -/
  tx : Bool
  ins : List FragIn
  outs : List FragOut
  deriving DecidableEq, Repr

/-- A collective group's run state (R267 to R299). -/
structure GroupRun where
  group : Nat
  gen : Nat
  step : Nat
  round : Nat
  attempt : Nat
  faulted : Bool
  /-- Consecutive settles of value 1 and of value 2 (R296). -/
  misses : Nat
  checks : Nat
  /-- The agreed exponents held, by block (R49, R52). -/
  exps : SMap (Option Int)
  /-- The scout flags agreed for the round in progress: bit 0 POISON, bit 1 NOT_READY. -/
  agreed : Option Nat
  /-- A round of the step was held under POISON. -/
  heldPoison : Bool
  /-- The causes that arose at or reached this device in the step: ORIGINs of R294. -/
  causes : List Nat
  /-- NF, SAT and OVF of the group's copy of its segment descriptor, which an activation supplies afresh (R71, Table 2.6). -/
  nf : Bool
  sat : Bool
  ovf : Bool
  /-- The last distributed settle: step, attempt and value. -/
  settled : Option (Nat × Nat × Nat)
  /-- The season in which the device last acted on the group's round. -/
  acted : Bool
  /-- The expected step of each accelerator (R275), and the (accelerator, step) pairs that may repeat after DMA (R279). -/
  expected : Vector Nat 8
  redo : List (Nat × Nat)
  deriving DecidableEq, Repr

/-- The collective functions: groups, legs in progress, feed entries taken, and cells held for a switch (R298). -/
structure CollSt where
  groups : List GroupRun
  legs : List LegRun
  taken : List FeedTaken
  stale : List (Nat × Nat × Cell)
  deriving DecidableEq, Repr

/-- No collective state. -/
def CollSt.empty : CollSt := { groups := [], legs := [], taken := [], stale := [] }


/-! ## Instances (spec/19, spec/01 R29 to R37) -/

/-- A doorbell write captured while its instance was not resident (R37). -/
structure Doorbell where
  inst : Nat
  ring : Nat
  cq : Bool
  value : Nat
  deriving DecidableEq, Repr

/-- What the device keeps of its instances beside their registers. -/
structure InstSt where
  /-- Captured doorbells in order of arrival, and the resident instances, longest resident first. -/
  doorbells : List Doorbell
  order : List Nat
  /-- When an instance became resident. -/
  since : SMap Nat
  /-- Fabric time of the last heartbeat, or of READY. -/
  hb : SMap Nat
  /-- Work that a COMMIT found running: instance, ring, place (R531). -/
  pend : List (Nat × Nat × Nat)
  /-- The key-encryption key of each READY instance (R573). -/
  keks : SMap (Option (BitVec 256))
  /-- VF Enable's count of virtual functions. -/
  numVfs : Nat
  /-- Instances whose quiesce waits for the end of an arbitration (Table 23.2). -/
  late : List Nat
  deriving DecidableEq, Repr

/-- No instance has run. -/
def InstSt.reset : InstSt := { doorbells := [], order := [], since := [], hb := [], pend := [], keks := [], numVfs := 0, late := [] }


/-! ## Health, repair and witnessed groups (spec/16) -/

/-- A repair that waits for the season boundary (R477): a logical core, a logical Bunch (die × 16 + Bunch), or a die-to-die lane. -/
inductive Repair where
  | core (u : Nat)
  | bunch (b : Nat)
  | lane (unit : Nat)
  deriving DecidableEq, Repr

/-- A pending compare of a witnessed group (R469 to R471). -/
structure WitRun where
  season : Nat
  /-- The fabric time of the WITNESS slot. -/
  start : Nat
  /-- The digest is being computed; until then the shards are under it. -/
  busy : Bool
  /-- The digests held, by replica. -/
  digests : List (Nat × List Byte)
  deriving DecidableEq, Repr

/-- The health-and-repair Steward's records: the log, what it counts over 24 hours, the repairs under way, and the ageing section. -/
structure HealthSt where
  /-- The Health Log, newest first, at most 1,024 entries, and the running number of the next. -/
  log : List HlogE
  logNext : Nat
  /-- The events of the last 24 h: code, unit, detail and time (R464). -/
  recent : List (Nat × Nat × Nat × Nat)
  /-- When a unit became suspect: unit and time. -/
  suspects : List (Nat × Nat)
  /-- Units declared failed. -/
  failed : List Nat
  repairs : List Repair
  /-- Failed die-to-die lanes whose traffic a spare lane has taken. -/
  lanes : List Nat
  /-- The SRAM rows to remap at the next boot, and the soft-repair list of R219: unit and row. -/
  sramRemap : List (Nat × Nat)
  hbmRepair : List (Nat × Nat)
  /-- Lifetime counts by unit code, POWERED_HOURS and TJ_MAX (Table 16.7). -/
  residueEvents : SMap Nat
  katFails : SMap Nat
  poweredHours : Nat
  tjMax : Nat
  witDefs : Vector (Option WitDef) 8
  witRuns : Vector (Option WitRun) 8
  deriving DecidableEq, Repr

/-- No health record. -/
def HealthSt.reset : HealthSt :=
  { log := [], logNext := 0, recent := [], suspects := [], failed := [], repairs := [], lanes := [], sramRemap := [], hbmRepair := [], residueEvents := [],
    katFails := [], poweredHours := 0, tjMax := 0, witDefs := Vector.replicate 8 none, witRuns := Vector.replicate 8 none }



/-! ## Host rings, accelerator windows and the twin's confirmations (spec/18, spec/17 R484 to R490) -/

/-- No ring. -/
def Ring.zero : Ring :=
  { st := .none, typ := 0, vec := 0, sqN := 0, cqN := 0, sqBase := 0, cqBase := 0, coalCount := 0, coalUs := 0, gen := 0, tail := 0,
    taken := 0, live := [], posted := 0, released := 0, unsig := 0, firstUnsig := 0 }

/-- An accelerator window: its bytes, the queue generation, the next queue of the round-robin, and its queues (Table 8.2). -/
structure AccWin where
  mem : Mem
  gen : Nat
  rr : Nat
  qs : Vector AccQ 8
  deriving DecidableEq, Repr

/-- A closed queue. -/
def AccQ.zero : AccQ := { st := 0, cqBase := 0, sqN := 0, cqN := 0, tail := 0, taken := 0, posted := 0, released := 0 }
/-- A window at reset: DEV_VER reads 1.0 and every queue is CLOSED. -/
def AccWin.zero : AccWin := { mem := [(2, 1)], gen := 0, rr := 0, qs := Vector.replicate 8 AccQ.zero }

/-- A deferred block error not yet reported to its ring (R409): on an accelerator port, `acc` is set and `inst` is the port. -/
structure DeferE where
  acc : Bool
  inst : Nat
  ring : Nat
  index : Nat
  deriving DecidableEq, Repr

/-- A commitment of R489 that may wait for the twin's confirmation. -/
inductive Commit where
  /-- A completion on a host ring: status, RESULT, RESULT2. -/
  | ring (w : Work) (status result result2 : Nat)
  /-- An LFT notify completion: QPN, MSG_LEN, MSG_PSN. -/
  | notify (inst ring qpn len psn : Nat)
  /-- A completion on an accelerator queue of a generation: the 16 bytes with PHASE clear. -/
  | acc (k : WinKind) (port q gen : Nat) (body : List Byte)
  /-- An LFT ACK: QP, CUM_PSN and SACK bitmap. -/
  | ack (qpn cum sack : Nat)
  /-- The completion of a WRITE whose blocks are in the write cache (R403). -/
  | write (o : BlkOp)
  /-- Anything else a partner sees: a write acknowledgement. -/
  | send (es : List Emit)
  deriving DecidableEq, Repr

/-- A MIRROR record sent and not yet confirmed. -/
structure MirSent where
  seq : Nat
  item : MirItem
  deriving DecidableEq, Repr

/-- The twin-mirroring function (spec/17). -/
structure TwinSt where
  /-- The last SEQ sent, and the records awaiting confirmation, oldest first. -/
  seq : Nat
  unconf : List MirSent
  /-- Records that wait for Steward 6 to send them (Table 20.6). -/
  unsent : List (Nat × MirItem)
  /-- Commitments held, oldest first, each with the record that must be confirmed first (R489). -/
  held : List (Nat × Commit)
  /-- The last peer record applied, and the records received beyond it in SEQ order (R486). -/
  applied : Nat
  ahead : SMap (Option MirItem)
  peerSerial : Option Nat
  peerState : Nat
  peerFault : Bool
  helloGot : Bool
  /-- Fabric time of the last twin-link record and of the last backup-path write received. -/
  lastLink : Nat
  lastBackup : Nat
  /-- What has been mirrored from the twin, in SEQ order. -/
  mirror : List (Nat × MirItem)
  /-- The local addresses of a lost twin installed on this device's ports (R495). -/
  addrs : List Nat
  /-- Drive reservation acquisitions that succeeded and failed in the arbitration under way (R493). -/
  won : Nat
  lost : Nat
  /-- The digest sent of each AUDIT mark, awaiting the twin's (R498). -/
  audit : Option Nat
  /-- The survivor has sent the resync and RESYNC_DONE; the SEQ that confirms it (R500). -/
  resync : Option Nat
  deriving DecidableEq, Repr

/-- The twin function at reset. -/
def TwinSt.reset : TwinSt :=
  { seq := 0, unconf := [], unsent := [], held := [], applied := 0, ahead := [], peerSerial := none, peerState := 0, peerFault := false, helloGot := false, lastLink := 0,
    lastBackup := 0, mirror := [], addrs := [], won := 0, lost := 0, audit := none, resync := none }


/-! ## Resident state and checkpoint (spec/15) -/

/-- The checkpoint in progress (R444 to R454). -/
structure CkptRun where
  seq : Nat
  target : CkptTarget
  keySlot : Nat
  /-- The stacks whose copy was started, with the fabric time, season and IMAGE_ID of the SNAPSHOT slot. -/
  started : List Nat
  snapTime : Nat
  season : Nat
  imageId : Nat
  /-- NEXT_STEP of each bound group at the snapshot. -/
  nextSteps : List (Nat × Nat)
  /-- A nonempty region got no START in the SNAPSHOT slot (R447). -/
  part : Bool
  /-- Chunks harvested and durable: shard index and chunk. -/
  chunks : List (Nat × Nat)
  /-- Chunks being written: stack, shard index, chunk, and the number of the write. -/
  flight : List (Nat × Nat × Nat × Nat)
  bytes : Nat
  /-- The write of the manifest in progress. -/
  manifest : Option Nat
  /-- The digest list received from the twin (R452). -/
  peer : Option (List (List Byte))
  /-- The twin record in which this device's digest list was sent. -/
  told : Option Nat
  deriving DecidableEq, Repr

/-- A restore in progress (R457): its control descriptor, target, key slot, SLOT and certificate chain. -/
structure CkptRestore where
  work : Work
  target : CkptTarget
  keySlot : Nat
  slot : Nat
  chain : List Byte
  deriving DecidableEq, Repr

/-- Resident state and the checkpoint function. -/
structure CkptSt where
  defn : Option RsDef
  /-- The highest SEQ armed since boot. -/
  armed : Option Nat
  run : Option CkptRun
  restore : Option CkptRestore
  deriving DecidableEq, Repr

/-- No resident state. -/
def CkptSt.reset : CkptSt := { defn := none, armed := none, run := none, restore := none }


/-! ## Network ports, egress and key slots (spec/10 to spec/12) -/

/-- A token bucket: its level in units of 1/8000 byte × 2^−16, and the time of its last refill in 2^−16 ns (R357; log entry 28). -/
structure Bucket where
  lvl : Int
  at_ : Nat
  deriving DecidableEq, Repr

/-- A frame in an egress queue: its bytes with FCS and padding, its charged and wire lengths, and when it was enqueued (R354, R356). -/
structure EgFrame where
  bytes : Nat
  charged : Nat
  wire : Nat
  enq : Nat
  frame : Frame
  deriving DecidableEq, Repr

/-- The egress side of a port code (R354 to R366). -/
structure EgPort where
  q : Vector (List EgFrame) 8
  tq : List EgFrame
  c : Vector Bucket 8
  p : Vector Bucket 8
  rind : Bucket
  /-- The frame being sent ends then, in 2^−16 ns. -/
  busy : Nat
  /-- Frames of sources that wait for queue space, oldest first: queue and frame. -/
  wait : List (Nat × Frame)
  /-- The deficit round-robin: the queue whose turn it is, and the deficits. -/
  turn : Option Nat
  deficit : Vector Nat 8
  deriving DecidableEq, Repr

/-- A frame past classification that waits its turn in the reorder stage (R344). -/
structure RxEntry where
  port : Nat
  /-- The sequence tag of its port, and the parse pipeline it was dealt to (R343). -/
  tag : Nat
  pipe : Nat
  mw : Nat
  data : List Byte
  dest : FrameDest
  mirror : Option FrameDest
  deriving DecidableEq, Repr

/-- A buffer posted on a receive ring (Table 18.10). -/
structure RxBuf where
  work : Work
  len : Nat
  addr : Nat
  deriving DecidableEq, Repr

/-- The receive side of the ports: the reorder stage and the ingress buffer of each octet, the pipeline that is dealt the next frame and the next
sequence tag of each port (R343), the slow-path queue of each die with when it admits its next frame and the ports that wait their turn, the last
one admitted first (R353), and the buffers posted on receive rings. -/
structure NetSt where
  eg : Vector EgPort 32
  reorder : Vector (List RxEntry) 4
  ingress : Vector (List (Nat × List Byte)) 4
  pipe : Vector Nat 4
  tags : Vector Nat 32
  slow : Vector (List (Nat × List Byte)) 2
  slowNext : Vector Nat 2
  slowTurn : Vector (List Nat) 2
  rxBufs : List RxBuf
  /-- TX descriptors whose frames wait for the instance's transmit ceiling: port, queue, frame and work (R534). -/
  txWait : List (Nat × Nat × Frame × Work)
  /-- Transmit and block ceilings of each instance (R534). -/
  txCeil : Vector Bucket 64
  blkCeil : Vector Bucket 64
  /-- The next packet number by key slot, less one, and the next expected one by receive association and its key slot:
  (port × 32 + channel × 4 + AN) × 4,096 + slot. -/
  txPn : SMap Nat
  rxPn : SMap Nat
  deriving DecidableEq, Repr

/-- The match tables and patterns: the shadow and the committed images by table × 8192 + index, the hit counts, and the entry read last
(R346 to R352). -/
structure ClsSt where
  shadow : SMap (List Word)
  active : SMap (List Word)
  hits : SMap Nat
  sel : Option Nat
  deriving DecidableEq, Repr

/-- A key slot that is not empty (R370). -/
structure KeySlot where
  xts : Bool
  owner : Nat
  k1 : BitVec 256
  k2 : BitVec 256
  deriving DecidableEq, Repr

/-- The key slots, and those to be erased once nothing binds them (R536). -/
structure KeySt where
  slots : SMap (Option KeySlot)
  erase : List Nat
  /-- Comparison failures of the cipher engines in the last 24 h: engine and time (Table 16.4). -/
  mism : List (Nat × Nat)
  deriving DecidableEq, Repr

/-- A full bucket of a number of bytes. -/
def Bucket.full (n : Nat) : Bucket := { lvl := n * 524288000, at_ := 0 }
/-- A port at reset. -/
def EgPort.reset : EgPort :=
  { q := Vector.replicate 8 [], tq := [], c := Vector.replicate 8 (Bucket.full 0), p := Vector.replicate 8 (Bucket.full 0),
    rind := Bucket.full 16384, busy := 0, wait := [], turn := none, deficit := Vector.replicate 8 0 }
/-- The ports at reset. -/
def NetSt.reset : NetSt :=
  { eg := Vector.replicate 32 EgPort.reset, reorder := Vector.replicate 4 [], ingress := Vector.replicate 4 [],
    pipe := Vector.replicate 4 0, tags := Vector.replicate 32 0,
    slow := Vector.replicate 2 [], slowNext := Vector.replicate 2 0, slowTurn := Vector.replicate 2 [], rxBufs := [], txWait := [],
    txCeil := Vector.replicate 64 (Bucket.full 65536), blkCeil := Vector.replicate 64 (Bucket.full 65536), txPn := [], rxPn := [] }
/-- No entry in any table. -/
def ClsSt.empty : ClsSt := { shadow := [], active := [], hits := [], sel := none }

/-! ## Fabric transport (spec/09) -/

/-- The transport. -/
structure LftSt where
  qps : SMap (Option Qp)
  /-- Destroyed numbers and the time their quarantine ends (R304). -/
  quarantine : List (Nat × Nat)
  /-- CREATEs that wait for a number: descriptor or Steward, owner, notify ring, attributes. -/
  creating : List (Option Work × Nat × Nat × Nat × QpAttr)
  regions : SMap (Option Region)
  gens : SMap Nat
  /-- Packets held in the miss buffer: QP, port, receive time, packet (R32). -/
  miss : List (Nat × Nat × Nat × LftPkt)
  /-- The fabric time before which no further NAK NO_QP is sent, by QP number (R314). -/
  nakAt : SMap Nat
  ord : Nat
  clock : Nat
  /-- Notify completions that have been posted: QP and MSG_PSN. -/
  notified : List (Nat × Nat)
  /-- Steward work requests that have completed and not been taken up: Steward, tag, status and data. -/
  finished : List (Nat × Nat × Nat × List Byte)
  deriving DecidableEq, Repr

/-- No queue pair and no region. -/
def LftSt.empty : LftSt :=
  { qps := [], quarantine := [], creating := [], regions := [], gens := [], miss := [], nakAt := [], ord := 0, clock := 0, notified := [], finished := [] }



/-! ## Block service (spec/13) -/

/-- A command outstanding on a drive: its identifier, the sub-command it carries out, its opcode and range, its buffer, and whether it
writes, has been aborted, and is relayed through the twin. -/
structure NvmeCmd where
  cid : Nat
  sub : Nat
  opcode : Nat
  nsid : Nat
  lba : Nat
  nlb : Nat
  buf : List Byte
  write : Bool
  fua : Bool
  aborted : Bool
  relayed : Bool
  /-- It stands in a queue of the drive; one that is not sent waits for a free entry (Table 13.3). -/
  sent : Bool
  deriving DecidableEq, Repr

/-- A storage port's drive: what it reported, its outstanding commands, and its controller resets (Table 13.4). -/
structure Drive where
  info : Option DriveInfo
  cmds : List NvmeCmd
  nextCid : Nat
  resets : List Nat
  deriving DecidableEq, Repr

/-- A part of an operation sent to one member: the volume blocks it covers. -/
structure BlkSub where
  id : Nat
  op : Nat
  lba : Nat
  n : Nat
  write : Bool
  deriving DecidableEq, Repr

/-- A tag in use by a completion the requester has not consumed (R398): the completion's absolute index. -/
structure TagUse where
  acc : Bool
  inst : Nat
  ring : Nat
  tag : Nat
  index : Nat
  deriving DecidableEq, Repr

/-- The block service. -/
structure BlkSt where
  vols : SMap (Option Volume)
  atts : List Attach
  drives : Vector Drive 8
  ops : List BlkOp
  parts : List BlkSub
  cache : List CBlk
  failed : List (Nat × Nat × Nat)
  bel : List BelE
  next : Nat
  journal : List JournalRec
  tags : List TagUse
  /-- The result of the checkpoint movers' last operations: operation, status, blocks. -/
  finished : List (Nat × Nat × List (Nat × List Byte))
  deriving DecidableEq, Repr

/-- No drive seen. -/
def Drive.reset : Drive := { info := none, cmds := [], nextCid := 0, resets := [] }
/-- No volume. -/
def BlkSt.reset : BlkSt :=
  { vols := [], atts := [], drives := Vector.replicate 8 Drive.reset, ops := [], parts := [], cache := [], failed := [], bel := [],
    next := 0, journal := [], tags := [], finished := [] }



/-! ## Decode support (spec/14) -/

/-- The pools of an instance (R415): T0 runs, T1 and T2 extents, T3 volume. -/
structure Pools where
  t0 : List (Nat × Nat × Nat)
  t1 : Option (Nat × Nat)
  t2 : Option (Nat × Nat)
  t3 : Option Nat
  deriving DecidableEq, Repr

/-- The decode service: pools by instance, sequences, and what its counters of 1,024 pages still lack. -/
structure DecSt where
  pools : SMap Pools
  seqs : SMap (Option Seq)
  streamed : Nat
  demoted : Nat
  clock : Nat
  deriving DecidableEq, Repr

/-- No pool. -/
def Pools.none : Pools := { t0 := [], t1 := .none, t2 := .none, t3 := .none }
/-- No sequence. -/
def DecSt.empty : DecSt := { pools := [], seqs := [], streamed := 0, demoted := 0, clock := 0 }



/-! ## Firmware, flash and boot (spec/20, spec/21) -/

/-- A Steward's firmware image (R563). -/
structure FwImage where
  text : List Byte
  data : List Byte
  version : Nat
  domain : List Byte
  deriving DecidableEq, Repr

/-- A Graft in progress (R558). -/
structure GraftRun where
  /-- The targets left, the one under way first. -/
  targets : List Nat
  persist : Bool
  pkg : List Byte
  /-- HANDOVER has been sent to the first target; the length of its record once it has answered. -/
  sent : Bool
  recLen : Option Nat
  /-- When HANDOVER was sent, or the new firmware started. -/
  since : Nat
  deriving DecidableEq, Repr

/-- The Stewards' firmware. -/
structure FwSt where
  /-- The images in force, which a restart loads. -/
  images : Vector FwImage 8
  /-- When the watchdog count of each began. -/
  kick : Vector Nat 8
  graft : Option GraftRun
  /-- Stewards to be restarted from their own handover record: Steward and record length (R561). -/
  back : List (Nat × Nat)
  deriving DecidableEq, Repr

/-- A flash write, under way or waiting. -/
inductive FlashOp where
  /-- Copy A or B of the Device Record. -/
  | record (b : Bool) (r : DevRec)
  /-- Firmware package slot A or B. -/
  | package (b : Bool) (pkg : List Byte)
  | journal (j : JournalRec)
  deriving DecidableEq, Repr

/-- Flash and boot. -/
structure BootSt where
  flash : Flash
  /-- Writes in arrival order, the first under way. -/
  queue : List FlashOp
  /-- A write of the Device Record is asked for (R569). -/
  want : Bool
  /-- The chosen record, with the sections an accepted DR_UPDATE has replaced. -/
  chosen : Option DevRec
  /-- The digest of the running package. -/
  digest : List Byte
  deriving DecidableEq, Repr

/-- An SPDM session: its number, whether DOE carries it, and whether FINISH has ended its handshake. -/
structure SpdmSess where
  id : Nat
  doe : Bool
  up : Bool
  deriving DecidableEq, Repr

/-- The SPDM responder: how far each connection has come, DOE first (1 version, 2 capabilities, 3 algorithms), and its sessions. -/
structure SpdmSt where
  conn : Vector Nat 2
  sessions : List SpdmSess
  deriving DecidableEq, Repr

/-- No image. -/
def FwImage.empty : FwImage := { text := [], data := [], version := 0, domain := [] }
/-- No firmware loaded. -/
def FwSt.reset : FwSt := { images := Vector.replicate 8 FwImage.empty, kick := Vector.replicate 8 0, graft := none, back := [] }
/-- A flash that holds nothing (log entry 51). -/
def Flash.empty : Flash := { recA := none, recB := none, pkgA := [], pkgB := [], journal := [], rpmc0 := 0, rpmc1 := 0 }
/-- Before boot. -/
def BootSt.reset : BootSt := { flash := Flash.empty, queue := [], want := false, chosen := none, digest := [] }
/-- No connection. -/
def SpdmSt.reset : SpdmSt := { conn := Vector.replicate 2 0, sessions := [] }

/-! ## Pins, power, telemetry and the CXL window (spec/18, spec/22, spec/24, spec/25, spec/27) -/

/-- The instructions of the TAP (R632). -/
inductive Tap where
  | bypass | idcode | sample | extest | extestPulse | extestTrain
  deriving DecidableEq, Repr

/-- The pins a rule speaks of. -/
structure PinSt where
  /-- SYS_RST_N and PERST_N of port H are low; THERMTRIP_N is driven low. -/
  sysRst : Bool
  perst : Bool
  thermtrip : Bool
  /-- ACC_PERST_N and STOR_PERST_N are high. -/
  accPerst : Vector Bool 8
  storPerst : Vector Bool 8
  /-- Port H is up, and trained with separate reference clocks (R601). -/
  portH : Bool
  sris : Bool
  /-- The instruction in force in the TAP. -/
  tap : Tap
  deriving DecidableEq, Repr

/-- The throttle and the thermal response (R608 to R612). -/
structure PowerSt where
  /-- Power of each die and its stacks in mW, and the highest junction temperature of each die in m°C. -/
  power : Vector Nat 2
  tj : Vector Nat 2
  /-- The level was raised in the last interval, the power before it was, and the gain recorded of each level, in mW. -/
  raised : Bool
  before : Int
  gain : Vector Int 7
  /-- Since when power plus gain has stayed under the cap. -/
  fits : Option Nat
  /-- Since when Tj has been at or above 105 °C. -/
  hot : Option Nat
  deriving DecidableEq, Repr

/-- A log entry that telemetry is to carry, with the season it was appended in. -/
inductive TeleLog where
  | viol (v : Viol)
  | health (e : HlogE)
  deriving DecidableEq, Repr

/-- Telemetry (spec/22). -/
structure TeleSt where
  /-- Shadows of the RC fields, by register × 32 + first bit (R585). -/
  shadow : SMap Nat
  /-- The counts of INSTANCE records, by instance × 16 + position (Table 22.4). -/
  tally : SMap Nat
  /-- Transmitted bytes by port, and read and written bytes by storage port: 0 + port, 32 + port, 40 + port. -/
  bytes : SMap Nat
  /-- Log entries appended and not yet carried, oldest first. -/
  logs : List TeleLog
  /-- Buffers posted on TELEMETRY rings, oldest first, and of each ring that has begun one: instance, bytes placed, time of the first record. -/
  bufs : List RxBuf
  fill : List (Nat × Nat × Nat)
  /-- Records lost since the last that was placed: stream (an instance, or 64 for MCTP), count, time of the first. -/
  gaps : List (Nat × Nat × Nat)
  /-- The subscription of the board management controller: mask, DIVIDER, samples until the next (R589). -/
  mask : Nat
  div : Nat
  left : Nat
  /-- The second of fabric time in which MCTP last sent, and the bytes sent in it. -/
  second : Nat
  sent : Nat
  /-- Time of the last sample taken without a Beat Table. -/
  last : Nat
  deriving DecidableEq, Repr

/-- The snoop filter of the CXL.mem window (R501, R654): lines the host may hold, oldest first; lines under BISnpInv; and writes that
take effect for the host when the line is given up: line, HBM key, bytes, and whether they are already in memory. -/
structure CxlSt where
  tracked : List Nat
  snooping : List Nat
  waits : List (Nat × Nat × List Byte × Bool)
  deriving DecidableEq, Repr

/-- The pins at reset: SYS_RST_N and PERST_N are held low (log entry 52). -/
def PinSt.reset : PinSt :=
  { sysRst := true, perst := true, thermtrip := false, accPerst := Vector.replicate 8 false, storPerst := Vector.replicate 8 false, portH := false,
    sris := false, tap := .bypass }
/-- No power measured. -/
def PowerSt.reset : PowerSt :=
  { power := Vector.replicate 2 0, tj := Vector.replicate 2 0, raised := false, before := 0, gain := Vector.replicate 7 0, fits := none, hot := none }
/-- No telemetry. -/
def TeleSt.reset : TeleSt :=
  { shadow := [], tally := [], bytes := [], logs := [], bufs := [], fill := [], gaps := [], mask := 0, div := 1, left := 1, second := 0, sent := 0, last := 0 }
/-- The host holds no line. -/
def CxlSt.reset : CxlSt := { tracked := [], snooping := [], waits := [] }

end Sys2Proof.Machine
end

