-- ==== Sys2Proof/Machine/State.lean ====
section
/-! DEFINITION. The state of the block as plain data, its reset, and the reasons a step can stop. -/

namespace Sys2Proof.Machine

/-- Why a step stops with a fault. No meaning of this model raises one: every command has an effect. -/
inductive Fault where
  /-- Raised by nobody; it stands for a stop the spec names without an effect. Safe. -/
  | stuck
  deriving DecidableEq, Repr

/-- Why a command has no meaning. -/
inductive Refusal where
  /-- Raised by an arm of Dispatch.lean whose command is not modelled. Safe. -/
  | notModelled (mnemonic : String)
  deriving DecidableEq, Repr

/-- The state of the block (INVENTORY.md, State). -/
structure State where
  /-- The commands that are waiting, first in, first out. -/
  pending : List Instr
  /-- The compute cores and the Stewards (R73, R539). -/
  cores : Vector Core 264
  /-- I-space of each unit (R99). -/
  imem : Vector Ram 264
  /-- Local data SRAM of each unit (R102, R541). -/
  lmem : Vector Ram 264
  /-- Bunch SRAM, die × 16 + Bunch (R204). -/
  bmem : Vector Ram 32
  /-- HBM, keyed by stack × 36 GiB + stack offset (R216). -/
  hbm : Ram
  /-- The HBM stack controllers (R215, R220). -/
  hbmCtl : Vector HbmSt 4
  /-- The die-to-die link, by direction (R214). -/
  d2d : Vector D2dSt 2
  /-- The register file (spec/27). -/
  csr : Csr
  /-- Wide-register buffers (R648). -/
  wide : WideSt
  /-- Fabric time (spec/07). -/
  time : TimeSt
  /-- The beat dispatcher and schedule images (spec/07). -/
  beat : Beat
  /-- The Violation Log (R520). -/
  vlog : VLog
  /-- Health events reported and not yet acted on by the health-and-repair Steward, oldest first (R462). -/
  reports : List HealthEv
  /-- Stewards halted uncommanded whose loader has been notified (R553). -/
  stopped : List Nat
  /-- What the device has sent to its partners, newest first (the model's own field, log entry 14). -/
  out : List Emit
  /-- The counter free values are drawn with (the model's own field, log entry 6). -/
  fresh : Nat
  /-- The quota record in effect of each instance, by the keys of the INST block whose words are the shadow (R529). -/
  quota : Csr
  /-- The host rings, by instance × 64 + ring (R507). -/
  rings : SMap Ring
  /-- Deferred block errors not yet reported, oldest first (R409). -/
  deferred : List DeferE
  /-- The feed, block and decode windows, kind × 8 + port, and from 24 those of a lost twin (R270, R399, R421, R300). -/
  wins : Vector AccWin 48
  /-- The twin-mirroring function (spec/17). -/
  twin : TwinSt
  /-- Collective groups, legs and feed entries (spec/08). -/
  coll : CollSt
  /-- Resident state and the checkpoint function (spec/15). -/
  ckpt : CkptSt
  /-- The health-and-repair records and witnessed groups (spec/16). -/
  health : HealthSt
  /-- The network ports: egress queues, buckets, reorder stages, slow path (spec/10, spec/11). -/
  net : NetSt
  /-- The match tables (spec/10). -/
  cls : ClsSt
  /-- The key slots (spec/12). -/
  keys : KeySt
  /-- The transport's queue pairs and regions (spec/09). -/
  lft : LftSt
  /-- The block service: volumes, drives, write cache, commands (spec/13). -/
  blk : BlkSt
  /-- The decode service: pools and sequences (spec/14). -/
  dec : DecSt
  /-- Instances: captured doorbells, residency, heartbeats, key-encryption keys (spec/19, R37, R573). -/
  inst : InstSt
  /-- The Stewards' firmware, restarts and Graft (spec/20). -/
  fw : FwSt
  /-- Flash, the Device Record and boot (spec/21). -/
  boot : BootSt
  /-- The SPDM responder (R578). -/
  spdm : SpdmSt
  /-- Pins, port H's link and the TAP (spec/24, spec/25). -/
  pins : PinSt
  /-- The throttle and the thermal response (spec/24). -/
  power : PowerSt
  /-- Telemetry (spec/22). -/
  tele : TeleSt
  /-- The snoop filter of the CXL.mem window (R501, R654). -/
  cxl : CxlSt
  deriving DecidableEq, Repr

/-- The machine right after reset: every field at the value the spec states, or at the value the assumption log names. -/
def State.reset : State :=
  { pending := [],
    cores := Vector.ofFn Core.reset,
    imem := Vector.replicate 264 Ram.empty,
    lmem := Vector.replicate 264 Ram.empty,
    bmem := Vector.replicate 32 Ram.empty,
    hbm := Ram.empty,
    hbmCtl := Vector.replicate 4 HbmSt.reset,
    d2d := Vector.replicate 2 { replays := 0, failed := false },
    csr := [],
    wide := { hold := [], latch := [], fe := [] },
    time := TimeSt.reset,
    beat := Beat.reset,
    vlog := { entries := [], next := 0 },
    reports := [],
    stopped := [],
    out := [],
    fresh := 0,
    quota := [],
    rings := [],
    deferred := [],
    wins := Vector.replicate 48 AccWin.zero,
    twin := TwinSt.reset,
    coll := CollSt.empty,
    ckpt := CkptSt.reset,
    health := HealthSt.reset,
    net := NetSt.reset,
    cls := ClsSt.empty,
    keys := { slots := [], erase := [], mism := [] },
    lft := LftSt.empty,
    blk := BlkSt.reset,
    dec := DecSt.empty,
    inst := InstSt.reset,
    fw := FwSt.reset,
    boot := BootSt.reset,
    spdm := SpdmSt.reset,
    pins := PinSt.reset,
    power := PowerSt.reset,
    tele := TeleSt.reset,
    cxl := CxlSt.reset }

end Sys2Proof.Machine
end

