-- ==== Sys2Proof/Machine/Ops.lean ====
section
/-! DEFINITION. The named operations over the state that the meanings share: registers, memories, queues, logs, free values, the taking of
an exception by a core and the return from one, and the halting of a core (spec/03 R116 to R126). -/

namespace Sys2Proof.Machine

/-- The outcome of a command. -/
abbrev Out := Host.Outcome State Fault Refusal

/-! ## Field updates -/

/-- A unit. -/
def State.core (s : State) (u : UnitId) : Core := s.cores[u.val]'u.isLt
/-- Replace a unit. -/
def State.setCore (s : State) (u : UnitId) (c : Core) : State := { s with cores := s.cores.set u.val c u.isLt }
/-- Change a unit. -/
def State.modCore (s : State) (u : UnitId) (f : Core → Core) : State := s.setCore u (f (s.core u))

/-- A register field. -/
def State.fld (s : State) (f : Fld) : Nat := s.csr.fld f
/-- A register field is 1. -/
def State.flag (s : State) (f : Fld) : Bool := s.csr.fld f == 1
/-- Set a register field. -/
def State.setFld (s : State) (f : Fld) (v : Nat) : State := { s with csr := s.csr.setFld f v }
/-- Count up a register field, saturating (R10); its shadow counts the same events and is never cleared (R585). -/
def State.incFld (s : State) (f : Fld) (n : Nat := 1) : State :=
  { s with csr := s.csr.incFld f n,
           tele.shadow := SMap.set (fun _ => 0) s.tele.shadow (f.key * 32 + f.lo) (SMap.get (fun _ => 0) s.tele.shadow (f.key * 32 + f.lo) + n) }
/-- Count for the INSTANCE records of an instance: position j of Table 22.4. -/
def State.tally (s : State) (inst j n : Nat) : State :=
  if 64 ≤ inst then s
  else { s with tele.tally := SMap.set (fun _ => 0) s.tele.tally (inst * 16 + j) (SMap.get (fun _ => 0) s.tele.tally (inst * 16 + j) + n) }
/-- Count bytes of a port: sent by a port code, or read (32) or written (40) on a storage port. -/
def State.portBytesAdd (s : State) (i n : Nat) : State :=
  { s with tele.bytes := SMap.set (fun _ => 0) s.tele.bytes i (SMap.get (fun _ => 0) s.tele.bytes i + n) }
/-- Set a register word. -/
def State.setWord (s : State) (key : Nat) (v : Word) : State := { s with csr := s.csr.set key v }
/-- Set two adjacent register words. -/
def State.setWord64 (s : State) (key v : Nat) : State := { s with csr := s.csr.set64 key v }

/-- Append a record of what is sent. -/
def State.emit (s : State) (e : Emit) : State := { s with out := e :: s.out }
/-- Append records, in order. -/
def State.emits (s : State) (es : List Emit) : State := { s with out := es.reverse ++ s.out }

/-- What is left of a slew after `dt` ns: it is worked off at no more than 100 ppm (R232). -/
def slewLeft (w : Int) (dt : Nat) : Int :=
  let k : Int := (dt * 65536 / 10000 : Nat)
  if w < 0 then min 0 (w + k) else max 0 (w - k)
/-- Fabric time reaches `t`; it never goes back, and a slew is worked off meanwhile (R232; log entry 163). -/
def State.advance (s : State) (t : Nat) : State :=
  { s with time.now := max s.time.now t, time.slew := slewLeft s.time.slew (t - s.time.now) }

/-- Take one free value: the counter advances (log entry 6). -/
def State.tick (s : State) : State := { s with fresh := s.fresh + 1 }
/-- The free word of the counter. -/
def State.freeWord (s : State) : Word := Config.freeWord s.fresh

/-- A free choice among the elements of a list, where the spec gives no order. -/
def State.pick {α : Type} (s : State) (l : List α) : Option α := l[Config.choice s.fresh % l.length]?

/-- Record a violation (R520): the ring keeps the newest 4,096 entries, and telemetry carries each (Table 22.4). -/
def State.violate (s : State) (cls partner protocol status reason ctx0 ctx1 : Nat) : State :=
  let v : Viol := { time := s.time.now, cls := cls, partner := partner, protocol := protocol, status := status,
                    reason := reason, ctx0 := ctx0, ctx1 := ctx1 }
  { s with vlog := { entries := (v :: s.vlog.entries).take 4096, next := (s.vlog.next + 1) % 2 ^ 32 },
           tele.logs := s.tele.logs ++ [.viol v] }

/-- Report a health event to the health-and-repair Steward (R462). -/
def State.report (s : State) (code unit detail : Nat) : State := { s with reports := s.reports ++ [⟨code, unit, detail⟩] }

/-- Ask Steward 0 to write the Device Record (R569, R478, R479). -/
def State.wantRecord (s : State) : State := { s with boot.want := true }

/-! ## Units -/

/-- A unit is a Steward. -/
def isSteward (u : UnitId) : Bool := 256 ≤ u.val
/-- The Steward with a number. -/
def stewardUnit (n : Nat) : UnitId := ⟨256 + n % 8, by omega⟩
/-- The die of a unit. -/
def dieOf (u : UnitId) : Nat := if u.val < 256 then u.val / 128 else (u.val - 256) / 4
/-- The Bunch of a compute core, die × 16 + Bunch; for a Steward, zero. -/
def bunchOf (u : UnitId) : Fin 32 := if h : u.val < 256 then ⟨u.val / 8, by omega⟩ else 0
/-- Logical core `n` of the Bunch of a unit. -/
def peerUnit (u : UnitId) (n : Nat) : UnitId := ⟨u.val % 256 / 8 * 8 + n % 8, by omega⟩

/-- The unit code of a core or Steward in the Health Log (Table 16.3): a core by its physical name of CORE_ID. -/
def State.unitCode (s : State) (u : UnitId) : Nat :=
  if isSteward u then 0x7000 + (u.val - 256)
  else
    let id := (s.core u).ctl.id.toNat
    bits id 7 1 * 2048 + bits id 12 5 * 64 + bits id 8 4 * 4

/-- The unit code of an engine (Table 16.3). -/
def State.engineCode (s : State) (u : UnitId) (e : Nat) : Nat := 0x1000 + s.unitCode u + e

/-- The unit code of a Bunch (Table 16.3), by the physical Bunch of its core 0. -/
def State.bunchCode (s : State) (b : Fin 32) : Nat := 0x2000 + s.unitCode ⟨b.val * 8, by omega⟩ / 64 * 64

/-! ## HBM addresses (R216) -/

/-- 1 MiB. -/
def mib : Nat := 2 ^ 20
/-- W, the working bytes of a stack. -/
def State.workBytes (s : State) : Nat := s.fld R.hbmWorkMib * mib
/-- The top of the working space. -/
def State.workTop (s : State) : Nat := 4 * s.workBytes
/-- The key of byte `o` of a stack. -/
def stackKey (stack o : Nat) : Nat := stack * (36864 * mib) + o
/-- The key of a working-partition address. -/
def State.workKey (s : State) (a : Nat) : Nat := stackKey (a / s.workBytes) (a % s.workBytes)

/-- A Steward is stopped or in a Graft gap. -/
def State.stewardOff (s : State) (n : Nat) : Bool := s.stopped.contains n || s.flag (R.fwGrafting n)

/-- Read bytes at a working-partition address, byte by byte through the stacks. -/
def State.hbmBytes (s : State) (a n : Nat) : List Byte := (List.range n).map fun i => s.hbm.bytes.get (s.workKey (a + i))

/-- A read of a working-partition range meets an uncorrectable block. -/
def State.hbmBad (s : State) (a n : Nat) : Bool :=
  s.hbm.bad.any fun k =>
    let stk := k * 64 / (36864 * mib)
    let o := k * 64 % (36864 * mib)
    o < s.workBytes && (let w := stk * s.workBytes + o; a < w + 64 && w < a + n)

/-- The first byte of the CXL.mem window in the working partition, and its length (R653, R654). -/
def State.hostWin (s : State) : Nat × Nat := (s.fld R.hostwinBase * 2 ^ 28, s.fld R.hostwinLen * 2 ^ 28)
/-- Send BISnpInv of a working-partition line, unless it is under one already. -/
def State.snoop (s : State) (k : Nat) : State :=
  if s.cxl.snooping.contains k then s
  else { s with cxl.tracked := s.cxl.tracked.erase k, cxl.snooping := s.cxl.snooping ++ [k] }.emit (.cxl 3 (k * 64 - s.hostWin.1) [])
/-- A write of the device's own to a line the host may hold: BISnpInv of the line goes out, and the write is kept until the host has
given the line up, so that what the host writes back meanwhile does not undo it (R654; log entry 53). -/
def State.snoopWrite (s : State) (key : Nat) (l : List Byte) : State :=
  let a := key / (36864 * mib) * s.workBytes + key % (36864 * mib)
  let hit := if s.workBytes ≤ key % (36864 * mib) then []
    else (s.cxl.tracked ++ s.cxl.snooping).filter fun k => a / 64 ≤ k && k * 64 < a + l.length
  hit.foldl (fun s k => ({ s with cxl.waits := s.cxl.waits ++ [(k, key, l, true)] } : State).snoop k) s
/-- Write bytes at an HBM key. The caller has checked the read-merge of R228. -/
def State.hbmWrite (s : State) (key : Nat) (l : List Byte) : State := { s with hbm := s.hbm.put 64 key l }.snoopWrite key l
/-- Write bytes at a working-partition address. The caller has checked the read-merge of R228. -/
def State.hbmPut (s : State) (a : Nat) : List Byte → State
  | [] => s
  | b :: bs => State.hbmPut (s.hbmWrite (s.workKey a) [b]) (a + 1) bs

/-! ## D-space (R102 to R105, R541, R542) -/

/-- Where a D-space access falls. -/
inductive Place where
  | lmem (o : Nat)
  | bmem (o : Nat)
  | hbm (key : Nat)
  | csr (o : Nat)
  | priv (o : Nat)
  deriving DecidableEq, Repr

/-- The place of an aperture access, or its exception (R104, R105). -/
def State.aperture (s : State) (c : Core) (n o : Nat) (store : Bool) : Except Cause Place :=
  let ctl := (c.getCr (0x24 + n)).toNat
  if ctl % 2 = 0 ∨ (store ∧ ctl / 2 % 2 = 0) then .error .apDisabled
  else
    let a := (c.getCr (0x20 + n)).toNat * mib + o
    if a < c.ctl.fenceLo.toNat * mib ∨ c.ctl.fenceHi.toNat * mib ≤ a ∨ s.workTop ≤ a then .error .apFence
    else .ok (.hbm (s.workKey a))

/-- A right of a Steward's domain; code 3 is taken as 0 (Table 20.9). -/
def domRight (r : Nat) : Nat := if r = 3 then 0 else r

/-- The Steward-private blocks that Table 27.6 lists. -/
def privListed (blk : Nat) : Bool := blk ≤ 8

/-- The place of a D-space access of `w` bytes at `a`, or its exception, by the priorities of Table 4.2. -/
def State.place (s : State) (u : UnitId) (a : Word) (w : Nat) (store : Bool) : Except Cause Place :=
  let n := a.toNat
  let c := s.core u
  if n % w ≠ 0 then .error .misaligned
  else if n < 0x40000 then .ok (.lmem n)
  else if 0x40000000 ≤ n ∧ n < 0x80000000 then s.aperture c ((n - 0x40000000) / 0x10000000) (n % 0x10000000) store
  else if isSteward u then
    if 0x10000000 ≤ n ∧ n < 0x20000000 then
      if w ≠ 4 then .error .misaligned
      else
        let r := domRight (s.fld (R.domCsr (u.val - 256) ((n - 0x10000000) / mib)))
        if r = 0 then .error .unmapped else if store ∧ r = 1 then .error .apDisabled else .ok (.csr (n - 0x10000000))
    else if 0x20000000 ≤ n ∧ n < 0x30000000 then
      if w ≠ 4 then .error .misaligned
      else
        let r := domRight (s.fld (R.domPriv (u.val - 256) ((n - 0x20000000) / mib)))
        if r = 0 ∨ privListed ((n - 0x20000000) / mib) = false then .error .unmapped
        else if store ∧ r = 1 then .error .apDisabled else .ok (.priv (n - 0x20000000))
    else if 0x80000000 ≤ n ∧ n < 0xC0000000 then
      .ok (.hbm (s.workKey ((s.fld R.rindFwresBase + 1024 * (u.val - 256)) * mib + (n - 0x80000000))))
    else .error .unmapped
  else if 0x1000000 ≤ n ∧ n < 0x1400000 then .ok (.bmem (n - 0x1000000))
  else .error .unmapped

/-- The memory, the protection-word size and the address of a place that is memory. -/
def State.ramAt (s : State) (u : UnitId) : Place → Option (Ram × Nat × Nat)
  | .lmem o => some (s.lmem[u.val]'u.isLt, 4, o)
  | .bmem o => some (s.bmem[(bunchOf u).val]'(bunchOf u).isLt, 8, o)
  | .hbm k => some (s.hbm, 64, k)
  | .csr _ => none
  | .priv _ => none

/-- Write bytes into the memory of a place. The caller has checked the read-merge of R228. -/
def State.putAt (s : State) (u : UnitId) (l : List Byte) : Place → State
  | .lmem o => { s with lmem := s.lmem.set u.val ((s.lmem[u.val]'u.isLt).put 4 o l) u.isLt }
  | .bmem o => { s with bmem := s.bmem.set (bunchOf u).val ((s.bmem[(bunchOf u).val]'(bunchOf u).isLt).put 8 o l) (bunchOf u).isLt }
  | .hbm k => s.hbmWrite k l
  | .csr _ => s
  | .priv _ => s

/-! ## Errors the codes find (R227 to R230, Table 16.4) -/

/-- The unit code of the pseudo-channel of an HBM block (Tables 6.8 and 16.3). -/
def hbmUnit (k : Nat) : Nat :=
  let o := k * 64 % (36864 * mib)
  0x6000 + k * 64 / (36864 * mib) % 4 + (bits o 8 5 ^^^ bits o 21 5) * 4
/-- The erroneous protection words a read meets: memory (0 core-local, 1 Bunch, 2 HBM), word, and whether the code cannot correct it. -/
def State.eccMarks (s : State) (u : UnitId) (x : Place × Nat) : List (Nat × Nat × Bool) :=
  match s.ramAt u x.1 with
  | none => []
  | some (r, w, o) =>
    let k := match x.1 with | .lmem _ => 0 | .bmem _ => 1 | _ => 2
    let hit : Nat → Bool := fun i => o / w ≤ i && i * w < o + x.2
    ((r.soft.filter hit).map fun i => (k, i, false)) ++ ((r.bad.filter hit).map fun i => (k, i, true))
/-- DETAIL of an error in a core's memories: the 64-byte row of the byte, and in the place of the bank 0 for core-local SRAM and 1 for instruction
SRAM (Table 16.4; DESIGN CHOICE, log entry 159). -/
def coreRow (instr : Bool) (byte : Nat) : Nat := byte / 64 * 32 + b2n instr
/-- DETAIL of an error in Bunch SRAM: bank o[10:6] in the low five bits, and the row of 64 bytes within it above (R204, Table 16.4; log
entry 159). -/
def bunchRow (byte : Nat) : Nat := byte / 2048 * 32 + bits byte 6 5
/-- Add to a list of at most `n` entries without repeats. -/
def addEntry (n : Nat) (x : Nat × Nat) (l : List (Nat × Nat)) : List (Nat × Nat) := if l.contains x ∨ n ≤ l.length then l else l ++ [x]

/-- Spare rows of a bank: 16 for a bank of Bunch SRAM, 8 for a memory of a core (R208). -/
def spareRows (unit : Nat) : Nat := if unit / 4096 = 2 then 16 else 8
/-- Add a row to the remap list while its bank has a spare row left: the bank stands in the low five bits of the row (R208, log entry 159). -/
def addRow (x : Nat × Nat) (l : List (Nat × Nat)) : List (Nat × Nat) :=
  if spareRows x.1 ≤ (l.filter fun y => y.1 == x.1 && y.2 % 32 == x.2 % 32).length then l else addEntry 512 x l
/-- Report one of them; a corrected word of a core's own memory sets ECC_CORR (R98, R230). -/
def State.eccWord (s : State) (u : UnitId) (m : Nat × Nat × Bool) : State :=
  if m.1 = 0 then
    (if m.2.2 then s.report 0x04 (s.unitCode u) (coreRow false (m.2.1 * 4))
     else (s.modCore u fun c => c.setFlag 3).report 0x03 (s.unitCode u) (coreRow false (m.2.1 * 4)))
  else if m.1 = 1 then s.report (if m.2.2 then 0x04 else 0x03) (s.bunchCode (bunchOf u)) (bunchRow (m.2.1 * 8))
  else s.report (if m.2.2 then 0x06 else 0x05) (hbmUnit m.2.1) m.2.1
/-- Report what reads of some extents meet, each protection word once. -/
def State.eccReads (s : State) (u : UnitId) (rs : List (Place × Nat)) : State :=
  ((rs.flatMap (s.eccMarks u)).eraseDups).foldl (fun s m => s.eccWord u m) s

/-- The place `k` bytes on. -/
def Place.shift (k : Nat) : Place → Place
  | .lmem o => .lmem (o + k)
  | .bmem o => .bmem (o + k)
  | .hbm a => .hbm (a + k)
  | .csr o => .csr (o + k)
  | .priv o => .priv (o + k)
/-- The protection words a write covers only in part, as reads of one byte: each is read, corrected and merged (R228). -/
def State.mergeEdges (s : State) (u : UnitId) (x : Place × Nat) : List (Place × Nat) :=
  match s.ramAt u x.1 with
  | none => []
  | some (_, w, o) =>
    if x.2 = 0 then []
    else (if o % w ≠ 0 then [(x.1, 1)] else []) ++ (if (o + x.2) % w ≠ 0 then [(x.1.shift (x.2 - 1), 1)] else [])
/-- The extents of a working-partition range, stack by stack. -/
def State.workRanges (s : State) (a n : Nat) : List (Place × Nat) :=
  (List.range 4).filterMap fun k =>
    let lo := max a (k * s.workBytes)
    let hi := min (a + n) ((k + 1) * s.workBytes)
    if lo < hi then some (.hbm (stackKey k (lo - k * s.workBytes)), hi - lo) else none
/-- Report what a read of a working-partition range meets. -/
def State.hbmSeen (s : State) (a n : Nat) : State := s.eccReads 256 (s.workRanges a n)
/-- Report what the read-merges of a write of a working-partition range meet. -/
def State.hbmMerged (s : State) (a n : Nat) : State := s.eccReads 256 ((s.workRanges a n).flatMap (s.mergeEdges 256))
/-- A write to working HBM covers an uncorrectable block only in part (R228). -/
def State.hbmMergeBad (s : State) (a n : Nat) : Bool :=
  s.hbm.bad.any fun k =>
    let stk := k * 64 / (36864 * mib)
    let o := k * 64 % (36864 * mib)
    o < s.workBytes && (let w := stk * s.workBytes + o; a < w + 64 && w < a + n && !(a ≤ w && w + 64 ≤ a + n))
/-- Write bytes at a working-partition address under R228: what the read-merges meet is reported, and a write whose read-merge is uncorrectable
writes nothing. -/
def State.hbmStore (s : State) (a : Nat) (l : List Byte) : State :=
  if s.hbmMergeBad a l.length then s.hbmMerged a l.length else (s.hbmMerged a l.length).hbmPut a l
/-- Bytes as a reader that goes on gets them: those of an uncorrectable block come as an error, and stand for none in particular (R230; log
entry 160). -/
def State.hbmGet (s : State) (a n : Nat) : List Byte :=
  (List.range n).map fun i => if s.hbmBad (a + i) 1 then Config.freeByte (s.fresh + i) else s.hbm.bytes.get (s.workKey (a + i))

/-! ## Accesses held by an in-stack copy (R218, R222) -/

/-- The stack of an HBM key. -/
def stackOf (key : Nat) : Fin 4 := ⟨key / (36864 * mib) % 4, by omega⟩
/-- An in-stack copy drains or runs on the stack of a key, so its accesses are held. -/
def State.keyHeld (s : State) (key : Nat) : Bool := s.hbmCtl[stackOf key].phase != .idle

/-! ## FE registers (R8, R556) -/

/-- BAR0 words under the access code FE: GRAFT_CTL, BT_CTL and LHQI_CTL of each instance. -/
def feKey (key : Nat) : Bool :=
  key == 0x40000C || key == 0x600100 || (0x20400000 ≤ key && key < 0x20800000 && key % 0x10000 == 8)
/-- Accesses to an FE register wait: Steward 1 is stopped or in a Graft gap, and for BT_CTL Steward 2 (R556, Table 20.6). -/
def State.feWaits (s : State) (key : Nat) : Bool :=
  feKey key && (s.stewardOff 1 || (key == 0x600100 && s.stewardOff 2))
/-- A command that writes an FE register acts, or waits with the writes before it. -/
def State.feCmd (s : State) (key v : Nat) (act : State → State) : State :=
  if s.feWaits key then { s with wide.fe := s.wide.fe ++ [.write key (BitVec.ofNat 32 v)] } else act s
/-- A place's access waits: a stack under an in-stack copy, or an FE register whose Steward is gone. -/
def State.placeHeld (s : State) : Place → Bool
  | .hbm k => s.keyHeld k
  | .csr o => s.feWaits (keyOfBar0 o)
  | _ => false
/-- A D-space access that raises no exception waits. -/
def State.heldAt (s : State) (u : UnitId) (a : Word) (w : Nat) (store : Bool) : Bool :=
  match s.place u a w store with
  | .ok p => s.placeHeld p
  | .error _ => false

/-! ## Halting and messages (R118, R540, R543, R544) -/

/-- CORE_STAT of a unit (Table 3.13). -/
def Core.stat (c : Core) : Nat :=
  c.run.state.code + c.run.reason.code * 8 + b2n c.run.cmdErr * 64 + bits c.ctl.cause.toNat 0 8 * 256 + c.regs.pc.toNat * 65536

/-- The Steward that owns a compute core. -/
def Core.ownerUnit (c : Core) : UnitId := ⟨256 + c.run.owner.toNat, by have := c.run.owner.isLt; omega⟩

/-- Append a core message to a Steward's queue when it has room for both words (R543). -/
def State.postCmsg (s : State) (owner : UnitId) (h w : Word) : Option State :=
  let c := s.core owner
  if c.ports.cmsg.length + 2 ≤ 256 then some (s.setCore owner { c with ports.cmsg := c.ports.cmsg ++ [h, w] }) else none

/-- Move the words of MB_TX to the owner's core-message queue while it has room, behind a latched halt message (R543, R544). -/
def State.drainMbTx (s : State) (u : UnitId) : Nat → State
  | 0 => s
  | n + 1 =>
    let c := s.core u
    match c.run.haltMsg, c.ports.mbTx with
    | none, w :: ws =>
      match s.postCmsg c.ownerUnit (BitVec.ofNat 32 (u.val % 256)) w with
      | some s' => State.drainMbTx (s'.modCore u fun c => { c with ports.mbTx := ws }) u n
      | none => s
    | _, _ => s

/-- Release a latched halt message once the queue has room, then the words behind it (R544). -/
def State.releaseHaltMsg (s : State) (u : UnitId) : State :=
  match (s.core u).run.haltMsg with
  | none => s
  | some (h, w) =>
    match s.postCmsg (s.core u).ownerUnit h w with
    | some s' => (s'.modCore u fun c => { c with run.haltMsg := none }).drainMbTx u 8
    | none => s

/-- Put a unit in HALTED with a reason; any access it waited on is abandoned. -/
def Core.halted (c : Core) (r : HaltReason) : Core :=
  { c with run.state := .halted, run.reason := r, run.stepping := false, run.waitOp := none, run.waitRep := none, run.repHeld := false }

/-- The loader of a Steward (Table 20.1). -/
def stewardLoader (n : Nat) : Nat := if n = 0 then 5 else 0
/-- A Graft ends with a status: what was in its handover gap leaves it. -/
def State.graftEnd (s : State) (status : Nat) : State :=
  let s := match s.fw.graft with
    | some g => (match g.targets with | n :: _ => s.setFld (R.fwGrafting n) 0 | [] => s)
    | none => s
  ({ s with fw.graft := none }.setFld R.graftState 0).setFld R.graftStatus status
/-- A Steward is to be restarted. -/
def State.markStopped (s : State) (n : Nat) : State :=
  { s with stopped := if s.stopped.contains n then s.stopped else s.stopped ++ [n] }.setFld (R.fwRestarting n) 1
/-- What the stop of a Steward does to a Graft: the stop of its target ends it with QUIESCE, the stop of the loader with LOADER; a target
that had halted for handover goes back to its old image and its record (R561). -/
def State.graftStop (s : State) (n : Nat) : State :=
  match s.fw.graft with
  | none => s
  | some g =>
    match g.targets with
    | [] => s
    | m' :: _ =>
      let m := m' % 8
      if m = n then (if g.sent then s.graftEnd 6 else s)
      else if stewardLoader m = n then
        (match g.recLen with
         | some k => ({ s.graftEnd 0xA with fw.back := s.fw.back ++ [(m, k)] }.modCore (stewardUnit m) fun c => c.halted .request).markStopped m
         | none => s.graftEnd 0xA)
      else s
/-- A Steward has stopped uncommanded: its loader is notified, the stop is counted, and the Steward is suspect (R553, R555). -/
def State.stewardStop (s : State) (n : Nat) : State :=
  ((({ s with spdm.sessions := if n = 0 then [] else s.spdm.sessions }.markStopped n).incFld (R.fwRestarts n)).report 0 (0x7000 + n) 0).graftStop n
/-- A Steward is in the gap of a Graft handover and has not answered: its HALT is the handover's (R558). -/
def State.handingOver (s : State) (n : Nat) : Bool :=
  match s.fw.graft with
  | some g => g.targets.head? == some n && g.sent && g.recLen.isNone
  | none => false
/-- A Steward is stopped, or in a Graft gap: what hardware does not carry waits (Table 20.6). -/
def State.stewardGone (s : State) (n : Nat) : Bool := s.stewardOff n
/-- Some Steward is stopped or in a Graft gap: a checkpoint's steps wait (Table 23.2; log entry 176). -/
def State.gap (s : State) : Bool := (List.range 8).any s.stewardOff

/-- A unit halts on its own account: a compute core sends a halt message to its owner, a Steward's loader is notified (R118, R544,
R553). A message still in the latch from an earlier halt is replaced (DESIGN CHOICE, log entry 152). -/
def State.haltOwn (s : State) (u : UnitId) (r : HaltReason) : State :=
  let s := s.modCore u fun c => c.halted r
  if isSteward u then (if r = .halt ∧ s.handingOver (u.val - 256) then s else s.stewardStop (u.val - 256))
  else
    let c := s.core u
    let h := BitVec.ofNat 32 (u.val % 256 + 256 + c.stat % 65536 * 65536)
    let w : Word := c.regs.pc.zeroExtend 32
    (s.modCore u fun c => { c with run.haltMsg := some (h, w) }).releaseHaltMsg u

/-! ## Taking an exception, and returning from one (R116 to R119, R143) -/

/-- Where an exception was raised: whether in a pip pair and by its second pip, and whether in a REP repetition (Table 3.7). -/
structure ExcInfo where
  pair : Bool
  second : Bool
  rep : Bool
  deriving DecidableEq, Repr

/-- CAUSE of an exception (Table 3.7). -/
def causeWord (k : Cause) (i : ExcInfo) : Word :=
  BitVec.ofNat 32 (k.code + b2n i.pair * 256 + b2n i.second * 512 + b2n i.rep * 1024)

/-- The registers an exception saves: CAUSE, EPC and, where Table 3.11 gives a value, BADADDR. A pending compare with the address of a REP that
did not execute is dropped (DESIGN CHOICE, log entry 152). -/
def Core.saveExc (c : Core) (k : Cause) (epc : BitVec 16) (bad : Option Word) (i : ExcInfo) : Core :=
  { c with ctl.cause := causeWord k i, ctl.epc := epc, ctl.badaddr := bad.getD c.ctl.badaddr, loops.repPend := false }

/-- A unit takes an exception (R118): with EXL set it halts with DOUBLE; with EVEC_EN clear it halts with EXCEPTION; otherwise it sets
EXL and goes on at EVEC. -/
def State.takeExc (s : State) (u : UnitId) (k : Cause) (epc : BitVec 16) (bad : Option Word) (i : ExcInfo) : State :=
  let c := (s.core u).saveExc k epc bad i
  if c.exl then (s.setCore u c).haltOwn u .double
  else if c.evecEn = false then (s.setCore u c).haltOwn u .exception
  else s.setCore u { c.setExl true with
    regs.pc := c.ctl.evec, regs.past := false, run.state := .running, run.waitOp := none, run.waitRep := none, run.repHeld := false, run.stepping := false }

/-- ERET: clear EXL, deactivate every loop entered while EXL was 1, and go on at EPC (R129, R134, R143). -/
def Core.excReturn (c : Core) : Core :=
  { c.setExl false with loops.active := c.loops.active.filter (fun l => !l.entryExl), regs.pc := c.ctl.epc &&& 0xFFFC#16,
                        regs.past := false }

/-! ## Starting and resetting a core (R123, R124, R135, R186, R580) -/

/-- Steps 1 and 2 of R123: the architectural state cleared and set, queues and counters with it. A Steward keeps its SMB queues and
its core-message queue (R544). -/
def Core.clearArch (c : Core) (u : UnitId) : Core :=
  { c with regs := Regs.zero, loops := Loops.zero,
           ctl := { Ctl.reset u with id := c.ctl.id, fenceLo := c.ctl.fenceLo, fenceHi := c.ctl.fenceHi },
           cnt := Counters.zero,
           ports := { Ports.empty with smbRx := c.ports.smbRx, cmsg := c.ports.cmsg, ctxSel := c.ports.ctxSel,
                                        peerRx := Vector.replicate 8 [] } }

/-- START (R123): initialise and run from CORE_ENTRY. -/
def Core.start (c : Core) (u : UnitId) : Core :=
  let d := c.clearArch u
  { d with regs.g := (((d.regs.g.set 1 c.run.args[0]).set 2 c.run.args[1]).set 3 c.run.args[2]).set 4 c.run.args[3],
           regs.pc := c.run.entry &&& 0xFFFC#16,
           run := { c.run with state := .running, reason := .none, stepping := false, waitOp := none, waitRep := none, repHeld := false } }

/-- RESET (R124): clear the state, PC 0x0000, state RESET. HALT_REASON becomes NONE (DESIGN CHOICE, log entry 152). -/
def Core.resetCmd (c : Core) (u : UnitId) : Core :=
  { c.clearArch u with
    run := { c.run with state := .reset, reason := .none, stepping := false, waitOp := none, waitRep := none, repHeld := false } }

/-- Discard the words a compute core has sent to the logical cores of its Bunch: its peer queues empty in both directions (R186). -/
def State.clearPeers (s : State) (u : UnitId) : State :=
  if isSteward u then s
  else (List.range 8).foldl (fun s n => s.modCore (peerUnit u n) fun c =>
    { c with ports.peerRx := c.ports.peerRx.set (u.val % 8) [] (by omega) }) s

/-- START of a unit by a command or an event: refused with CMD_ERR unless it is in RESET or HALTED (Table 3.14). -/
def State.startCore (s : State) (u : UnitId) : State :=
  let c := s.core u
  match c.run.state with
  | .reset => (s.clearPeers u).setCore u (c.start u)
  | .halted => (s.clearPeers u).setCore u (c.start u)
  | _ => s.setCore u { c with run.cmdErr := true }

end Sys2Proof.Machine
end

