-- ==== Sys2Proof/Machine/Flow.lean ====
section
/-! DEFINITION. What the body of a core instruction answers, the end check of hardware loops, and the completion of an instruction
(spec/04 R129 to R157, R162; spec/22 R580, R582). -/

namespace Sys2Proof.Machine

/-- Where fetch goes after an instruction, before the end check has its say. -/
inductive Flow where
  /-- To PC + 4. -/
  | seq
  /-- To a target: a taken control transfer (R129). -/
  | jump (t : BitVec 16)
  /-- Into a loop level: LOOP with its count and end, or LOOPX from the architected registers (R136). -/
  | enter (l : Option (Word × BitVec 16))
  /-- LPOP (R136). -/
  | lpop
  /-- ERET (R143). -/
  | eret
  /-- HALT: to PC + 4, halted (Table 3.14). -/
  | halt
  deriving DecidableEq, Repr

/-- What the body of an instruction answers. -/
inductive BodyOut where
  /-- It has acted. -/
  | ok (s : State) (f : Flow)
  /-- It raises an exception and has no effect (R117): the cause, the value of BADADDR, and whether the second pip raised it. -/
  | exc (k : Cause) (bad : Option Word) (second : Bool)
  /-- It stands on a blocking port that is not ready (R115). -/
  | wait
  /-- Its access is held: the stack is under an in-stack copy (R218), or the Steward of an FE register is gone (R556). Nothing has happened yet. -/
  | held

/-- A body that changes only its core. -/
def pureBody (u : UnitId) (f : Core → Core) (s : State) : BodyOut := .ok (s.modCore u f) .seq

/-! ## The end check (R139) -/

/-- What the end check leaves: the fetch address of a loop-back, the levels still active, and the loop-backs made. -/
structure EndCheck where
  next : Option (BitVec 16)
  active : List LoopLevel
  deriving DecidableEq, Repr

/-- The end check of an instruction at `addrs` against the active levels, the innermost first (R139, R153). -/
def endCheck (addrs : List (BitVec 16)) (exl : Bool) : List LoopLevel → EndCheck
  | [] => ⟨none, []⟩
  | l :: ls =>
    if l.entryExl ≠ exl ∨ l.stop ∉ addrs then ⟨none, l :: ls⟩
    else if l.remaining - 1 ≠ 0 then ⟨some l.start, { l with remaining := l.remaining - 1 } :: ls⟩
    else endCheck addrs exl ls

/-- Run the end check on a core, counting a loop-back. -/
def Core.endCheck (c : Core) (addrs : List (BitVec 16)) : Core × Option (BitVec 16) :=
  let e := Machine.endCheck addrs c.exl c.loops.active
  let c := { c with loops.active := e.active, loops.repPend := false }
  (if e.next.isSome then c.count 0x0A 1 else c, e.next)

/-- Go on at an address. Bits [1:0] of PC are always zero. -/
def Core.setPc (c : Core) (a : BitVec 16) : Core := { c with regs.pc := a &&& 0xFFFC#16, regs.past := false }

/-- Go on after the instruction at `a`; past 0xFFFC the fetch address leaves I-space (R100, R156). -/
def Core.fallThrough (c : Core) (a : BitVec 16) : Core := { c with regs.pc := (a + 4) &&& 0xFFFC#16, regs.past := a == 0xFFFC#16 }

/-- Follow the answer of an end check, or fall through. -/
def Core.follow (p : Core × Option (BitVec 16)) (a : BitVec 16) : Core :=
  match p.2 with
  | some t => p.1.setPc t
  | none => p.1.fallThrough a

/-- Enter level D from its architected registers (R138); LOOP has written them first (R136). With C = 0 and
LE(D) = 0xFFFC the unit goes on at 0x0000 without FETCH_RANGE (DEDUCED, log entry 153). -/
def Core.enterLoop (c : Core) (pc : BitVec 16) (l : Option (Word × BitVec 16)) : Core :=
  if hd : c.loops.active.length < 4 then
    let d := c.loops.active.length
    let c := match l with
      | some (n, e) => { c with loops.ls := c.loops.ls.set d (pc + 4) hd, loops.le := c.loops.le.set d e hd,
                                loops.lc := c.loops.lc.set d n hd }
      | none => c
    if c.loops.lc[d] = 0 then c.setPc (c.loops.le[d] + 4)
    else
      ({ c with loops.active := { start := c.loops.ls[d], stop := c.loops.le[d], remaining := c.loops.lc[d],
                                  entryExl := c.exl } :: c.loops.active }).setPc c.loops.ls[d]
  else c

/-- The cycles a flow costs (Table 4.5): taken transfers by kind are charged by the caller. -/
def flowCost (jumpCost : Nat) : Flow → Nat
  | .seq => 1
  | .jump _ => jumpCost
  | .eret => 4
  | .enter (some (n, _)) => if n = 0 then 3 else 1
  | .enter none => 4
  | .lpop => 1
  | .halt => 1

/-- Complete an instruction that stands at `pc` and is checked at `addrs`: the end check, then the flow's own next fetch
(R139 to R143). HALT halts the core after it. The end check of an ERET compares EXL as it stands before the ERET clears it (DESIGN CHOICE, log
entry 152). -/
def Core.complete (c : Core) (pc : BitVec 16) (addrs : List (BitVec 16)) : Flow → Core
  | .seq => Core.follow (c.endCheck addrs) pc
  | .halt => Core.follow (c.endCheck addrs) pc
  | .jump t => ((c.endCheck addrs).1.count 0x09 1).setPc t
  | .eret => ((c.endCheck addrs).1.count 0x09 1).excReturn
  | .enter l => (c.endCheck addrs).1.enterLoop pc l
  | .lpop => Core.follow (Core.endCheck { c with loops.active := c.loops.active.tail } addrs) pc

/-! ## Cycle and slot accounting (R580, R582, Tables 22.2 and 22.3) -/

/-- How an instruction fills its two issue slots. -/
structure Slots where
  retire : Nat
  pipEmpty : Nat
  predOff : Nat
  deriving DecidableEq, Repr

/-- Charge the cycles of an instruction: its cost, its stalls on producers and on memory, and its issue slots. -/
def Core.charge (c : Core) (cost dep mem : Nat) (sl : Slots) : Core :=
  let cyc := cost + dep + mem
  let c := { c with cnt.cyc := c.cnt.cyc + BitVec.ofNat 64 cyc }
  let c := c.count 0x01 cyc
  let c := if c.ports.eng.toList.any (fun e => e.held.isSome) then c.count 0x11 cyc else c
  let c := c.count 0x20 sl.retire
  let c := c.count 0x21 sl.pipEmpty
  let c := c.count 0x22 sl.predOff
  let c := c.count 0x23 (2 * dep)
  let c := c.count 0x24 (2 * mem)
  c.count 0x26 (2 * (cost - 1))

/-- Charge an exception: six cycles of entry (Table 4.5). -/
def Core.chargeExc (c : Core) : Core :=
  let c := { c with cnt.cyc := c.cnt.cyc + 6 }
  (c.count 0x01 6).count 0x26 12

/-- Charge cycles spent in WAITING (R582). -/
def Core.chargeIo (c : Core) (n : Nat) : Core :=
  let c := { c with cnt.cyc := c.cnt.cyc + BitVec.ofNat 64 n }
  (c.count 0x01 n).count 0x25 (2 * n)

end Sys2Proof.Machine
end

