-- ==== Sys2Proof/Machine/Alu.lean ====
section
/-! DEFINITION. The bodies of the arithmetic, logical, accumulator, compare, control-register and control-transfer operations, and of the
register pips: what each does when it executes (spec/05 Tables 5.2, 5.5 and 5.6; spec/04 Table 4.1). -/

namespace Sys2Proof.Machine

/-- Write a signed result of 32 bits under the saturation bit, with its flag (R81). -/
def Core.putSat (c : Core) (d : BitVec 5) (sat : Bool) (v : Int) : Core :=
  (c.satFlag 32 sat v).setG d (BitVec.ofInt 32 (satValue 32 sat v))

/-- Add to an accumulator at 40 bits under the saturation bit, with its flag (R79). -/
def Core.putAccSat (c : Core) (a : BitVec 3) (sat : Bool) (v : Int) : Core :=
  (c.satFlag 40 sat v).setAcc a (BitVec.ofInt 40 (satValue 40 sat v))

/-- ADD. -/
def bodyAdd (f : FRR) (c : Core) : Core := c.putSat f.d f.sat ((c.getG f.a).toInt + (c.getG f.b).toInt)
/-- SUB. -/
def bodySub (f : FRR) (c : Core) : Core := c.putSat f.d f.sat ((c.getG f.a).toInt - (c.getG f.b).toInt)
/-- AND. -/
def bodyAnd (f : FRR) (c : Core) : Core := c.setG f.d (c.getG f.a &&& c.getG f.b)
/-- OR. -/
def bodyOr (f : FRR) (c : Core) : Core := c.setG f.d (c.getG f.a ||| c.getG f.b)
/-- XOR. -/
def bodyXor (f : FRR) (c : Core) : Core := c.setG f.d (c.getG f.a ^^^ c.getG f.b)
/-- SHL. -/
def bodyShl (f : FRR) (c : Core) : Core := c.putSat f.d f.sat ((c.getG f.a).toInt * 2 ^ ((c.getG f.b).toNat % 32))
/-- SHR. -/
def bodyShr (f : FRR) (c : Core) : Core := c.setG f.d (c.getG f.a >>> ((c.getG f.b).toNat % 32))
/-- SAR. -/
def bodySar (f : FRR) (c : Core) : Core := c.setG f.d ((c.getG f.a).sshiftRight ((c.getG f.b).toNat % 32))
/-- MIN. -/
def bodyMin (f : FRR) (c : Core) : Core :=
  c.setG f.d (if (c.getG f.a).toInt ≤ (c.getG f.b).toInt then c.getG f.a else c.getG f.b)
/-- MAX. -/
def bodyMax (f : FRR) (c : Core) : Core :=
  c.setG f.d (if (c.getG f.a).toInt ≤ (c.getG f.b).toInt then c.getG f.b else c.getG f.a)
/-- MINU. -/
def bodyMinu (f : FRR) (c : Core) : Core :=
  c.setG f.d (if (c.getG f.a).toNat ≤ (c.getG f.b).toNat then c.getG f.a else c.getG f.b)
/-- MAXU. -/
def bodyMaxu (f : FRR) (c : Core) : Core :=
  c.setG f.d (if (c.getG f.a).toNat ≤ (c.getG f.b).toNat then c.getG f.b else c.getG f.a)
/-- MUL (R167). -/
def bodyMul (f : FRR) (c : Core) : Core := c.putSat f.d f.sat ((c.getG f.a).toInt * (c.getG f.b).toInt)
/-- MULH. -/
def bodyMulh (f : FRR) (c : Core) : Core := c.setG f.d (BitVec.ofInt 32 ((c.getG f.a).toInt * (c.getG f.b).toInt / 2 ^ 32))
/-- MULHU. -/
def bodyMulhu (f : FRR) (c : Core) : Core := c.setG f.d (BitVec.ofNat 32 ((c.getG f.a).toNat * (c.getG f.b).toNat / 2 ^ 32))
/-- FMUL (R168, R169). -/
def bodyFmul (f : FRR) (c : Core) : Core :=
  (c.drawn f.rm.toNat).putSat f.d f.sat (c.mulRound f.rm.toNat (c.getG f.a) (c.getG f.b))
/-- ESADD at 32 bits: wraps whatever SAT says; an overflow is a check failure (R82, R170). -/
def bodyEsadd (f : FRR) (c : Core) : Core :=
  let e := esAdd 32 (c.getG f.a).toInt (c.getG f.b).toInt
  (c.flagIf 2 e.2).setG f.d (BitVec.ofInt 32 e.1)
/-- ESADD.D at 64 bits (R170). -/
def bodyEsaddD (f : FRR) (c : Core) : Core :=
  let e := esAdd 64 (c.getG2 f.a).toInt (c.getG2 f.b).toInt
  (c.flagIf 2 e.2).setG2 f.d (BitVec.ofInt 64 e.1)
/-- SEL. -/
def bodySel (f : FRS) (c : Core) : Core := c.setG f.d (if c.getP f.ps then c.getG f.a else c.getG f.b)
/-- ADDI. -/
def bodyAddi (f : FRI) (c : Core) : Core := c.putSat f.d f.sat ((c.getG f.a).toInt + (imm10 f.imm).toInt)
/-- ANDI. -/
def bodyAndi (f : FRI) (c : Core) : Core := c.setG f.d (c.getG f.a &&& imm10 f.imm)
/-- ORI. -/
def bodyOri (f : FRI) (c : Core) : Core := c.setG f.d (c.getG f.a ||| imm10 f.imm)
/-- XORI. -/
def bodyXori (f : FRI) (c : Core) : Core := c.setG f.d (c.getG f.a ^^^ imm10 f.imm)
/-- MOVI. -/
def bodyMovi (f : FI16) (c : Core) : Core := c.setG f.d (imm16 f.imm)
/-- MOVHI. -/
def bodyMovhi (f : FI16) (c : Core) : Core := c.setG f.d (f.imm ++ ((c.getG f.d).truncate 16 : BitVec 16))
/-- CMP (R172). -/
def bodyCmp (f : FPC) (c : Core) : Core := c.setP f.pd (condHolds f.cond (c.getG f.a) (c.getG f.b))
/-- CMPI (R172). -/
def bodyCmpi (f : FPCI) (c : Core) : Core := c.setP f.pd (condHolds f.cond (c.getG f.a) (imm10 f.imm))
/-- MAC (R78, R79). -/
def bodyMac (f : FAC) (c : Core) : Core :=
  (c.drawn f.rm.toNat).putAccSat f.acc f.sat ((c.getAcc f.acc).toInt + c.mulRound f.rm.toNat (c.getG f.a) (c.getG f.b))
/-- MSU. -/
def bodyMsu (f : FAC) (c : Core) : Core :=
  (c.drawn f.rm.toNat).putAccSat f.acc f.sat ((c.getAcc f.acc).toInt - c.mulRound f.rm.toNat (c.getG f.a) (c.getG f.b))
/-- EXT (R80, R169). -/
def bodyExt (f : FEX) (c : Core) : Core :=
  (c.drawn f.rm.toNat).putSat f.d f.sat (roundShift f.rm.toNat c.drawVal (c.getAcc f.acc).toInt f.sh.toNat)
/-- ACCSET. -/
def bodyAccset (f : FAR) (c : Core) : Core := c.setAcc f.acc ((c.getG f.a).signExtend 40)
/-- ACCCLR. -/
def bodyAccclr (f : FAR) (c : Core) : Core := c.setAcc f.acc 0
/-- ACCADD. -/
def bodyAccadd (f : FAA) (c : Core) : Core := c.putAccSat f.acc f.sat ((c.getAcc f.acc).toInt + (c.getAcc f.accs).toInt)
/-- MFC (R95). -/
def bodyMfc (f : FCR) (c : Core) : Core := c.setG f.t (c.getCr f.c.toNat)

/-- The device's part of an exact-sum overflow: OVF_SEEN, OVF_COUNT and the report (R56, R120). -/
def State.esOverflow (s : State) (u : UnitId) (unit : Nat) : State :=
  (((s.setFld (R.esuOvf (dieOf u)) 1).incFld (R.esuOvfCount (dieOf u)))).report 0x01 unit 0

/-- ESADD with its reports. -/
def esaddOut (u : UnitId) (ovf : Bool) (f : Core → Core) (s : State) : BodyOut :=
  let t := s.modCore u f
  .ok (if ovf then t.esOverflow u (s.unitCode u) else t) .seq

/-- The overflow of an ESADD. -/
def esaddOvf (f : FRR) (c : Core) : Bool := (esAdd 32 (c.getG f.a).toInt (c.getG f.b).toInt).2
/-- The overflow of an ESADD.D. -/
def esaddDOvf (f : FRR) (c : Core) : Bool := (esAdd 64 (c.getG2 f.a).toInt (c.getG2 f.b).toInt).2

/-- MTC: a reserved DEF_RM code is ILLEGAL when it executes (R84); a register the core may only read is left unchanged (R95). -/
def bodyMtc (f : FCR) (u : UnitId) (s : State) : BodyOut :=
  let v := (s.core u).getG f.t
  if f.c = 1 ∧ badDefRm v then .exc .illegal none false else .ok (s.modCore u fun c => c.setCr f.c.toNat v) .seq

/-! ## Control transfer (Table 4.1) -/

/-- Write the return address (PC + 4) mod 2^16 to g31. -/
def Core.link (c : Core) : Core := c.setG 31 ((c.regs.pc + 4).zeroExtend 32)

/-- BR. -/
def bodyBr (f : FB) (u : UnitId) (s : State) : BodyOut := .ok s (.jump (branchTarget (s.core u).regs.pc f.off))
/-- CALL. -/
def bodyCall (f : FB) (u : UnitId) (s : State) : BodyOut :=
  .ok (s.modCore u Core.link) (.jump (branchTarget (s.core u).regs.pc f.off))
/-- JMP. -/
def bodyJmp (f : FJ) (u : UnitId) (s : State) : BodyOut := .ok s (.jump (regTarget ((s.core u).getG f.a)))
/-- CALLR: the target is read before the return address is written (R132). -/
def bodyCallr (f : FJ) (u : UnitId) (s : State) : BodyOut :=
  .ok (s.modCore u Core.link) (.jump (regTarget ((s.core u).getG f.a)))
/-- RET. -/
def bodyRet (u : UnitId) (s : State) : BodyOut := .ok s (.jump (regTarget ((s.core u).getG 31)))
/-- ERET. -/
def bodyEret (s : State) : BodyOut := .ok s .eret
/-- HALT. -/
def bodyHalt (s : State) : BodyOut := .ok s .halt
/-- BREAK. -/
def bodyBreak : BodyOut := .exc .brk none false
/-- LOOP: LOOP_DEPTH on D as it stands before the instruction (R137, R141). -/
def bodyLoop (f : FL) (u : UnitId) (s : State) : BodyOut :=
  let c := s.core u
  if c.loops.active.length < 4 then .ok s (.enter (some (c.getG f.a, BitVec.ofNat 16 (loopEnd c.regs.pc f.eoff))))
  else .exc .loopDepth none false
/-- LOOPX. -/
def bodyLoopx (u : UnitId) (s : State) : BodyOut :=
  if (s.core u).loops.active.length < 4 then .ok s (.enter none) else .exc .loopDepth none false
/-- LPOP. -/
def bodyLpop (s : State) : BodyOut := .ok s .lpop

/-! ## Pips that do not reach memory (Tables 5.5 and 5.6) -/

/-- PLOG: pPD ← pPD op (pPS XOR N), operands read from `old`. -/
def plog (q : Pip) (old : Core) (c : Core) : Core :=
  let x := (q.d ++ q.s : BitVec 10)
  let pd : BitVec 3 := (x >>> 5).truncate 3
  let src := xor (old.getP (x.truncate 3)) (x.getLsbD 4)
  let d := old.getP pd
  let v := match ((x >>> 8).truncate 2 : BitVec 2).toNat with
    | 0 => d && src
    | 1 => d || src
    | 2 => xor d src
    | _ => src
  c.setP pd v

/-- The immediate of a pip: S as a signed value. -/
def pipImm (q : Pip) : Word := q.s.signExtend 32

/-- One register pip: operands read from `old`, the result written to `c` (R92). -/
def pipAlu (q : Pip) (old c : Core) : Core :=
  let a := old.getG q.d
  let b := old.getG q.s
  match q.op.toNat with
  | 0x1 => c.setG q.d b
  | 0x2 => c.putSat q.d old.defSat (a.toInt + b.toInt)
  | 0x3 => c.putSat q.d old.defSat (a.toInt - b.toInt)
  | 0x4 => c.setG q.d (a &&& b)
  | 0x5 => c.setG q.d (a ||| b)
  | 0x6 => c.setG q.d (a ^^^ b)
  | 0x7 => c.putSat q.d old.defSat (a.toInt + (pipImm q).toInt)
  | 0x8 => c.putSat q.d old.defSat (a.toInt * 2 ^ q.s.toNat)
  | 0x9 => c.setG q.d (a >>> q.s.toNat)
  | 0xA => c.setG q.d (a.sshiftRight q.s.toNat)
  | 0xB => c.setG q.d (pipImm q)
  | 0xC => let e := esAdd 32 a.toInt b.toInt; (c.flagIf 2 e.2).setG q.d (BitVec.ofInt 32 e.1)
  | 0xD => plog q old c
  | _ => c

/-- A pip's exact-sum add overflows. -/
def pipOvf (q : Pip) (old : Core) : Bool :=
  q.op == 0xC && (esAdd 32 (old.getG q.d).toInt (old.getG q.s).toInt).2

end Sys2Proof.Machine
end

