-- ==== Sys2Proof/Machine/Io.lean ====
section
/-! DEFINITION. The IO ports of compute cores and Stewards, and the bodies of IN and OUT (spec/05 R183 to R189, Tables 5.8 and 5.9;
spec/20 Table 20.3; spec/03 R112 to R115). -/

namespace Sys2Proof.Machine

/-- What an IN finds at a port. -/
inductive IoIn where
  | got (s : State) (v : Word)
  | notReady
  | bad

/-- What an OUT finds at a port. -/
inductive IoOut where
  | done (s : State)
  | notReady
  | bad

/-! ## Command and completion queues (R185) -/

/-- The length in words a command's first word gives; an illegal length is taken as one word (R202, R210). -/
def cmdLen (w : Word) (lenBits maxLen : Nat) : Nat :=
  let n := bits w.toNat 0 lenBits
  if n = 0 ∨ maxLen < n then 1 else n

/-- Push a word; the last word of a command commits it. -/
def EngineQ.push (q : EngineQ) (w : Word) (lenBits maxLen : Nat) : EngineQ :=
  let cmd := q.cmd ++ [w]
  let open_ := cmd.drop q.committed
  match open_ with
  | [] => { q with cmd := cmd }
  | h :: _ => { q with cmd := cmd, committed := if cmdLen h lenBits maxLen ≤ open_.length then cmd.length else q.committed }

/-- Pop a completion word; a completion held for room enters (log entry 20). -/
def EngineQ.pop (q : EngineQ) : Option (Word × EngineQ) :=
  match q.cpl with
  | [] => none
  | w :: ws => some (w, { q with cpl := ws ++ q.held.toList, held := none })

/-- DISCARD drops the uncommitted words (R185). Bits other than bit 0 are ignored (DESIGN CHOICE, log entry 152). -/
def EngineQ.discard (q : EngineQ) (w : Word) : EngineQ := if w.getLsbD 0 then { q with cmd := q.cmd.take q.committed } else q

/-- The front committed command of a queue that holds no finished command, and the queue after it is taken. -/
def EngineQ.take (q : EngineQ) (lenBits maxLen : Nat) : Option (List Word × EngineQ) :=
  match q.held, q.cmd with
  | none, h :: _ =>
    let n := cmdLen h lenBits maxLen
    if n ≤ q.committed then some (q.cmd.take n, { q with cmd := q.cmd.drop n, committed := q.committed - n }) else none
  | _, _ => none

/-- Post a completion word; with the queue full it is held, and the engine stays BUSY (log entry 20). -/
def EngineQ.post (q : EngineQ) (w : Word) (cap : Nat) : EngineQ :=
  if q.cpl.length < cap then { q with cpl := q.cpl ++ [w] } else { q with held := some w }

/-- A completion word reports an error: STATUS other than OK, or CHK (R201). -/
def cplError (w : Word) : Bool := bits w.toNat 8 4 != 0 || w.getLsbD 12

/-- ESTAT (Table 5.9). -/
def EngineQ.estat (q : EngineQ) : Word :=
  BitVec.ofNat 32 ((64 - q.cmd.length) + q.cpl.length * 2 ^ 8 + b2n q.held.isSome * 2 ^ 16 +
    b2n ((q.cpl ++ q.held.toList).any cplError) * 2 ^ 17)

/-- DSTAT (Table 5.9). -/
def EngineQ.dstat (q : EngineQ) : Word :=
  BitVec.ofNat 32 ((32 - q.cmd.length) + q.cpl.length * 2 ^ 8 + b2n q.held.isSome * 2 ^ 16)

/-- An engine of a core. -/
def Core.eng (c : Core) (e : Fin 4) : EngineQ := c.ports.eng[e]
/-- Replace an engine's queues. -/
def Core.setEng (c : Core) (e : Fin 4) (q : EngineQ) : Core := { c with ports.eng := c.ports.eng.set e.val q }

/-! ## Status words -/

/-- A bit per index below 8. -/
def mask8 (p : Nat → Bool) : Nat := ((List.range 8).map fun n => b2n (p n) * 2 ^ n).sum

/-- The words core `u` holds from logical core `n` of its Bunch. -/
def State.peerQ (s : State) (u : UnitId) (n : Nat) : List Word := ((s.core u).ports.peerRx.toList)[n % 8]?.getD []

/-- MB_STAT (Table 5.9). -/
def State.mbStat (s : State) (u : UnitId) : Word :=
  let c := s.core u
  BitVec.ofNat 32 ((8 - c.ports.mbTx.length) + c.ports.mbRx.length * 2 ^ 4 +
    mask8 (fun n => !(s.peerQ u n).isEmpty) * 2 ^ 8 +
    mask8 (fun n => decide (4 ≤ (s.peerQ (peerUnit u n) (u.val % 8)).length)) * 2 ^ 16)

/-- The words Steward `n` holds from Steward `m`. -/
def State.smbQ (s : State) (n m : Nat) : List Word := ((s.core (stewardUnit n)).ports.smbRx.toList)[m % 8]?.getD []

/-- SMB_STAT (Table 20.3). -/
def State.smbStat (s : State) (u : UnitId) : Word :=
  let me := u.val - 256
  BitVec.ofNat 32 (mask8 (fun n => !(s.smbQ me n).isEmpty) + mask8 (fun n => decide (16 ≤ (s.smbQ n me).length)) * 2 ^ 8)

/-- No Beat Table is running: BT_SLOT.NOSCHED. -/
def State.nosched (s : State) : Bool := s.beat.running.isNone

/-- BT_SLOT (Table 5.9). -/
def State.btSlot (s : State) : Word := if s.nosched then 0x80000000#32 else BitVec.ofNat 32 (s.beat.slot % 65536)
/-- BT_SEASON (Table 5.8). -/
def State.btSeason (s : State) : Word := if s.nosched then 0 else BitVec.ofNat 32 s.beat.season

/-- A BT_WAIT is ready: its armed target has started, and a table with that slot runs (R187). -/
def State.btReady (s : State) (c : Core) : Option Word :=
  match c.cnt.arm, c.cnt.armAt, s.beat.running with
  | some target, some v, some im => if target.toNat < im.slots then some v else none
  | _, _, _ => none

/-! ## Ports -/

/-- A die's copy of fabric time. Die 1's follows die 0's to within 0.5 ns, so its count of whole ns differs by at most 1, and it never goes back
(R231; log entry 163). -/
def State.dieNow (s : State) (die : Nat) : State × Nat :=
  if die = 0 then (s, s.time.now)
  else
    let v := max s.time.now1 (s.time.now - 1 + Config.choice s.fresh % 3)
    ({ s with time.now1 := v }.tick, v)

/-- IN from a port of Table 5.8 that compute cores and Stewards share. -/
def State.inShared (s : State) (u : UnitId) (p : Nat) : IoIn :=
  let c := s.core u
  if p = 0x0401 then
    match c.ports.dma.pop with
    | some (w, q) => .got (s.setCore u { c with ports.dma := q }) w
    | none => .notReady
  else if p = 0x0402 then .got s c.ports.dma.dstat
  else if h : 0x0600 ≤ p ∧ p < 0x0608 then .got s (c.cnt.cnt[p - 0x0600]'(by omega))
  else if h : 0x0610 ≤ p ∧ p < 0x0618 then .got s (c.cnt.sel[p - 0x0610]'(by omega))
  else if p = 0x0620 then .got s (c.cnt.ovf.zeroExtend 32)
  else if p = 0x0621 then
    .got (s.setCore u { c with cnt.cycHi := (c.cnt.cyc >>> 32).truncate 32 }) (c.cnt.cyc.truncate 32)
  else if p = 0x0622 then .got s c.cnt.cycHi
  else if p = 0x0700 then
    let r := s.dieNow (dieOf u)
    .got (r.1.setCore u { c with cnt.btHi := BitVec.ofNat 32 (r.2 / 2 ^ 32) }) (BitVec.ofNat 32 r.2)
  else if p = 0x0701 then .got s c.cnt.btHi
  else if p = 0x0702 then .got s s.btSlot
  else if p = 0x0703 then .got s s.btSeason
  else if p = 0x0705 then
    match s.btReady c with
    | some v => .got (s.setCore u { c with cnt.arm := none, cnt.armAt := none }) v
    | none => .notReady
  else .bad

/-- OUT to a port of Table 5.8 that compute cores and Stewards share. BT_ARM keeps bits [15:0] and ignores the others (DESIGN CHOICE, log entry
152). -/
def State.outShared (s : State) (u : UnitId) (p : Nat) (w : Word) : IoOut :=
  let c := s.core u
  if p = 0x0400 then
    if c.ports.dma.cmd.length < 32 then .done (s.setCore u { c with ports.dma := c.ports.dma.push w 4 8 }) else .notReady
  else if p = 0x0403 then .done (s.setCore u { c with ports.dma := c.ports.dma.discard w })
  else if h : 0x0600 ≤ p ∧ p < 0x0608 then
    .done (s.setCore u { c with cnt.cnt := c.cnt.cnt.set (p - 0x0600) w (by omega) })
  else if h : 0x0610 ≤ p ∧ p < 0x0618 then
    let v := w &&& (if (p - 0x0610) % 2 = 1 then 0x3FF#32 else 0x2FF#32)
    .done (s.setCore u { c with cnt.sel := c.cnt.sel.set (p - 0x0610) v (by omega) })
  else if p = 0x0620 then .done (s.setCore u { c with cnt.ovf := c.cnt.ovf &&& ~~~(w.truncate 8) })
  else if p = 0x0704 then .done (s.setCore u { c with cnt.arm := some (w.truncate 16), cnt.armAt := none })
  else .bad

/-- IN from a port of a compute core (Table 5.8). -/
def State.inCompute (s : State) (u : UnitId) (p : Nat) : IoIn :=
  let c := s.core u
  if h : p < 0x0400 then
    let e : Fin 4 := ⟨p / 256, by omega⟩
    if p % 256 = 1 then
      match (c.eng e).pop with
      | some (w, q) => .got (s.setCore u (c.setEng e q)) w
      | none => .notReady
    else if p % 256 = 2 then .got s (c.eng e).estat
    else .bad
  else if p = 0x0501 then
    match c.ports.mbRx with
    | w :: ws => .got (s.setCore u { c with ports.mbRx := ws }) w
    | [] => .notReady
  else if p = 0x0502 then .got s (s.mbStat u)
  else if h : 0x0520 ≤ p ∧ p < 0x0528 then
    match c.ports.peerRx[p - 0x0520]'(by omega) with
    | w :: ws => .got (s.setCore u { c with ports.peerRx := c.ports.peerRx.set (p - 0x0520) ws (by omega) }) w
    | [] => .notReady
  else s.inShared u p

/-- OUT to a port of a compute core (Table 5.8). -/
def State.outCompute (s : State) (u : UnitId) (p : Nat) (w : Word) : IoOut :=
  let c := s.core u
  if h : p < 0x0400 then
    let e : Fin 4 := ⟨p / 256, by omega⟩
    if p % 256 = 0 then
      if (c.eng e).cmd.length < 64 then .done (s.setCore u (c.setEng e ((c.eng e).push w 5 16))) else .notReady
    else if p % 256 = 3 then .done (s.setCore u (c.setEng e ((c.eng e).discard w)))
    else .bad
  else if p = 0x0500 then
    if c.ports.mbTx.length < 8 then .done ((s.setCore u { c with ports.mbTx := c.ports.mbTx ++ [w] }).drainMbTx u 8) else .notReady
  else if 0x0510 ≤ p ∧ p < 0x0518 then
    let t := peerUnit u (p - 0x0510)
    if (s.peerQ t (u.val % 8)).length < 4 then
      .done (s.modCore t fun d => { d with ports.peerRx := d.ports.peerRx.set (u.val % 8) (s.peerQ t (u.val % 8) ++ [w]) (by omega) })
    else .notReady
  else s.outShared u p w

/-- Move one waiting MB_TX word of a core this Steward owns into the queue; which core's is not ordered (log entry 21). -/
def State.refillCmsg (s : State) (u : UnitId) : State :=
  let waiting := (List.finRange 256).filter fun n =>
    let c := s.core ⟨n.val, by omega⟩
    c.run.haltMsg.isNone && !c.ports.mbTx.isEmpty && c.ownerUnit == u
  match s.pick waiting with
  | some n => (s.tick).drainMbTx ⟨n.val, by omega⟩ 1
  | none => s

/-- IN from a port of a Steward (Tables 5.8 and 20.3). -/
def State.inSteward (s : State) (u : UnitId) (p : Nat) : IoIn :=
  let c := s.core u
  if h : 0x0510 ≤ p ∧ p < 0x0518 then
    match c.ports.smbRx[p - 0x0510]'(by omega) with
    | w :: ws => .got (s.setCore u { c with ports.smbRx := c.ports.smbRx.set (p - 0x0510) ws (by omega) }) w
    | [] => .notReady
  else if p = 0x0520 then .got s (s.smbStat u)
  else if p = 0x0530 then
    match c.ports.cmsg with
    | w :: ws => .got ((s.setCore u { c with ports.cmsg := ws }).refillCmsg u) w
    | [] => .notReady
  else if p = 0x0531 then .got s (BitVec.ofNat 32 c.ports.cmsg.length)
  else if p < 0x0400 ∨ (0x0500 ≤ p ∧ p < 0x0600) then .bad
  else s.inShared u p

/-- OUT to a port of a Steward (Tables 5.8 and 20.3). -/
def State.outSteward (s : State) (u : UnitId) (p : Nat) (w : Word) : IoOut :=
  let c := s.core u
  if 0x0500 ≤ p ∧ p < 0x0508 then
    let t := stewardUnit (p - 0x0500)
    if (s.smbQ (p - 0x0500) (u.val - 256)).length < 16 then
      let q := s.smbQ (p - 0x0500) (u.val - 256) ++ [w]
      .done (s.modCore t fun d => { d with ports.smbRx := d.ports.smbRx.set (u.val % 8) q (by omega) })
    else .notReady
  else if p = 0x0532 then .done (s.setCore u { c with ports.ctxSel := w.truncate 8 })
  else if p = 0x0533 then
    let t : UnitId := ⟨c.ports.ctxSel.toNat, by have := c.ports.ctxSel.isLt; omega⟩
    if (s.core t).ports.mbRx.length < 8 then
      .done (s.modCore t fun d => { d with ports.mbRx := d.ports.mbRx ++ [w] })
    else .notReady
  else if p < 0x0400 ∨ (0x0500 ≤ p ∧ p < 0x0600) then .bad
  else s.outShared u p w

/-- IN from a port. -/
def State.inPort (s : State) (u : UnitId) (p : Nat) : IoIn := if isSteward u then s.inSteward u p else s.inCompute u p
/-- OUT to a port. -/
def State.outPort (s : State) (u : UnitId) (p : Nat) (w : Word) : IoOut :=
  if isSteward u then s.outSteward u p w else s.outCompute u p w

/-- IN. -/
def bodyIn (f : FIO) (u : UnitId) (s : State) : BodyOut :=
  match s.inPort u f.port.toNat with
  | .got t v => .ok (t.modCore u fun c => c.setG f.t v) .seq
  | .notReady => .wait
  | .bad => .exc .ioPort (some (f.port.zeroExtend 32)) false

/-- OUT. -/
def bodyOut (f : FIO) (u : UnitId) (s : State) : BodyOut :=
  match s.outPort u f.port.toNat ((s.core u).getG f.t) with
  | .done t => .ok t .seq
  | .notReady => .wait
  | .bad => .exc .ioPort (some (f.port.zeroExtend 32)) false

end Sys2Proof.Machine
end

