-- ==== Sys2Proof/Machine/Engine.lean ====
section
/-! DEFINITION. The engines: the checks of a command, its execution in chunks, and its completion word (spec/06 R190 to R202; spec/02 R45
to R71). A command row takes the front committed command of the engine's queue when its OP is the row's, or when the command is refused
before its OP decides (R202). -/

namespace Sys2Proof.Machine

/-! ## ES segment descriptors (Tables 2.6, R70, R71) -/

/-- The descriptor 24 bytes spell. -/
def parseSeg (b : List Byte) : SegDesc :=
  let n := leNat b
  { verMajor := bits n 0 8, fmt := bits n 16 3, blk := bits n 19 2, rm := bits n 24 3, rrm := bits n 27 3, satr := bitAt n 30,
    frac := bits n 32 6, guard := bits n 40 6, infmt := bits n 56 4, outfmt := bits n 60 4, blocks := bits n 64 32,
    stream := bits n 96 32, indexBase := bits n 128 64 }

/-- The block length in elements. -/
def SegDesc.blockLen (d : SegDesc) : Nat := 32 * 2 ^ d.blk

/-- Why a descriptor is rejected, as a REASON of Table 18.11; none when it is accepted (R70). -/
def SegDesc.reject (d : SegDesc) : Option Nat :=
  if d.verMajor ≠ 1 then some 3
  else if 5 ≤ d.fmt ∨ 5 ≤ d.rm ∨ 5 ≤ d.rrm ∨ 5 ≤ d.infmt ∨ 5 ≤ d.outfmt then some 1
  else if d.frac = 0 ∨ d.guard = 0 ∨ 62 < d.frac ∨ (esWidth d.fmt).getD 0 < 1 + d.guard + d.frac ∨ d.blocks = 0 ∨
    d.stream = 0xFFFFFFFF then some 5
  else none

/-! ## Operands (R191) -/

/-- The window of an engine operand that lies wholly in it: ADDR and then ALIGN otherwise. -/
def operandStatus (a n : Nat) : Option Nat :=
  if (a < 0x40000 ∧ a + n ≤ 0x40000) ∨ (0x1000000 ≤ a ∧ a < 0x1400000 ∧ a + n ≤ 0x1400000) then
    (if a % 8 ≠ 0 then some 5 else none)
  else some 4

/-- The place of an address in one of the two windows. -/
def winPlace (a : Nat) : Place := if a < 0x1000000 then .lmem a else .bmem (a - 0x1000000)

/-- Read `n` bytes of a window. -/
def State.winBytes (s : State) (u : UnitId) (a n : Nat) : List Byte :=
  match s.ramAt u (winPlace a) with
  | some (r, _, o) => r.bytes.bytes o n
  | none => []

/-- A window read of `n` bytes is uncorrectable. -/
def State.winBad (s : State) (u : UnitId) (a n : Nat) : Bool :=
  match s.ramAt u (winPlace a) with
  | some (r, w, o) => r.anyBad w o n
  | none => true

/-- A window write of `n` bytes fails its read-merge (R228). -/
def State.winMergeFails (s : State) (u : UnitId) (a n : Nat) : Bool :=
  match s.ramAt u (winPlace a) with
  | some (r, w, o) => r.mergeFails w o n
  | none => true

/-- Write bytes in a window. -/
def State.winPut (s : State) (u : UnitId) (a : Nat) (l : List Byte) : State :=
  match s.ramAt u (winPlace a) with
  | some _ => s.putAt u l (winPlace a)
  | none => s

/-! ## Commands -/

/-- What an element's computation gives: the value written, and what it reports. -/
structure ElemOut where
  val : Int
  nf : Bool
  sat : Bool
  ovf : Bool
  deriving DecidableEq, Repr

/-- A checked command ready to run: elements, lanes, what each element reads (address and width), where it writes, and what it
computes from the unsigned values read. -/
structure Plan where
  n : Nat
  lanes : Nat
  reads : Nat → List (Nat × Nat)
  /-- Elements of a block, all of which use one value read at the block's first element and held; 0 where there is none (R198). -/
  blk : Nat
  /-- Where the value of the block that begins at an element stands; `f` takes it in front of what its element reads. -/
  headAt : Nat → Nat × Nat
  /-- Element i is written at dst + i × width. -/
  dst : Nat
  width : Nat
  f : Nat → List Nat → ElemOut
  /-- The descriptor copy that takes NF, SAT and OVF (R71, R196). -/
  desc : Option Nat
  /-- OVF of an element is an exact-sum overflow (R56). -/
  esOvf : Bool

/-- What a command's run has reported so far. -/
structure RunFlags where
  ecc : Bool
  nf : Bool
  sat : Bool
  ovfs : Nat
  deriving DecidableEq, Repr

/-- What a chunk reads: the value of a block that begins with it, and what its elements read. -/
def Plan.chunkReads (p : Plan) (i : Nat) (idx : List Nat) : List (Nat × Nat) :=
  (if p.blk ≠ 0 ∧ i % p.blk = 0 then [p.headAt i] else []) ++ idx.flatMap p.reads

/-- Report what a chunk's reads and the read-merges of its write meet. -/
def State.chunkSeen (s : State) (u : UnitId) (reads : List (Nat × Nat)) (dst n : Nat) : State :=
  s.eccReads u (reads.map (fun x => (winPlace x.1, x.2)) ++ s.mergeEdges u (winPlace dst, n))

/-- Run a command chunk by chunk: all inputs of a chunk are read before any output of it is written (R197); an uncorrectable read or
read-merge ends it with the earlier chunks written (Table 6.4). -/
def runChunks (u : UnitId) (p : Plan) : Nat → Nat → Nat → RunFlags → State → State × RunFlags
  | 0, _, _, fl, s => (s, fl)
  | k + 1, i, head, fl, s =>
    let idx := (List.range (min p.lanes (p.n - i))).map (i + ·)
    let reads := p.chunkReads i idx
    let dst := p.dst + i * p.width
    let n := idx.length * p.width
    let t := s.chunkSeen u reads dst n
    if reads.any (fun q => s.winBad u q.1 q.2) || s.winMergeFails u dst n then (t, { fl with ecc := true })
    else
      let head := if p.blk ≠ 0 ∧ i % p.blk = 0 then leNat (s.winBytes u (p.headAt i).1 (p.headAt i).2) else head
      let pre := if p.blk = 0 then [] else [head]
      let outs := idx.map fun j => p.f j (pre ++ (p.reads j).map fun q => leNat (s.winBytes u q.1 q.2))
      runChunks u p k (i + p.lanes) head
        { fl with nf := fl.nf || outs.any (·.nf), sat := fl.sat || outs.any (·.sat), ovfs := fl.ovfs + (outs.filter (·.ovf)).length }
        (t.winPut u dst (outs.flatMap fun e => natLe p.width (e.val % 2 ^ (8 * p.width)).toNat))

/-- Word `i` of a command. -/
def wordAt (ws : List Word) (i : Nat) : Nat := (ws[i]?.getD 0).toNat

/-- The LEN of an engine operation (Table 6.2). -/
def engLen (op : Nat) : Option Nat :=
  if op = 1 ∨ op = 2 then some 10 else if op = 3 then some 9 else if op = 4 ∨ op = 5 then some 6 else if op = 6 then some 5
  else if op = 7 then some 13 else none

/-- BAD_FIELD of an engine command (Tables 6.1 and 6.4). -/
def engBadField (ws : List Word) (op : Nat) : Bool :=
  let w0 := wordAt ws 0
  bits w0 5 3 ≠ 0 || bits w0 29 3 ≠ 0 ||
  (bitAt w0 24 && op ≠ 3 && op ≠ 7) || (bits w0 25 3 ≠ 0 && op ≠ 7) || (bitAt w0 28 && op ≠ 7) ||
  (op = 7 && (5 ≤ bits w0 25 3 || 2 ≤ wordAt ws 6))

/-- The first failing status among descriptor operands: ADDR and then ALIGN, in word order (R202). -/
def descStatus (as : List Nat) : Option Nat := as.findSome? fun a => operandStatus a 24

/-- The first failing status among data operands with their extents, in word order (R202). -/
def dataStatus (as : List (Nat × Nat)) : Option Nat := as.findSome? fun q => operandStatus q.1 q.2

/-- A descriptor as it stands in memory. -/
def State.segAt (s : State) (u : UnitId) (a : Nat) : SegDesc := parseSeg (s.winBytes u a 24)

/-- Bytes of an ES element. -/
def esBytes (fmt : Nat) : Nat := (esWidth fmt).getD 8 / 8
/-- Bytes of a floating-point element. -/
def fpBytes (fmt : Nat) : Nat := match fpFmt fmt with | some f => f.bytes | none => 1
/-- Lanes of an ES format (Table 6.5). -/
def esLanes (fmt : Nat) : Nat := if fmt ≤ 2 then 16 else 8
/-- The signed value of an ES element read. -/
def esVal (fmt x : Nat) : Int := signed ((esWidth fmt).getD 64) x

/-- The draw of one element of a conversion (R195, Table 2.5). -/
def elemDraw (key idx stream step : Nat) : Nat := draw key (idx % 2 ^ 32) (idx / 2 ^ 32 % 2 ^ 32) stream step

/-- The agreed exponent read as a scout value. -/
def scoutVal (x : Nat) : Int := signed 16 x

/-- One element of CONV_FWD (R50, R51, R58 to R61, R661). A block whose agreed exponent is 0x7FFF sets no NF here: the reverse conversion, whose result
is the non-finite one, does (DESIGN CHOICE, log entry 169). -/
def fwdElem (d : SegDesc) (key step first : Nat) (i : Nat) (v : List Nat) : ElemOut :=
  let E := scoutVal (v[0]?.getD 0)
  if E = 32767 ∨ E = -32768 then ⟨0, false, false, false⟩
  else
    match fpFmt d.infmt with
    | some f =>
      let idx := d.indexBase + first * d.blockLen + i
      let r := convFwd f (v[1]?.getD 0) E d.frac d.rm (elemDraw key idx d.stream step)
      ⟨r.1, false, r.2, false⟩
    | none => ⟨0, false, false, false⟩

/-- One element of CONV_REV (R50, R51, R62 to R64). -/
def revElem (d : SegDesc) (key step first : Nat) (i : Nat) (v : List Nat) : ElemOut :=
  let E := scoutVal (v[0]?.getD 0)
  match fpFmt d.outfmt with
  | some f =>
    if E = 32767 then ⟨f.nan, true, false, false⟩
    else if E = -32768 then ⟨0, false, false, false⟩
    else
      let idx := d.indexBase + first * d.blockLen + i
      let r := convRev f (esVal d.fmt (v[1]?.getD 0)) (E + 1 - d.frac) d.rrm d.satr (elemDraw key idx 0xFFFFFFFF step)
      ⟨r.1, false, r.2, false⟩
  | none => ⟨0, false, false, false⟩

/-- One element of CONV_ES (R65, R195). -/
def cesElem (sd dd : SegDesc) (sat : Bool) (key step : Nat) (i : Nat) (v : List Nat) : ElemOut :=
  let r := convEs (esVal sd.fmt (v[0]?.getD 0)) sd.frac dd.frac ((esWidth dd.fmt).getD 64) dd.rm
    (elemDraw key (sd.indexBase + i) sd.stream step) sat
  ⟨r.1, false, r.2, false⟩

/-- One element of ESADD_V (R56, R196). -/
def addElem (d : SegDesc) (v : List Nat) : ElemOut :=
  let r := esAdd ((esWidth d.fmt).getD 64) (esVal d.fmt (v[0]?.getD 0)) (esVal d.fmt (v[1]?.getD 0))
  ⟨r.1, false, false, r.2⟩

/-- One element of MAC_V (R78, R79, R194, R195). -/
def macElem (w : Nat) (sat : Bool) (rm key idx c2 c3 : Nat) (i : Nat) (v : List Nat) : ElemOut :=
  let r := draw key ((idx + i) % 2 ^ 32) ((idx + i) / 2 ^ 32 % 2 ^ 32) c2 c3
  let x := signed w (v[2]?.getD 0) + roundShift rm r (signed w (v[0]?.getD 0) * signed w (v[1]?.getD 0)) (w - 1)
  if fits w x then ⟨x, false, false, false⟩ else ⟨satValue w sat x, false, sat, !sat⟩

/-- The 64-bit number two command words spell, the low word first. -/
def word64 (ws : List Word) (i : Nat) : Nat := wordAt ws i + wordAt ws (i + 1) * 2 ^ 32

/-- The check of descriptors' contents, as they stand in memory: a rejection gives DESC (R70; log entry 22). -/
def State.segCheck (s : State) (u : UnitId) (as : List Nat) : Option Nat :=
  if as.any (fun a => (s.segAt u a).reject.isSome) then some 6 else none
/-- An uncorrectable read of a descriptor ends a command that has passed every other check with ECC (R202). -/
def State.segEcc (s : State) (u : UnitId) (as : List Nat) : Option Nat := if as.any (fun a => s.winBad u a 24) then some 8 else none

/-- The first status of a list of checks that fails. -/
def firstStatus (l : List (Option Nat)) : Option Nat := l.findSome? id

/-- Check a command whose word 0 has passed, and prepare it (Table 6.2, R202): an error status, or the plan. -/
def State.prepare (s : State) (u : UnitId) (ws : List Word) (op : Nat) : Except Nat Plan :=
  let a := wordAt ws
  if op = 1 ∨ op = 2 then
    let d := s.segAt u (a 1)
    let n := a 6 * d.blockLen
    let iw := if op = 1 then fpBytes d.infmt else esBytes d.fmt
    let ow := if op = 1 then esBytes d.fmt else fpBytes d.outfmt
    let range := if a 6 = 0 ∨ d.blocks < a 5 + a 6 then some 7 else none
    match firstStatus [descStatus [a 1], s.segCheck u [a 1], range, dataStatus [(a 2, 2 * a 6), (a 3, n * iw), (a 4, n * ow)],
        s.segEcc u [a 1]] with
    | some st => .error st
    | none => .ok { n := n, lanes := esLanes d.fmt, reads := fun i => [(a 3 + i * iw, iw)], blk := d.blockLen,
                    headAt := fun i => (a 2 + 2 * (i / d.blockLen), 2), dst := a 4, width := ow,
                    f := if op = 1 then fwdElem d (word64 ws 7) (a 9) (a 5) else revElem d (word64 ws 7) (a 9) (a 5),
                    desc := some (a 1), esOvf := false }
  else if op = 3 then
    let sd := s.segAt u (a 1)
    let dd := s.segAt u (a 2)
    match firstStatus [descStatus [a 1, a 2], s.segCheck u [a 1, a 2], if a 5 = 0 then some 7 else none,
        dataStatus [(a 3, a 5 * esBytes sd.fmt), (a 4, a 5 * esBytes dd.fmt)], s.segEcc u [a 1, a 2]] with
    | some st => .error st
    | none => .ok { n := a 5, lanes := min (esLanes sd.fmt) (esLanes dd.fmt), reads := fun i => [(a 3 + i * esBytes sd.fmt, esBytes sd.fmt)],
                    blk := 0, headAt := fun _ => (0, 0), dst := a 4, width := esBytes dd.fmt,
                    f := cesElem sd dd (bitAt (a 0) 24) (word64 ws 6) (a 8), desc := some (a 2), esOvf := false }
  else if op = 4 then
    let d := s.segAt u (a 1)
    let w := esBytes d.fmt
    match firstStatus [descStatus [a 1], s.segCheck u [a 1], if a 5 = 0 then some 7 else none,
        dataStatus [(a 2, a 5 * w), (a 3, a 5 * w), (a 4, a 5 * w)], s.segEcc u [a 1]] with
    | some st => .error st
    | none => .ok { n := a 5, lanes := esLanes d.fmt, reads := fun i => [(a 2 + i * w, w), (a 3 + i * w, w)],
                    blk := 0, headAt := fun _ => (0, 0), dst := a 4, width := w, f := fun _ => addElem d, desc := some (a 1), esOvf := true }
  else if op = 5 then
    let d := s.segAt u (a 1)
    let w := fpBytes d.infmt
    match firstStatus [descStatus [a 1], s.segCheck u [a 1], if a 5 = 0 ∨ d.blocks < a 4 + a 5 then some 7 else none,
        dataStatus [(a 2, a 5 * d.blockLen * w), (a 3, 2 * a 5)], s.segEcc u [a 1]] with
    | some st => .error st
    | none => .ok { n := a 5, lanes := 1,
                    reads := fun i => (List.range d.blockLen).map fun j => (a 2 + (i * d.blockLen + j) * w, w),
                    blk := 0, headAt := fun _ => (0, 0), dst := a 3, width := 2,
                    f := fun _ v => match fpFmt d.infmt with | some f => ⟨scoutOf f v, false, false, false⟩ | none => ⟨0, false, false, false⟩,
                    desc := none, esOvf := false }
  else if op = 6 then
    match firstStatus [if a 4 = 0 then some 7 else none, dataStatus [(a 1, 2 * a 4), (a 2, 2 * a 4), (a 3, 2 * a 4)]] with
    | some st => .error st
    | none => .ok { n := a 4, lanes := 16, reads := fun i => [(a 1 + 2 * i, 2), (a 2 + 2 * i, 2)], blk := 0, headAt := fun _ => (0, 0), dst := a 3,
                    width := 2,
                    f := fun _ v => ⟨scoutMax (scoutVal (v[0]?.getD 0)) (scoutVal (v[1]?.getD 0)), false, false, false⟩,
                    desc := none, esOvf := false }
  else
    let w64 := bitAt (a 0) 28
    let w := if w64 then 8 else 4
    let scalar := a 6 % 2 = 1
    match firstStatus [if a 5 = 0 then some 7 else none,
        dataStatus [(a 1, a 5 * w), (a 2, if scalar then w else a 5 * w), (a 3, a 5 * w), (a 4, a 5 * w)]] with
    | some st => .error st
    | none => .ok { n := a 5, lanes := if w64 then 8 else 16,
                    reads := fun i => [(a 1 + i * w, w)] ++ (if scalar then [] else [(a 2 + i * w, w)]) ++ [(a 3 + i * w, w)],
                    blk := if scalar then a 5 else 0, headAt := fun _ => (a 2, w), dst := a 4, width := w,
                    f := fun i v => macElem (8 * w) (bitAt (a 0) 24) (bits (a 0) 25 3) (word64 ws 7) (word64 ws 9) (a 11) (a 12) i
                      (if scalar then [v[1]?.getD 0, v[0]?.getD 0, v[2]?.getD 0] else v),
                    desc := none, esOvf := false }

/-- The completion word of an engine (Table 6.3). -/
def engCpl (tag st : Nat) (chk nf sat ovf : Bool) : Word :=
  BitVec.ofNat 32 (tag + st * 2 ^ 8 + b2n chk * 2 ^ 12 + b2n nf * 2 ^ 13 + b2n sat * 2 ^ 14 + b2n ovf * 2 ^ 15)

/-- Set NF, SAT and OVF in a descriptor copy, never clearing them (R71). -/
def State.markDesc (s : State) (u : UnitId) (desc : Option Nat) (nf sat ovf : Bool) : State :=
  match desc with
  | some a =>
    if nf || sat || ovf then
      let b := (s.winBytes u (a + 6) 1).headD 0
      s.winPut u (a + 6) [b ||| BitVec.ofNat 8 (b2n nf + b2n sat * 2 + b2n ovf * 4)]
    else s
  | none => s

/-- Set the sticky bits of ESU_STATUS of a die (R72). -/
def State.markEsu (s : State) (d : Nat) (nf sat : Bool) (ovfs : Nat) : State :=
  let s := if nf then s.setFld (R.esuNf d) 1 else s
  let s := if sat then s.setFld (R.esuSat d) 1 else s
  if ovfs = 0 then s else (s.setFld (R.esuOvf d) 1).incFld (R.esuOvfCount d) ovfs

/-- Record the rejection of the first rejected descriptor among an operation's (R70): CLASS 5, PROTOCOL 10 (log entry 23). -/
def State.logDesc (s : State) (u : UnitId) (as : List Nat) (st : Nat) : State :=
  match as.findSome? fun a => (s.segAt u a).reject.map fun r => (a, r) with
  | some (a, r) => s.violate 5 u.val 10 st r a 0
  | none => s

/-- Run a plan: the chunks, then the reports and the completion word. -/
def State.runPlan (s : State) (u : UnitId) (e : Fin 4) (tag : Nat) (p : Plan) (residue : Bool) : State × Word :=
  let r := runChunks u p ((p.n + p.lanes - 1) / p.lanes) 0 0 ⟨false, false, false, 0⟩ s
  let fl := r.2
  let es := p.esOvf && fl.ovfs != 0
  let t := r.1.markDesc u p.desc fl.nf fl.sat es
  let t := t.markEsu (dieOf u) (fl.nf && p.desc.isSome) (fl.sat && p.desc.isSome) (if es then fl.ovfs else 0)
  let chk := residue || es
  let t := if chk then t.report 0x01 (t.engineCode u e.val) 0 else t
  (t, engCpl tag (if fl.ecc then 8 else 0) chk fl.nf fl.sat (fl.ovfs != 0))

/-- Execute one command to its end: the new state and the completion word. -/
def State.execEngine (s : State) (u : UnitId) (e : Fin 4) (ws : List Word) (residue : Bool) : State × Word :=
  let w0 := wordAt ws 0
  let len := bits w0 0 5
  let op := bits w0 8 8
  let tag := bits w0 16 8
  if len = 0 ∨ 16 < len then (s, engCpl tag 2 false false false false)
  else
    match engLen op with
    | none => (s, engCpl tag 1 false false false false)
    | some n =>
      if len ≠ n then (s, engCpl tag 2 false false false false)
      else if engBadField ws op then (s, engCpl tag 3 false false false false)
      else
        let ds := if op = 3 then [wordAt ws 1, wordAt ws 2] else if op ≤ 5 then [wordAt ws 1] else []
        let t := if (descStatus ds).isNone then s.eccReads u (ds.map fun a => (winPlace a, 24)) else s
        match s.prepare u ws op with
        | .ok p => t.runPlan u e tag p residue
        | .error st =>
          let s := t
          let s := if st = 6 then s.logDesc u ds st else s
          (s, engCpl tag st false false false false)

/-- A command is refused before its OP decides, so that any row may stand for it: LEN or OP is bad (R202). -/
def engRefused (w0 : Nat) : Bool :=
  let len := bits w0 0 5
  len = 0 || 16 < len || (engLen (bits w0 8 8)).isNone

/-- An engine takes its front committed command when it is one of operation `op`, executes it and posts its completion (R197, R199). -/
def State.engineStep (s : State) (u : UnitId) (e : Fin 4) (op : Nat) (residue : Bool) : State :=
  if isSteward u then s
  else
    match ((s.core u).eng e).take 5 16 with
    | none => s
    | some (ws, q) =>
      if bits (wordAt ws 0) 8 8 = op ∨ engRefused (wordAt ws 0) then
        let r := (s.modCore u fun c => c.setEng e q).execEngine u e ws residue
        r.1.modCore u fun c => (c.setEng e ((c.eng e).post r.2 32)).count 0x10 1
      else s

/-- CONV_FWD. -/
def execConvFwd (u : UnitId) (e : Fin 4) (residue : Bool) (s : State) : Out := .next (s.engineStep u e 1 residue)
/-- CONV_REV. -/
def execConvRev (u : UnitId) (e : Fin 4) (residue : Bool) (s : State) : Out := .next (s.engineStep u e 2 residue)
/-- CONV_ES. -/
def execConvEs (u : UnitId) (e : Fin 4) (residue : Bool) (s : State) : Out := .next (s.engineStep u e 3 residue)
/-- ESADD_V. -/
def execEsaddV (u : UnitId) (e : Fin 4) (residue : Bool) (s : State) : Out := .next (s.engineStep u e 4 residue)
/-- SCOUT. -/
def execScout (u : UnitId) (e : Fin 4) (residue : Bool) (s : State) : Out := .next (s.engineStep u e 5 residue)
/-- SMAX. -/
def execSmax (u : UnitId) (e : Fin 4) (residue : Bool) (s : State) : Out := .next (s.engineStep u e 6 residue)
/-- MAC_V. -/
def execMacV (u : UnitId) (e : Fin 4) (residue : Bool) (s : State) : Out := .next (s.engineStep u e 7 residue)

end Sys2Proof.Machine
end

