-- ==== Sys2Proof/Machine/Mover.lean ====
section
/-! DEFINITION. The Bunch movers: the checks of a DMA command, its transfer, and LOAD_I (spec/06 R209 to R212; spec/20 R545). A command row
takes the front committed command of the unit's DMA queue when its OP is the row's, or when the command is refused before its OP
decides. -/

namespace Sys2Proof.Machine

/-- An operand of a mover: an address in the issuer's windows, or a working-partition address (R211). -/
inductive Side where
  | win (a : Nat)
  | hbm (a : Nat)
  deriving DecidableEq, Repr

/-- The operand a 64-bit mover address names; other bits must be zero. -/
def sideOf (x : Nat) : Option Side :=
  if bitAt x 63 then (if x % 2 ^ 63 < 2 ^ 32 then some (.win (x % 2 ^ 32)) else none)
  else if x < 2 ^ 38 then some (.hbm x) else none

/-- The Steward's firmware window holds a working-partition range (R541, R545). -/
def State.inFwWindow (s : State) (u : UnitId) (a n : Nat) : Bool :=
  let b := (s.fld R.rindFwresBase + 1024 * (u.val - 256)) * mib
  isSteward u && decide (b ≤ a) && decide (a + n ≤ b + 1024 * mib)

/-- A whole extent is one the issuer may name (R211, R545). -/
def State.sideOk (s : State) (u : UnitId) (n : Nat) : Side → Bool
  | .win a => decide (a + n ≤ 0x40000) || (!isSteward u && decide (0x1000000 ≤ a) && decide (a + n ≤ 0x1400000))
  | .hbm a =>
    let c := s.core u
    ((decide (c.ctl.fenceLo.toNat * mib ≤ a) && decide (a + n ≤ c.ctl.fenceHi.toNat * mib)) || s.inFwWindow u a n) &&
      decide (a + n ≤ s.workTop)

/-- The place of byte `i` of an operand. -/
def State.sidePlace (s : State) (i : Nat) : Side → Place
  | .win a => winPlace (a + i)
  | .hbm a => .hbm (s.workKey (a + i))

/-- A byte of an operand. -/
def State.sideByte (s : State) (u : UnitId) (d : Side) (i : Nat) : Byte :=
  match s.ramAt u (s.sidePlace i d) with
  | some (r, _, o) => r.bytes.get o
  | none => 0

/-- Reading a byte meets an uncorrectable protection word. -/
def State.sideBad (s : State) (u : UnitId) (d : Side) (i : Nat) : Bool :=
  match s.ramAt u (s.sidePlace i d) with
  | some (r, w, o) => r.anyBad w o 1
  | none => false

/-- Writing byte `i` of an `n`-byte range meets an uncorrectable word that the range covers only in part (R228). -/
def State.sideMergeBad (s : State) (u : UnitId) (d : Side) (i n : Nat) : Bool :=
  match s.ramAt u (s.sidePlace i d) with
  | some (r, w, o) => r.anyBad w o 1 && !(decide (o % w ≤ i) && decide (o / w * w + w - o + i ≤ n))
  | none => false

/-- Write a byte of an operand. -/
def State.sidePut (s : State) (u : UnitId) (d : Side) (i : Nat) (b : Byte) : State :=
  match s.ramAt u (s.sidePlace i d) with
  | some _ => s.putAt u [b] (s.sidePlace i d)
  | none => s

/-- Write bytes of an operand from `i` upward. -/
def State.sidePuts (s : State) (u : UnitId) (d : Side) (i : Nat) : List Byte → State
  | [] => s
  | b :: bs => State.sidePuts (s.sidePut u d i b) u d (i + 1) bs

/-- The source byte of a transfer that the transfer itself may have overwritten: byte `i` of the source lies in the destination range
and is not the byte it replaces. The spec does not order the bytes of one row, so such a byte is free (log entry 24). -/
def overlaps (src dst : Side) (i n : Nat) : Bool :=
  match src, dst with
  | .win a, .win b => decide (a ≠ b) && decide (b ≤ a + i) && decide (a + i < b + n)
  | .hbm a, .hbm b => decide (a ≠ b) && decide (b ≤ a + i) && decide (a + i < b + n)
  | _, _ => false

/-- The extents of an operand, stack by stack. -/
def State.sideRanges (s : State) (n : Nat) : Side → List (Place × Nat)
  | .win a => [(winPlace a, n)]
  | .hbm a => s.workRanges a n

/-- Move one row of `n` bytes; answers whether it ended at an uncorrectable point (R212). The bytes before that point are written but for those in
an uncorrectable destination word that they would cover only in part, which keeps its contents. -/
def State.moveRow (s : State) (u : UnitId) (src dst : Side) (n : Nat) : State × Bool :=
  let stop := (List.range n).find? fun i => s.sideBad u src i || s.sideMergeBad u dst i n
  let j := stop.getD n
  let k := ((List.range j).find? fun i => s.sideMergeBad u dst i j).getD j
  let bytes := (List.range k).map fun i =>
    if overlaps src dst i n then Config.freeByte (s.fresh + i) else s.sideByte u src i
  let t := if (List.range k).any (fun i => overlaps src dst i n) then { s with fresh := s.fresh + n } else s
  let t := t.eccReads u (s.sideRanges (min n (k + 1)) src ++ (s.sideRanges (min n (k + 1)) dst).flatMap (s.mergeEdges u))
  (t.sidePuts u dst 0 bytes, stop.isSome)

/-- Shift an operand. -/
def Side.add (d : Side) (k : Nat) : Side :=
  match d with
  | .win a => .win (a + k)
  | .hbm a => .hbm (a + k)

/-- Move rows in ascending order, each row's writes done before the next row is read (R211). -/
def State.moveRows (s : State) (u : UnitId) (src dst : Side) (n ss ds : Nat) : Nat → State × Bool
  | 0 => (s, false)
  | k + 1 =>
    let r := s.moveRow u src dst n
    if r.2 then r else State.moveRows r.1 u (src.add ss) (dst.add ds) n ss ds k

/-- Fill a range with a pattern: the byte at address a receives byte a mod 4 (Table 6.7). -/
def State.fillRange (s : State) (u : UnitId) (dst : Side) (n pat : Nat) : State × Bool :=
  let stop := (List.range n).find? fun i => s.sideMergeBad u dst i n
  let a := match dst with | .win a => a | .hbm a => a
  let bytes := (List.range (stop.getD n)).map fun i => BitVec.ofNat 8 (bits pat (8 * ((a + i) % 4)) 8)
  let t := s.eccReads u ((s.sideRanges (min n (stop.getD n + 1)) dst).flatMap (s.mergeEdges u))
  (t.sidePuts u dst 0 bytes, stop.isSome)

/-- The LEN of a DMA operation (Table 6.7, R545). -/
def dmaLen (st : Bool) (op : Nat) : Option Nat :=
  if op = 1 then some 6 else if op = 2 then some 5 else if op = 3 then some 8 else if op = 4 ∧ st then some 6 else none

/-- The completion word of a DMA command (R212). -/
def dmaCpl (tag st : Nat) : Word := BitVec.ofNat 32 (tag + st * 2 ^ 8)

/-- The loader of a Steward: Table 20.1, and until the end of boot step 7 Steward 0 (R545, R575). -/
def State.loaderOf (s : State) (n : Nat) : Nat := if s.flag R.bootDone ∧ n = 0 then 5 else 0

/-- The target unit of a LOAD_I (R545): a core of the Bunch named in word 0, or a Steward. -/
def loadTarget (w0 w3 : Nat) : UnitId :=
  if bitAt w3 3 then ⟨256 + w3 % 8, by omega⟩
  else ⟨bits w0 28 1 * 128 + bits w0 24 4 * 8 + w3 % 8, by simp only [bits]; omega⟩

/-- LOAD_I (R545): its status and effect, after BAD_LEN and BAD_OP. -/
def State.loadI (s : State) (u : UnitId) (ws : List Word) : State × Nat :=
  let a := wordAt ws
  let t := loadTarget (a 0) (a 3)
  if 16 ≤ a 3 ∨ 65536 ≤ a 4 then (s, 3)
  else if a 5 = 0 then (s, 5)
  else
    match sideOf (word64 ws 1) with
    | none => (s, 4)
    | some src =>
      if a 4 % 4 ≠ 0 ∨ a 5 % 4 ≠ 0 ∨ 65536 < a 4 + a 5 ∨ !s.sideOk u (a 5) src ∨
        (isSteward t ∧ s.loaderOf (t.val - 256) ≠ u.val - 256) then (s, 4)
      else
        let c := s.core t
        if c.run.state = .running ∨ c.run.state = .waiting then (s.setCore t { c with run.cmdErr := true }, 7)
        else
          let stop := (List.range (a 5)).find? fun i => s.sideBad u src i
          let bytes := (List.range (stop.getD (a 5) / 4 * 4)).map fun i => s.sideByte u src i
          let r := (s.imem[t.val]'t.isLt).put 4 (a 4) bytes
          ({ s.eccReads u (s.sideRanges (a 5) src) with imem := s.imem.set t.val r t.isLt }, if stop.isSome then 6 else 0)

/-- COPY, FILL and COPY2D after BAD_LEN and BAD_OP: their status and effect (R211, R212). -/
def State.execMove (s : State) (u : UnitId) (ws : List Word) (op : Nat) : State × Nat :=
  let a := wordAt ws
  let w0 := a 0
  if bits w0 4 4 ≠ 0 ∨ (if isSteward u then bits w0 29 3 ≠ 0 else bits w0 24 8 ≠ 0) then (s, 3)
  else if op = 4 then s.loadI u ws
  else if op = 2 then
    if a 3 = 0 then (s, 5)
    else
      match sideOf (word64 ws 1) with
      | some d => if s.sideOk u (a 3) d then let r := s.fillRange u d (a 3) (a 4); (r.1, if r.2 then 6 else 0) else (s, 4)
      | none => (s, 4)
  else
    let rows := if op = 1 then 1 else a 6
    let ss := if op = 1 then 0 else bits (a 7) 0 16 * 64
    let ds := if op = 1 then 0 else bits (a 7) 16 16 * 64
    if a 5 = 0 ∨ rows = 0 then (s, 5)
    else
      match sideOf (word64 ws 1), sideOf (word64 ws 3) with
      | some src, some dst =>
        if s.sideOk u ((rows - 1) * ss + a 5) src && s.sideOk u ((rows - 1) * ds + a 5) dst then
          let r := s.moveRows u src dst (a 5) ss ds rows
          (r.1, if r.2 then 6 else 0)
        else (s, 4)
      | _, _ => (s, 4)

/-- Execute one DMA command: the new state and its status. -/
def State.execDma (s : State) (u : UnitId) (ws : List Word) : State × Nat :=
  let w0 := wordAt ws 0
  let len := bits w0 0 4
  let op := bits w0 8 8
  if len = 0 ∨ 8 < len then (s, 2)
  else
    match dmaLen (isSteward u) op with
    | none => (s, 1)
    | some n => if len ≠ n then (s, 2) else s.execMove u ws op

/-- An operand lies on a stack under an in-stack copy (R222). -/
def State.sideHeld (s : State) (n : Nat) (d : Side) : Bool := (s.sideRanges n d).any fun q => s.placeHeld q.1
/-- An operand that a command's words name lies on such a stack. -/
def State.wordsHeld (s : State) (ws : List Word) (i n : Nat) : Bool :=
  match sideOf (word64 ws i) with
  | some d => s.sideHeld n d
  | none => false
/-- The accesses of a command would be held: it moves data, and an operand lies on a stack under an in-stack copy. -/
def State.dmaHeld (s : State) (u : UnitId) (ws : List Word) (st : Nat) : Bool :=
  let a := wordAt ws
  let op := bits (a 0) 8 8
  (st == 0 || st == 6) &&
  (if op = 4 ∧ isSteward u then s.wordsHeld ws 1 (a 5)
   else if op = 2 then s.wordsHeld ws 1 (a 3)
   else
     let rows := if op = 1 then 1 else a 6
     let ext := fun k => if op = 1 then a 5 else (rows - 1) * (bits (a 7) k 16 * 64) + a 5
     s.wordsHeld ws 1 (ext 0) || s.wordsHeld ws 3 (ext 16))

/-- A command is refused before its OP decides: LEN or OP is bad. -/
def dmaRefused (st : Bool) (w0 : Nat) : Bool :=
  bits w0 0 4 = 0 || 8 < bits w0 0 4 || (dmaLen st (bits w0 8 8)).isNone

/-- The mover takes a unit's front committed command when it is one of operation `op`, executes it and posts its completion. A command whose
accesses an in-stack copy holds stays at the front until the copy ends. -/
def State.dmaStep (s : State) (u : UnitId) (op : Nat) : State :=
  match (s.core u).ports.dma.take 4 8 with
  | none => s
  | some (ws, q) =>
    if bits (wordAt ws 0) 8 8 = op ∨ dmaRefused (isSteward u) (wordAt ws 0) then
      let r := (s.modCore u fun c => { c with ports.dma := q }).execDma u ws
      if s.dmaHeld u ws r.2 then s
      else r.1.modCore u fun c =>
        Core.count { c with ports.dma := c.ports.dma.post (dmaCpl (bits (wordAt ws 0) 16 8) r.2) 16 } 0x12 1
    else s

/-- DMA_COPY. -/
def execDmaCopy (u : UnitId) (s : State) : Out := .next (s.dmaStep u 1)
/-- DMA_FILL. -/
def execDmaFill (u : UnitId) (s : State) : Out := .next (s.dmaStep u 2)
/-- DMA_COPY2D. -/
def execDmaCopy2d (u : UnitId) (s : State) : Out := .next (s.dmaStep u 3)
/-- LOAD_I. -/
def execLoadI (u : UnitId) (s : State) : Out := .next (s.dmaStep u 4)

end Sys2Proof.Machine
end

