-- ==== Sys2Proof/Machine/Hbm.lean ====
section
/-! DEFINITION. The die-to-die link, the HBM controllers, the in-stack copy and patrol scrub (spec/06 R213 to R230). -/

namespace Sys2Proof.Machine

/-- Change a stack's controller. -/
def State.modHbm (s : State) (n : Fin 4) (f : HbmSt → HbmSt) : State := { s with hbmCtl := s.hbmCtl.set n.val (f s.hbmCtl[n]) }

/-- D2D_FLIT_CRC_FAIL: the flit and every later one are replayed; after eight consecutive replays of one flit the link is failed and
the health-and-repair Steward is notified (R214). -/
def execD2dFlitCrcFail (dir : Fin 2) (again : Bool) (lane : BitVec 6) (s : State) : Out :=
  let d := s.d2d[dir]
  if d.failed then .next s
  else
    let n := if again then d.replays + 1 else 1
    let t := { s with d2d := s.d2d.set dir.val { replays := n, failed := decide (8 ≤ n) } }
    .next (if 8 ≤ n then t.report 0x08 (0x5000 + dir.val * 2048 + lane.toNat) 0 else t)

/-- HBM_REFRESH: the stack's banks are refreshed in turn (R215, Table 6.8). -/
def execHbmRefresh (stack : Fin 4) (s : State) : Out := .next (s.modHbm stack fun h => { h with refreshes := h.refreshes + 1 })

/-- HBM_TEMP_READOUT: the four stack temperatures are read (R215). -/
def execHbmTempReadout (t0 t1 t2 t3 : Nat) (s : State) : Out :=
  let s := s.modHbm 0 fun h => { h with temp := t0 }
  let s := s.modHbm 1 fun h => { h with temp := t1 }
  let s := s.modHbm 2 fun h => { h with temp := t2 }
  .next (s.modHbm 3 fun h => { h with temp := t3 })

/-- The refresh interval of a stack in ns: tREFI, halved above 85 °C (Table 6.8). -/
def HbmSt.refreshNs (h : HbmSt) : Nat := if 85000 < h.temp then h.tim.refi / 2 else h.tim.refi

/-! ## In-stack copy (R220 to R224) -/

/-- Why START is refused, as an ERR_CODE; none when it is accepted (R221). -/
def State.copyRefusal (s : State) (n : Nat) : Option Nat :=
  let w := s.fld R.hbmWorkMib
  if s.flag (R.copyBusy n) then some 1
  else if s.fld R.hbmSpare = 0 then some 2
  else if s.fld (R.copyLen n) = 0 ∨ w < s.fld (R.copySrc n) + s.fld (R.copyLen n) ∨
    36864 - w < s.fld (R.copyDst n) + s.fld (R.copyLen n) then some 3
  else none

/-- START of an in-stack copy: a refusal sets ERR and its code; otherwise the values are latched, BUSY is set, and accesses drain. The
bytes copied are the source range as it stands at START (R222). -/
def State.copyStart (s : State) (n : Fin 4) : State :=
  match s.copyRefusal n.val with
  | some code => (s.setFld (R.copyErr n.val) 1).setFld (R.copyErrCode n.val) code
  | none =>
    let src := s.fld (R.copySrc n.val)
    let len := s.fld (R.copyLen n.val)
    let a := stackKey n.val (src * mib)
    let s := s.modHbm n fun h =>
      { h with phase := .draining, src := src, dst := s.fld (R.copyDst n.val), len := len,
               snap := s.hbm.bytes.filter (fun q => a ≤ q.1 && q.1 < a + len * mib),
               snapBad := s.hbm.bad.filter (fun i => a / 64 ≤ i && i < (a + len * mib) / 64),
               snapSoft := s.hbm.soft.filter (fun i => a / 64 ≤ i && i < (a + len * mib) / 64) }
    let s := s.setFld (R.copyBusy n.val) 1
    let s := s.setFld (R.copyProgress n.val) 0
    let s := s.setFld (R.copyUncorr n.val) 0
    s.setFld (R.copyErrCode n.val) 0

/-- HBM_COPY_START. -/
def execHbmCopyStart (n : Fin 4) (s : State) : Out := .next (s.copyStart n)

/-- HBM_COPY_ISSUE: the accesses in flight have completed and the controller issues the copy (R222 step 3). -/
def execHbmCopyIssue (n : Fin 4) (s : State) : Out :=
  .next (if s.hbmCtl[n].phase = .draining then s.modHbm n fun h => { h with phase := .copying } else s)

/-- Block marks of a range of the source moved to the destination, among the marks that stand outside it. -/
def moveMarks (snap marks : List Nat) (a d z : Nat) : List Nat :=
  (marks.filter fun i => i < d / 64) ++ ((snap.filter fun i => i < (a + z) / 64).map fun i => i - a / 64 + d / 64) ++
    (marks.filter fun i => (d + z) / 64 ≤ i)
/-- The bytes of the first `len` MiB of a snapshot placed in the spare partition, with the errors they hold, which the copy does not decode
(R224). -/
def State.landSnap (s : State) (n : Fin 4) (len : Nat) : State :=
  let h := s.hbmCtl[n]
  let a := stackKey n.val (h.src * mib)
  let d := stackKey n.val (s.workBytes + h.dst * mib)
  let z := len * mib
  { s with hbm := { bytes := Mem.copyRange h.snap s.hbm.bytes a d z,
                    bad := moveMarks h.snapBad s.hbm.bad a d z,
                    soft := moveMarks h.snapSoft s.hbm.soft a d z } }

/-- The end of a copy: BUSY clears, the held accesses resume, DONE is set, and ERR with a code when it ended in error (log entry 25). -/
def State.copyFinish (s : State) (n : Fin 4) (err : Option Nat) : State :=
  let s := s.modHbm n fun h => { h with phase := .idle, snap := [], snapBad := [], snapSoft := [] }
  let s := (s.setFld (R.copyBusy n.val) 0).setFld (R.copyDone n.val) 1
  match err with
  | none => s
  | some code => (s.setFld (R.copyErr n.val) 1).setFld (R.copyErrCode n.val) code

/-- The copy ends at its normal time; on-die uncorrectable events end it with ERR code 4 (R222, R224). -/
def State.copyEnd (s : State) (n : Fin 4) (uncorr : Nat) : State :=
  if s.hbmCtl[n].phase = .copying then
    let len := s.hbmCtl[n].len
    let t := (s.landSnap n len).setFld (R.copyProgress n.val) len
    let t := t.setFld (R.copyUncorr n.val) (min uncorr 63)
    t.copyFinish n (if uncorr = 0 then none else some 4)
  else s

/-- A copy not ended 20 ms after START ends with ERR code 5, having copied some MiB, and counted the events it met (R224); what a read has shown
as copied stays copied. -/
def State.copyTimeout (s : State) (n : Fin 4) (progress : CopyPart) : State :=
  if s.hbmCtl[n].phase = .idle then s
  else
    let p := min (max progress.mib (s.fld (R.copyProgress n.val))) s.hbmCtl[n].len
    (((s.landSnap n p).setFld (R.copyProgress n.val) p).setFld (R.copyUncorr n.val) (min progress.uncorr 63)).copyFinish n (some 5)

/-- A read of HBM_COPYn_STAT while a copy runs: PROGRESS_MIB has risen to a value the spec does not fix, at most LEN_MIB (R220; log entry
157). -/
def State.showProgress (s : State) (n : Fin 4) : State :=
  let p := s.fld (R.copyProgress n.val)
  if s.hbmCtl[n].phase = .copying then
    (s.setFld (R.copyProgress n.val) (p + Config.choice s.fresh % (s.hbmCtl[n].len - p + 1))).tick
  else s

/-! ## Patrol scrub (R229) -/

/-- PATROL_SCRUB: the word is read; a corrected word is written back and reported, an uncorrectable one is reported (R228 to R230).
HBM scrub of a stack waits while its in-stack copy holds the stack. -/
def execPatrolScrub (w : ScrubWord) (s : State) : Out :=
  match w with
  | .bunch b i =>
    let r := s.bmem[b]
    let k := i.toNat
    if k ∈ r.bad then .next (s.report 0x04 (s.bunchCode b) (bunchRow (8 * k)))
    else if k ∈ r.soft then
      .next ({ s with bmem := s.bmem.set b.val { r with soft := r.soft.filter (· ≠ k) } }.report 0x03 (s.bunchCode b) (bunchRow (8 * k)))
    else .next s
  | .hbm i =>
    let k := i.toNat
    let unit := hbmUnit k
    if s.keyHeld (k * 64) then .next s
    else if k ∈ s.hbm.bad then .next (s.report 0x06 unit k)
    else if k ∈ s.hbm.soft then
      .next ({ s with hbm := { s.hbm with soft := s.hbm.soft.filter (· ≠ k) } }.report 0x05 unit k)
    else .next s

end Sys2Proof.Machine
end

