-- ==== Sys2Proof/Machine/Wire.lean ====
section
/-! DEFINITION. The bytes of what the device sends on its links: beacons, switch notices, collective cells and LFT packets, most significant
byte first (spec/00 R7; spec/07 R235, R260; spec/08 R283; spec/09 R307). Addresses and header fields that the spec does not give are constants of
Config (log entry 156). -/

namespace Sys2Proof.Machine

/-! ## Ethernet, IPv6 and UDP -/

/-- Zeros after a frame that is shorter than 60 bytes without its FCS. -/
def padded (l : List Byte) : List Byte := l ++ List.replicate (60 - l.length) 0
/-- An Ethernet header, with an 802.1Q tag of a PCP if any. -/
def ethHead (dst src : Nat) (pcp : Option Nat) (etype : Nat) : List Byte :=
  natBe 6 dst ++ natBe 6 src ++ (match pcp with | some p => natBe 2 0x8100 ++ natBe 2 (p % 8 * 8192) | none => []) ++ natBe 2 etype

/-- The one's-complement sum of 16-bit words. -/
def csum16 : List Byte → Nat
  | a :: b :: r => let x := a.toNat * 256 + b.toNat + csum16 r; x % 65536 + x / 65536
  | [a] => a.toNat * 256
  | [] => 0

/-- A UDP header in IPv6 with the checksum of its pseudo header, itself and its payload; a sum of zero goes as all ones. -/
def udpHead (src dst sport dport : Nat) (body : List Byte) : List Byte :=
  let n := body.length + 8
  let head := natBe 2 sport ++ natBe 2 dport ++ natBe 2 n
  let sum := 0xFFFF - csum16 (natBe 16 src ++ natBe 16 dst ++ natBe 4 n ++ natBe 4 17 ++ head ++ body)
  head ++ natBe 2 (if sum = 0 then 0xFFFF else sum)
/-- An IPv6 header before a UDP datagram of `n` bytes. -/
def ip6Head (tclass flow hop src dst n : Nat) : List Byte :=
  natBe 4 (6 * 2 ^ 28 + tclass % 256 * 2 ^ 20 + flow % 2 ^ 20) ++ natBe 2 n ++ natBe 1 17 ++ natBe 1 hop ++ natBe 16 src ++ natBe 16 dst

/-! ## Payloads and headers -/

/-- The 50 bytes of a link beacon (Table 7.2). -/
def beaconBytes (b : Beacon) : List Byte :=
  natBe 1 b.verMajor ++ natBe 1 b.verMinor ++ natBe 1 b.type ++ natBe 1 b.flags ++ natBe 2 b.orchardId ++ natBe 2 b.rank ++ natBe 4 b.seq ++
  natBe 8 b.tTx ++ natBe 2 b.tTxFrac ++ natBe 2 0 ++ natBe 4 b.echoSeq ++ natBe 8 b.tRxEcho ++ natBe 2 b.tRxEchoFrac ++ natBe 1 b.hops ++
  natBe 1 0 ++ natBe 8 b.imageId ++ natBe 2 0

/-- The fields of a link beacon. -/
def beaconOf (l : List Byte) : Beacon :=
  let f := fun i n => beNat (slice l i n)
  { verMajor := f 0 1, verMinor := f 1 1, type := f 2 1, flags := f 3 1, orchardId := f 4 2, rank := f 6 2, seq := f 8 4, tTx := f 12 8,
    tTxFrac := f 20 2, echoSeq := f 24 4, tRxEcho := f 28 8, tRxEchoFrac := f 36 2, hops := f 38 1, imageId := f 40 8 }

/-- The 28 bytes of a switch notice (Table 7.10). -/
def noticeBytes (n : Notice) : List Byte :=
  natBe 1 n.verMajor ++ natBe 1 n.verMinor ++ natBe 1 n.type ++ natBe 1 0 ++ natBe 2 n.orchardId ++ natBe 2 n.originRank ++ natBe 4 n.noticeSeq ++
  natBe 8 n.imageId ++ natBe 1 n.variant ++ natBe 1 n.reason ++ natBe 1 n.hopCount ++ natBe 1 0 ++ natBe 4 n.switchSeason

/-- The fields of a switch notice. -/
def noticeOf (l : List Byte) : Notice :=
  let f := fun i n => beNat (slice l i n)
  { verMajor := f 0 1, verMinor := f 1 1, type := f 2 1, orchardId := f 4 2, originRank := f 6 2, noticeSeq := f 8 4, imageId := f 12 8,
    variant := f 20 1, reason := f 21 1, hopCount := f 22 1, switchSeason := f 24 4 }

/-- The 32-byte header of a collective cell (Table 8.10). -/
def cellHeader (c : Cell) : List Byte :=
  natBe 1 c.verMajor ++ natBe 1 c.verMinor ++ natBe 1 c.kind ++ natBe 1 c.flags ++ natBe 2 c.group ++ natBe 2 c.leg ++ natBe 4 c.step ++
  natBe 2 c.gen ++ natBe 1 c.orchardId ++ natBe 1 c.attempt ++ natBe 2 c.srcRank ++ natBe 2 c.fragSeq ++ natBe 2 c.round ++ natBe 1 c.fmt ++
  natBe 1 0 ++ natBe 4 c.firstBlock ++ natBe 2 c.nblocks ++ natBe 2 c.payloadLen
/-- A collective cell as it travels: its header, then its payload. -/
def cellBytes (c : Cell) : List Byte := cellHeader c ++ c.payload

/-- The cell that a frame's bytes after its headers hold; bytes after the payload are padding. -/
def cellOfBytes (l : List Byte) : Cell :=
  let f := fun i n => beNat (slice l i n)
  { verMajor := f 0 1, verMinor := f 1 1, kind := f 2 1, flags := f 3 1, group := f 4 2, leg := f 6 2, step := f 8 4, gen := f 12 2,
    orchardId := f 14 1, attempt := f 15 1, srcRank := f 16 2, fragSeq := f 18 2, round := f 20 2, fmt := f 22 1, firstBlock := f 24 4,
    nblocks := f 28 2, payloadLen := f 30 2, payload := slice l 32 (f 30 2) }

/-- The 48 bytes of the LFT header (Table 9.3). -/
def lftHeader (p : LftPkt) : List Byte :=
  natBe 1 p.verMajor ++ natBe 1 p.verMinor ++ natBe 1 p.opcode ++ natBe 1 p.flags ++ natBe 2 p.destQpn ++ natBe 2 p.srcQpn ++
  natBe 4 p.psn ++ natBe 4 p.msgPsn ++ natBe 8 p.txTime ++ natBe 4 p.msgLen ++ natBe 4 p.msgOffset ++ natBe 8 p.raddr ++
  natBe 4 p.rkey ++ natBe 2 p.payloadLen ++ natBe 2 p.epoch

/-! ## Frames -/

/-- The bytes of a frame as it leaves a port, without FCS; none for a PTP message, whose bytes IEEE 802.1AS gives and not the spec. A beacon or
notice goes to 01-80-C2-00-00-0E with EtherType 0x88B5 (R235, R260); a cell with EtherType 0x88B6, or in IPv6 and UDP to port 19,533 (R283); an
LFT packet in IPv6 with hop limit 64 and flow label 0, and UDP to port 19,532 (R307). -/
def Frame.wire (port : Nat) : Frame → Option (List Byte)
  | .ptp _ _ => none
  | .beacon b => some (ethHead 0x0180C200000E (Config.macSrc port) none 0x88B5 ++ beaconBytes b)
  | .notice n => some (padded (ethHead 0x0180C200000E (Config.macSrc port) none 0x88B5 ++ noticeBytes n))
  | .cell pcp rv c =>
    let body := cellBytes c
    let ip := fun f => Config.rvIp port c.leg f
    some (padded (if rv then
      ethHead (Config.macDst port) (Config.macSrc port) pcp 0x86DD ++ ip6Head (ip 0) (ip 1) (ip 2) (ip 3) (ip 4) (body.length + 8) ++
        udpHead (ip 3) (ip 4) (ip 5) 19533 body ++ body
      else ethHead (Config.macDst port) (Config.macSrc port) pcp 0x88B6 ++ body))
  | .lft p =>
    let body := lftHeader p ++ p.payload ++ p.tag
    some (padded (ethHead (Config.macDst port) (Config.macSrc port) none 0x86DD ++ ip6Head p.tclass 0 64 p.src p.dst (body.length + 8) ++
      udpHead p.src p.dst p.sport 19532 body ++ body))
  | .raw d => some (padded d)

end Sys2Proof.Machine
end

