-- ==== Sys2Proof/Machine/Queue.lean ====
section
/-! DEFINITION. The entry side of the egress queues: frame lengths, buckets, enqueuing, and what waits for space (spec/11 R354 to R359;
spec/19 R534; spec/20 R549). Times of buckets and of frame boundaries are in units of 2^−16 ns. -/

namespace Sys2Proof.Machine

/-- 2^16: the units of one ns. -/
def u16 : Nat := 65536

/-! ## Ports (R332, R336) -/

/-- A port code that is a port in its octet's mode (Table 10.1). -/
def State.isPort (s : State) (p : Nat) : Bool := decide (p < 32) && p % 8 % 2 ^ s.fld (R.octMode (p / 8)) == 0
/-- A local address of a port. -/
def State.portAddrOf (s : State) (p a : Nat) : Nat := s.csr.get64 (R.portAddr p a) + s.csr.get64 (R.portAddr p a + 8) * 2 ^ 64
/-- An address is one of the port's local ones. -/
def State.isLocal (s : State) (p addr : Nat) : Bool := addr != 0 && (List.range 4).any fun a => s.portAddrOf p a == addr

/-- A network port that is up. -/
def State.portUp (s : State) (p : Nat) : Bool := s.isPort p && s.flag (R.portEn p) && s.flag (R.portLinkUp p)
/-- Port rate in bytes per ns (Table 10.1). -/
def State.portBytes (s : State) (p : Nat) : Nat := 25 * 2 ^ s.fld (R.octMode (p / 8))

/-! ## Lengths (R337, R356) -/

/-- Bytes of an Ethernet payload with header, FCS and padding. -/
def ethBytes (n : Nat) : Nat := max 64 (n + 18)

/-- The length of a frame, FCS included: that of Frame.wire and 4 bytes, and of a PTP message as Annex F of IEEE 802.1AS lays it out (R233, R235,
R260, R283, R307). -/
def Frame.bytes : Frame → Nat
  | .ptp k _ => ethBytes (if k = 0 then 44 else if k = 11 then 64 else 54)
  | .beacon _ => 68
  | .notice _ => ethBytes 28
  | .cell pcp rv c => ethBytes ((if pcp.isSome then 4 else 0) + (if rv then 48 else 0) + 32 + c.payload.length)
  | .lft p => ethBytes (48 + 48 + p.payload.length + p.tag.length)
  | .raw d => max 64 (d.length + 4)

/-- An EAPOL frame, which the SecY passes (R380). -/
def Frame.isEapol : Frame → Bool
  | .raw d => beNat (slice d 12 2) == 0x888E
  | _ => false

/-- What the SecY of a port adds to a frame: SecTAG and ICV. -/
def State.secBytes (s : State) (p : Nat) (f : Frame) : Nat :=
  if s.flag (R.secyEn p) && !f.isEapol then (if s.flag (R.secyInclSci p) then 32 else 24) else 0

/-- A frame as its queue holds it. -/
def State.egFrame (s : State) (p : Nat) (f : Frame) : EgFrame :=
  let n := f.bytes + s.secBytes p f
  { bytes := f.bytes, charged := n + s.fld (R.txLenOvh p), wire := n + 20, enq := s.time.now, frame := f }

/-! ## Buckets (R357 to R359, R534, R549) -/

/-- The level units of one byte. -/
def bucketByte : Nat := 524288000
/-- Refill a bucket at a rate in Mbit/s, up to a size in bytes. -/
def Bucket.refill (b : Bucket) (mbit size t : Nat) : Bucket :=
  { lvl := min (b.lvl + mbit * (t - b.at_)) (size * bucketByte), at_ := max b.at_ t }
/-- Charge a number of bytes. -/
def Bucket.charge (b : Bucket) (n : Nat) : Bucket := { b with lvl := b.lvl - n * bucketByte }

/-- A port's egress side. -/
def State.eg (s : State) (p : Nat) : EgPort := s.net.eg[p % 32]'(Nat.mod_lt _ (by decide))
/-- Change a port's egress side. -/
def State.modEg (s : State) (p : Nat) (f : EgPort → EgPort) : State :=
  { s with net.eg := s.net.eg.set (p % 32) (f (s.eg p)) (Nat.mod_lt _ (by decide)) }
/-- Queue q of a port. -/
def EgPort.queue (e : EgPort) (q : Nat) : List EgFrame := e.q[q % 8]'(Nat.mod_lt _ (by decide))
/-- Replace queue q. -/
def EgPort.setQueue (e : EgPort) (q : Nat) (l : List EgFrame) : EgPort := { e with q := e.q.set (q % 8) l (Nat.mod_lt _ (by decide)) }

/-- Reload both buckets of a queue (R359). -/
def State.reloadQueue (s : State) (p q t : Nat) : State :=
  s.modEg p fun e => { e with
    c := e.c.set (q % 8) { lvl := s.fld (R.qCbs p q) * 64 * bucketByte, at_ := t } (Nat.mod_lt _ (by decide)),
    p := e.p.set (q % 8) { lvl := s.fld (R.qPbs p q) * 64 * bucketByte, at_ := t } (Nat.mod_lt _ (by decide)) }
/-- Reload every bucket of a port. -/
def State.reloadPort (s : State) (p t : Nat) : State := (List.range 8).foldl (fun s q => s.reloadQueue p q t) s

/-! ## Depth and space (R354) -/

/-- A queue's depth. -/
def EgPort.depth (e : EgPort) (q : Nat) : Nat := ((e.queue q).map (·.charged)).sum
/-- The stored bytes of a port's queues. -/
def EgPort.stored (e : EgPort) : Nat := (e.q.toList.map fun l => (l.map (·.bytes)).sum).sum
/-- The stored bytes of an octet. -/
def State.octStored (s : State) (k : Nat) : Nat := ((List.range 8).map fun i => (s.eg (8 * k + i)).stored).sum
/-- A queue's depth bound. -/
def State.qLimit (s : State) (p q : Nat) : Nat :=
  let v := s.fld (R.qLim p q)
  (if 1 ≤ v ∧ v ≤ 512 then v else 512) * 1024
/-- The room the octet's buffer keeps for time frames: 8 frames of 128 bytes for each port. -/
def State.timeRoom (s : State) (k : Nat) : Nat := (8 / 2 ^ s.fld (R.octMode k)) * 1024
/-- A frame finds room in its queue. -/
def State.room (s : State) (p q : Nat) (f : EgFrame) : Bool :=
  decide ((s.eg p).depth q + f.charged ≤ s.qLimit p q) && decide (s.octStored (p / 8) + f.bytes + s.timeRoom (p / 8) ≤ 524288)

/-- DEPTH after a change of a queue. -/
def State.showDepth (s : State) (p q : Nat) : State := s.setFld (R.qDepth p q) (min ((s.eg p).depth q) (2 ^ 24 - 1))

/-- Put a frame at the end of a queue, with the length it is charged and its enqueue time fixed now; DEPTH_HWM follows the depth (R356, R366). -/
def State.push (s : State) (p q : Nat) (f : Frame) : State :=
  let s := (s.modEg p fun e => e.setQueue q (e.queue q ++ [s.egFrame p f])).showDepth p q
  s.setFld (R.qDepthHwm p q) (max (s.fld (R.qDepthHwm p q)) (s.fld (R.qDepth p q)))

/-- The source of a frame that waits for space, by its place in Table 11.1: the cell mover, the transport mover, the slow-path Steward. -/
def Frame.source : Frame → Nat
  | .cell _ _ _ => 1
  | .lft _ => 2
  | _ => 4

/-- A frame of the device itself enters a queue, or waits for space, behind those of its source for the queue that wait already (Table 11.1). On the
twin link it leaves at once. -/
def State.sendFrame (s : State) (p q : Nat) (f : Frame) : State :=
  if 32 ≤ p then s.emit (.frame p none f)
  else if ((s.eg p).wait.any fun w => w.1 == q && w.2.source == f.source) || !s.room p q (s.egFrame p f) then
    s.modEg p fun e => { e with wait := e.wait ++ [(q, f)] }
  else s.push p q f

/-- A frame forwarded to a queue: none when it finds its queue full. -/
def State.forwardFrame (s : State) (p q : Nat) (f : Frame) : Option State :=
  if s.room p q (s.egFrame p f) then some (s.push p q f) else none

/-- A time frame enters the time queue, or leaves on the twin link at once (R355). -/
def State.sendTime (s : State) (p : Nat) (f : Frame) : State :=
  if 32 ≤ p then s.emit (.frame p none f)
  else s.modEg p fun e => { e with tq := e.tq ++ [s.egFrame p f] }

/-- The cell mover sends a cell on CELL_QUEUE, tagged as the port's gate state says (R355, R360). -/
def State.sendCellFrame (s : State) (p : Nat) (rv : Bool) (c : Cell) : State :=
  let pcp := if p < 32 ∧ s.flag (R.txCellTag p) then some (s.fld (R.txCellPcp p)) else none
  s.sendFrame p (s.fld (R.txCellQueue p)) (.cell pcp rv c)

/-- Frames of a source that wait at a port enter their queues, oldest first, while there is room. -/
def State.admitPort (s : State) (src p : Nat) : State :=
  ((s.eg p).wait.filter fun w => w.2.source == src).foldl (fun s w =>
    let ahead := ((s.eg p).wait.takeWhile fun x => x != w).any fun x => x.1 == w.1 && x.2.source == src
    if !ahead && s.room p w.1 (s.egFrame p w.2) then (s.modEg p fun e => { e with wait := e.wait.erase w }).push p w.1 w.2 else s) s
/-- Frames of a source that wait at any port enter their queues, as far as there is room. -/
def State.admitSource (s : State) (src : Nat) : State := (List.range 32).foldl (fun s p => s.admitPort src p) s

/-- A queue of a class by the port's TCMAP (Table 11.3). -/
def State.classQueue (s : State) (p cls : Nat) : Nat := s.fld (R.txTcmap p (cls % 8))

/-! ## The ceilings of an instance (R534) -/

/-- TX_CEIL of an instance, in effect, in units of 100 Mbit/s; zero is uncapped. -/
def State.txCeilOf (s : State) (n : Nat) : Nat := bits (s.quota.get (R.instKey n + 0x4C)).toNat 0 16
/-- BLK_CEIL of an instance, in effect. -/
def State.blkCeilOf (s : State) (n : Nat) : Nat := bits (s.quota.get (R.instKey n + 0x4C)).toNat 16 16

/-- Refill the transmit bucket of an instance; true when it is not negative. -/
def State.txCeilOk (s : State) (n : Nat) : Bool :=
  64 ≤ n || s.txCeilOf n == 0 ||
    decide (0 ≤ ((s.net.txCeil[n % 64]'(Nat.mod_lt _ (by decide))).refill (s.txCeilOf n * 100) 65536 (s.time.now * u16)).lvl)
/-- Charge a frame's wire length to the transmit bucket of an instance. -/
def State.txCeilCharge (s : State) (n wire : Nat) : State :=
  if 64 ≤ n ∨ s.txCeilOf n = 0 then s
  else
    let b := ((s.net.txCeil[n % 64]'(Nat.mod_lt _ (by decide))).refill (s.txCeilOf n * 100) 65536 (s.time.now * u16)).charge wire
    { s with net.txCeil := s.net.txCeil.set (n % 64) b (Nat.mod_lt _ (by decide)) }

end Sys2Proof.Machine
end

