-- ==== Sys2Proof/Machine/Time.lean ====
section
/-! DEFINITION. Fabric time: the PTP profile, link beacons, the time states and the pulse-per-second input (spec/07 R231 to R241). Times of
messages and beacons are in units of 2^−16 ns; fabric time itself is in ns. -/

namespace Sys2Proof.Machine

/-- Change a beacon link. -/
def State.modLink (s : State) (l : Fin 33) (f : LinkSt → LinkSt) : State :=
  { s with time.links := s.time.links.set l.val (f s.time.links[l]) }
/-- Change a PTP port. -/
def State.modPtp (s : State) (p : Fin 33) (f : PtpSt → PtpSt) : State :=
  { s with time.ptp := s.time.ptp.set p.val (f s.time.ptp[p]) }

/-- A link is up: a network port, or the twin link at 32. -/
def State.linkUp (s : State) (l : Nat) : Bool := if l = 32 then s.flag R.twinLinkUp else s.flag (R.portLinkUp l)
/-- A beacon link (R235). -/
def State.beaconLink (s : State) (l : Nat) : Bool := s.linkUp l && (l == 32 || s.flag (R.portFabric l))

/-- The image this device's identity in its Orchard comes from: the running one, else the staged one (log entry 26). -/
def State.orchardImage (s : State) : Option Image := s.beat.running <|> s.beat.staged
/-- ORCHARD_ID as sent. -/
def State.orchardId (s : State) : Nat := match s.orchardImage with | some i => i.orchardId | none => 0
/-- RANK as sent. -/
def State.rank (s : State) : Nat := match s.orchardImage with | some i => i.rank | none => 0
/-- IMAGE_ID of the running image; zero when none runs. -/
def State.imageId (s : State) : Nat := match s.beat.running with | some i => i.imageId | none => 0

/-- The gates and cell tags of every port return to the values held without a schedule (spec/11, Table 11.3). -/
def State.gateDefaults (s : State) : State :=
  (List.range 32).foldl (fun s n =>
    ((s.setFld (R.txOpen n) (s.fld (R.txGateDef n))).setFld (R.txCellPcp n) (s.fld (R.txCellPcpDef n))).setFld (R.txCellTag n)
      (s.fld (R.txCellTagDef n))) s

/-- The KERNEL and KAT events of a core in the table of a variant. -/
def Image.coreEvents (im : Image) (single core : Nat) : List BeatEvent :=
  ((im.tables[single * 2 + core / 128]?).getD []).filter fun e => (e.kind == 3 || e.kind == 5) && e.target == core % 128

/-- An image names a core in one of its tables. -/
def Image.usesCore (im : Image) (n : Nat) : Bool := (List.range 2).any fun v => !(im.coreEvents v n).isEmpty

/-- A core that the running image does not name, so that what it holds is for a staged image. -/
def State.spareCore (s : State) (n : Nat) : Bool := match s.beat.running with | some r => !r.usesCore n | none => true

/-- Of the kernels held, those of some cores still count. -/
def State.keepHeld (s : State) (keep : Nat → Bool) : State :=
  { s with beat.kernelHeld := s.beat.kernelHeld.filter fun k => keep k.1 }

/-- The schedule stops: NOSCHED reads 1, gates take their defaults, a pending switch is gone, and the start variant is normal (R240,
R256, R259). -/
def State.stopSchedule (s : State) : State :=
  match s.beat.running with
  | none => s
  | some _ =>
    let s := s.keepHeld s.spareCore
    let s := { s with beat.running := none, beat.slot := 0, beat.season := 0, beat.switch := none, beat.stopReq := false,
                      beat.prev := none, beat.mismatch := none }
    let s := (s.setFld R.btState 2).setFld R.btVariant 0
    let s := if s.beat.activation then s else (s.setFld R.btPending 0).setFld R.btPendSeason 0
    s.gateDefaults

/-- Fabric time steps, which only a device without a running Beat Table does; nothing is left to slew (R232). -/
def State.stepTime (s : State) (t : Nat) : State := { s with time.now := t, time.now1 := 0, time.slew := 0 }

/-- The time state changes. -/
def State.setTimeState (s : State) (v : Nat) : State := s.setFld R.ftState v

/-- Enter HOLDOVER: frequency is held. -/
def State.holdTime (s : State) : State :=
  ({ s with time.holdAt := s.time.now, time.badRun := 0, time.goodSince := none }).setTimeState 3
/-- Enter HOLDOVER for a lost upstream: the standby upstream is taken if it is valid (Table 7.3). -/
def State.enterHoldover (s : State) : State :=
  let sb := s.time.standby
  let valid : Bool := match s.time.links.toList[sb]? with
    | some l => (match l.lastValid with | some v => decide (s.time.now < v + 32000) | none => false) && !l.versionBad
    | none => false
  (if valid && s.fld R.ftUpstream != sb then s.setFld R.ftUpstream sb else s).holdTime

/-- The mean of a window. -/
def meanOf (l : List Int) : Int := if l.isEmpty then 0 else l.sum / l.length

/-- Take the roles the roster gives this device (Table 7.1, R239): upstreams, hops, grandmaster and system port holder. The grandmaster is LOCKED
at once without FT_CFG.PPS_EN, and with it once a 1PPS edge has aligned it. -/
def State.takeRoster (s : State) (e : RosterE) : State :=
  let gm := e.role % 2 = 1
  let s := { s with time.primary := e.priUp, time.standby := e.sbyUp, time.sysHolder := bitAt e.role 1 }
  let s := (s.setFld R.ftGm (b2n gm)).setFld R.ftHops e.hops
  if gm ∧ s.fld R.ftPpsEn = 0 ∧ (s.fld R.ftState = 0 ∨ s.fld R.ftState = 1) then s.setTimeState 2 else s

/-! ## PTP (R233, R234) -/

/-- A port is the Orchard's system port: a network port outside the Orchard's fabric, on the system port holder (DESIGN CHOICE, log entry 164). -/
def State.sysPort (s : State) (p : Fin 33) : Bool := s.time.sysHolder && p.val < 32 && !s.flag (R.portFabric p.val)
/-- The domain a port works in (Table 7.1). -/
def State.ptpDomain (s : State) (p : Fin 33) : Nat := if s.sysPort p then s.fld R.ftSysDomain else s.fld R.ftDomain
/-- A message is of a domain this device works in on that port. -/
def State.ptpDomainOk (s : State) (p : Fin 33) (m : PtpMsg) : Bool := m.domain == s.ptpDomain p
/-- A valid 1PPS input is present: its last edge is less than 2 s old (DESIGN CHOICE, log entry 165). -/
def State.ppsOk (s : State) : Bool := match s.time.ppsAt with | some a => decide (s.time.now < a + 2000000000) | none => false
/-- The constants of a link's lane mode. -/
def State.laneConst (s : State) (l : Fin 33) : LaneConst :=
  let mode := if l.val = 32 then 8 else s.fld (R.octMode (l.val / 8)) + 4 * s.fld (R.secyEn l.val)
  SMap.get (fun _ => { egress := 0, ingress := 0, asym := 0 }) s.time.consts mode
/-- A captured time, in steps of 0.25 ns, with a constant added (R234). -/
def stampOf (t : Nat) (c : Int) : Nat := ((t - t % 16384 : Nat) + c).toNat
/-- The time of a message received on a link. -/
def State.rxStamp (s : State) (l : Fin 33) (t : Nat) : Nat := stampOf t (s.laneConst l).ingress
/-- The time of a message sent on a link. -/
def State.txStamp (s : State) (l : Fin 33) (t : Nat) : Nat := stampOf t (s.laneConst l).egress
/-- The port is one time is taken from. -/
def State.ptpSlave (s : State) (p : Fin 33) : Bool := s.sysPort p || p.val == s.fld R.ftUpstream || p.val == s.time.primary || p.val == s.time.standby

/-- An empty message of this device on a port. -/
def State.ptpOut (s : State) (p : Fin 33) (seq stamp : Nat) (corr : Int) : PtpMsg :=
  { domain := s.ptpDomain p, seq := seq % 65536, twoStep := false, correction := corr, stamp := stamp, forUs := false,
    clockClass := if s.flag R.ftGm && s.ppsOk && s.flag R.ftPpsEn then 6 else 248, msgType := 0 }

/-- One-step times are written as the frame leaves, and the times of requests and beacons taken (R233 to R236): a Sync names whole ns, with the rest
in its correction; a Pdelay_Resp, queued with the receipt time of its request, carries its turnaround in the correction (PRESUMED IEEE 1588-2019,
log entry 164). -/
def State.stampFrame (s : State) (p t : Nat) (f : Frame) : State × Frame :=
  let l : Fin 33 := ⟨p % 33, by omega⟩
  let x := s.txStamp l t
  match f with
  | .ptp 0 m => (s, .ptp 0 { m with stamp := x - x % u16, correction := m.correction + (x % u16 : Nat) })
  | .ptp 2 m => (s.modPtp l fun y => { y with reqSent := some (m.seq, x) }, f)
  | .ptp 3 m => (s, .ptp 3 { m with stamp := 0, correction := m.correction + ((x : Int) - m.stamp) })
  | .beacon b => (s.modLink l fun k => { k with lastTxTime := x }, .beacon { b with tTx := x / u16, tTxFrac := x % u16 })
  | _ => (s, f)
/-- A time frame goes to a link at time `t`: into the time queue, or out on the twin link at once (R355). -/
def State.sendTimed (s : State) (p : Fin 33) (t : Nat) (f : Frame) : State :=
  if 32 ≤ p.val then (let r := s.stampFrame p.val t f; r.1.sendTime p.val r.2) else s.sendTime p.val f

/-- A Sync's offset on a port. On the system port of a device that is the grandmaster, it disciplines fabric time (log entry 164). -/
def State.ptpOffset (s : State) (p : Fin 33) (off : Int) : State :=
  let s := s.modPtp p fun x => { x with pendingSync := none, offset := off }
  if s.sysPort p && s.flag R.ftGm then (if s.nosched then s.stepTime ((s.time.now : Int) - off / u16).toNat else { s with time.slew := -off }) else s

/-- PTP_SYNC: one- and two-step are accepted; a one-step Sync gives an offset at once. -/
def execPtpSync (port : Fin 33) (m : PtpMsg) (t : Nat) (s : State) : Out :=
  let s := s.advance (t / u16)
  let rx := s.rxStamp port t
  if s.ptpDomainOk port m && s.ptpSlave port then
    .next (if m.twoStep then s.modPtp port fun p => { p with pendingSync := some (m.seq, rx, m.correction) }
      else s.ptpOffset port ((rx : Int) - m.stamp - m.correction - s.time.ptp[port].meanDelay))
  else .next s

/-- PTP_FOLLOW_UP: completes the two-step Sync of its sequence number. -/
def execPtpFollowUp (port : Fin 33) (m : PtpMsg) (t : Nat) (s : State) : Out :=
  let s := s.advance (t / u16)
  if s.ptpDomainOk port m && s.ptpSlave port then
    match s.time.ptp[port].pendingSync with
    | some (q, rx, c) =>
      .next (if q = m.seq then s.ptpOffset port ((rx : Int) - m.stamp - c - m.correction - s.time.ptp[port].meanDelay) else s)
    | none => .next s
  else .next s

/-- PTP_PDELAY_REQ: answered with a Pdelay_Resp. -/
def execPtpPdelayReq (port : Fin 33) (m : PtpMsg) (t : Nat) (s : State) : Out :=
  let s := s.advance (t / u16)
  if s.ptpDomainOk port m then .next (s.sendTimed port t (.ptp 3 (s.ptpOut port m.seq (s.rxStamp port t) m.correction))) else .next s

/-- PTP_PDELAY_RESP: with a one-step answer the mean link delay is known. -/
def execPtpPdelayResp (port : Fin 33) (m : PtpMsg) (t : Nat) (s : State) : Out :=
  let s := s.advance (t / u16)
  let t := s.rxStamp port t
  .next (s.modPtp port fun p =>
    match p.reqSent with
    | some (q, t1) =>
      if m.forUs && q == m.seq then
        if m.twoStep then { p with respSeen := some (q, m.stamp, t, m.correction) }
        else { p with reqSent := none, meanDelay := ((t : Int) - t1 - m.correction) / 2 }
      else p
    | none => p)

/-- PTP_PDELAY_RESP_FOLLOW_UP: completes a two-step answer. -/
def execPtpPdelayRespFollowUp (port : Fin 33) (m : PtpMsg) (t : Nat) (s : State) : Out :=
  let s := s.advance (t / u16)
  .next (s.modPtp port fun p =>
    match p.reqSent, p.respSeen with
    | some (q, t1), some (q', t2, t4, c) =>
      if m.forUs && q == m.seq && q' == m.seq then
        { p with reqSent := none, respSeen := none,
                 meanDelay := (((t4 : Int) - t1) - ((m.stamp : Int) - t2) - c - m.correction) / 2 }
      else p
    | _, _ => p)

/-- PTP_ANNOUNCE: the receipt timeout of the port starts anew. -/
def execPtpAnnounce (port : Fin 33) (m : PtpMsg) (t : Nat) (s : State) : Out :=
  let s := s.advance (t / u16)
  if s.ptpDomainOk port m then .next (s.modPtp port fun p => { p with announced := true }) else .next s

/-- PTP_UNUSED_MESSAGE: discarded. -/
def execPtpUnusedMessage (_port : Fin 33) (_m : PtpMsg) (t : Nat) (s : State) : Out := .next (s.advance (t / u16))

/-- SYNC_INTERVAL: a one-step Sync is sent on a port that is up and from which time is not taken. -/
def execSyncInterval (port : Fin 33) (t : Nat) (s : State) : Out :=
  let s := s.advance (t / u16)
  if s.linkUp port.val && !s.ptpSlave port then
    .next ((s.sendTimed port t (.ptp 0 (s.ptpOut port (s.time.ptp[port].syncSeq + 1) 0 0))).modPtp port fun p => { p with syncSeq := p.syncSeq + 1 })
  else .next s

/-- PDELAY_REQ_INTERVAL: a Pdelay_Req is sent. -/
def execPdelayReqInterval (port : Fin 33) (t : Nat) (s : State) : Out :=
  let s := s.advance (t / u16)
  if s.linkUp port.val then
    let q := (s.time.ptp[port].pdelaySeq + 1) % 65536
    .next ((s.modPtp port fun p => { p with pdelaySeq := q, reqSent := some (q, t), respSeen := none }).sendTimed port t (.ptp 2 (s.ptpOut port q 0 0)))
  else .next s

/-- ANNOUNCE_INTERVAL: an Announce is sent on a port that is up and from which time is not taken. -/
def execAnnounceInterval (port : Fin 33) (t : Nat) (s : State) : Out :=
  let s := s.advance (t / u16)
  if s.linkUp port.val && !s.ptpSlave port then
    .next ((s.sendTimed port t (.ptp 11 (s.ptpOut port (s.time.ptp[port].announceSeq + 1) 0 0))).modPtp port
      fun p => { p with announceSeq := p.announceSeq + 1 })
  else .next s

/-- ANNOUNCE_RECEIPT_TIMEOUT: no Announce arrived within three intervals. -/
def execAnnounceReceiptTimeout (port : Fin 33) (t : Nat) (s : State) : Out :=
  .next ((s.advance (t / u16)).modPtp port fun p => { p with announced := false })

/-! ## Link beacons (R235 to R238) -/

/-- The beacon a link sends at time `t` (Table 7.2). -/
def State.beaconOn (s : State) (l : Fin 33) (t : Nat) : Beacon :=
  let k := s.time.links[l]
  { verMajor := 1, verMinor := 0, type := 0,
    flags := b2n (s.fld R.ftState == 2) + b2n (s.fld R.ftState == 3) * 2 + b2n (s.fld R.ftUpstream == l.val) * 4,
    orchardId := s.orchardId, rank := s.rank, seq := (k.txSeq + 1) % 2 ^ 32, tTx := t / u16, tTxFrac := t % u16,
    echoSeq := k.rxSeq, tRxEcho := k.rxTime / u16, tRxEchoFrac := k.rxTime % u16, hops := s.fld R.ftHops, imageId := s.imageId }

/-- Send a beacon on one link, if it is a beacon link. -/
def State.sendBeacon (s : State) (t : Nat) (l : Fin 33) : State :=
  if s.beaconLink l.val then
    (s.modLink l fun k => { k with txSeq := (k.txSeq + 1) % 2 ^ 32, lastTxTime := t }).sendTimed l t (.beacon (s.beaconOn l t))
  else s

/-- LINK_BEACON_TRANSMIT: a beacon leaves on every beacon link. -/
def execLinkBeaconTransmit (t : Nat) (s : State) : Out :=
  .next ((List.finRange 33).foldl (fun s l => s.sendBeacon t l) (s.advance (t / u16)))

/-- Why a beacon is discarded, as a REASON (R238). -/
def State.beaconBad (s : State) (b : Beacon) : Option Nat :=
  if b.verMajor ≠ 1 then some 3 else if b.type ≠ 0 then some 1
  else match s.orchardImage with
    | some i => if b.orchardId ≠ i.orchardId then some 6 else none
    | none => none

/-- The filter's output on the upstream: slew, FT_OFFSET, and the runs of Table 7.3. Bounds are 4 ns and 2 ns. -/
def State.filterOut (s : State) (w : List Int) : State :=
  let m := meanOf w
  let s := { s with time.slew := -m,
                    time.badRun := if 4 * u16 < m.natAbs then s.time.badRun + 1 else 0,
                    time.goodSince := if m.natAbs ≤ 2 * u16 then (s.time.goodSince <|> some s.time.now) else none }
  let s := s.setWord R.ftOffset.key (BitVec.ofInt 32 (m / 256))
  if s.fld R.ftState = 2 ∧ 4 ≤ s.time.badRun then s.holdTime.report 0 0x8000 3
  else if s.fld R.ftState = 3 ∧ m.natAbs ≤ 2 * u16 then s.setTimeState 2
  else s

/-- Start the filter on a link: it becomes the upstream and the state is ACQUIRING (Table 7.3). Fabric time steps by the offset that PTP has
given there, if no Beat Table runs (log entry 164). -/
def State.startFilter (s : State) (l : Fin 33) : State :=
  let s := s.modLink l fun k => { k with window := k.window.take 1 }
  let off := s.time.ptp[l].offset / u16
  let s := if s.nosched && off != 0 then (s.stepTime ((s.time.now : Int) - off).toNat).modPtp l fun p => { p with offset := 0 } else s
  ({ s with time.badRun := 0, time.goodSince := none }.setFld R.ftUpstream l.val).setTimeState 1

/-- LINK_BEACON_RECEIVE. -/
def execLinkBeaconReceive (link : Fin 33) (b : Beacon) (t : Nat) (s : State) : Out :=
  let s := s.advance (t / u16)
  if s.beaconLink link.val = false then .next s
  else
    match s.beaconBad b with
    | some r =>
      .next ((s.modLink link fun k => { k with discards := k.discards + 1, versionBad := k.versionBad || decide (b.verMajor ≠ 1) }).violate
        (if link.val = 32 then 4 else 2) b.rank 6 0xFF r b.seq 0)
    | none =>
      let now := t / u16
      let t := s.rxStamp link t
      let t1 : Int := (b.tTx : Int) * u16 + b.tTxFrac
      let t4 : Int := (b.tRxEcho : Int) * u16 + b.tRxEchoFrac
      let hit := b.echoSeq = s.time.links[link].txSeq
      let s := s.modLink link fun k =>
        let t3 : Int := k.lastTxTime
        let k := { k with rxSeq := b.seq, rxTime := t, lastValid := some now, versionBad := false, asym := (s.laneConst link).asym }
        let off := ((t - t1) - (t4 - t3)) / 2 - k.asym
        if hit then { k with delay := ((t - t1) + (t4 - t3)) / 2 - k.asym, window := (off :: k.window).take 32 } else k
      let up := s.fld R.ftUpstream
      let st := s.fld R.ftState
      let mayStart := (st = 0 ∨ (st = 4 ∧ s.nosched)) ∧ (link.val = s.time.primary ∨ link.val = s.time.standby)
      let s := if mayStart then s.startFilter link else s
      let s := { s with beat.mismatch :=
        if link.val = up ∧ s.imageId ≠ 0 ∧ b.imageId ≠ 0 ∧ b.imageId ≠ s.imageId then (s.beat.mismatch <|> some (s.time.now, b.rank))
        else if link.val = up then none else s.beat.mismatch }
      .next (if link.val = s.fld R.ftUpstream ∧ hit then s.filterOut s.time.links[link].window else s)

/-! ## Time states (R239 to R241) -/

/-- No valid beacon has arrived on the upstream for 32 µs (R239). -/
def State.upstreamSilent (s : State) : Bool :=
  match s.time.links.toList[s.fld R.ftUpstream]? with
  | some l => (match l.lastValid with | some v => decide (v + 32000 ≤ s.time.now) | none => true)
  | none => true

/-- UPSTREAM_LOST. -/
def execUpstreamLost (t : Nat) (s : State) : Out :=
  let s := s.advance t
  if s.upstreamSilent then
    if s.fld R.ftState = 1 then .next ({ s with time.goodSince := none }.setFld R.ftUpstream 63 |>.setTimeState 0)
    else if s.fld R.ftState = 2 ∧ s.fld R.ftGm = 0 then .next s.enterHoldover
    else .next s
  else .next s

/-- TIME_LOCK_ACQUIRED: the offset has stayed within 2 ns for 1 ms. -/
def execTimeLockAcquired (t : Nat) (s : State) : Out :=
  let s := s.advance t
  match s.time.goodSince with
  | some g => .next (if s.fld R.ftState = 1 ∧ g + 1000000 ≤ s.time.now then s.setTimeState 2 else s)
  | none => .next s

/-- The holdover limit in ns (R240). -/
def State.holdoverLimit (s : State) : Nat := if s.flag R.ftRef10m && s.flag R.ftRef10mEn then 50000000 else 1000000

/-- PPS_EDGE: on the grandmaster the edge marks a whole second; fabric time steps to it only while no Beat Table runs (R241). -/
def execPpsEdge (t second : Nat) (s : State) : Out :=
  let s := { (s.advance t).setFld R.ftPps 1 with time.ppsAt := some t }
  if s.flag R.ftGm && s.flag R.ftPpsEn then
    let target := second * 1000000000
    let s := if s.nosched then { s.stepTime target with time.ppsAt := some target } else { s with time.slew := ((target : Int) - t) * u16 }
    .next (if s.fld R.ftState = 0 ∨ s.fld R.ftState = 1 then s.setTimeState 2 else s)
  else .next s

/-- REF10M_VALIDITY_CHANGE: FT_STAT.REF10M follows the input, and with it the holdover limit (R240). -/
def execRef10mValidityChange (valid : Bool) (s : State) : Out := .next (s.setFld R.ftRef10m (b2n valid))

end Sys2Proof.Machine
end

