-- ==== Sys2Proof/Machine/Image.lean ====
section
/-! DEFINITION. Schedule images: reading the sections of an image, and the checks of staging (spec/07 R243 to R252, Tables 7.5 to 7.8;
spec/08 R267, R280, Tables 8.1 and 8.8; spec/01 R25; spec/02 R54; spec/16 R466; spec/20 R552). -/

namespace Sys2Proof.Machine

/-- A little-endian field of `n` bytes at offset `o`. -/
def le (b : List Byte) (o n : Nat) : Nat := leNat (slice b o n)

/-! ## The header (Table 7.7) -/

/-- IMAGE_LEN. -/
def imLen (b : List Byte) : Nat := le b 8 8
/-- ORCHARD_SIZE. -/
def imSize (b : List Byte) : Nat := le b 30 2
/-- SEASON_SLOTS. -/
def imSlots (b : List Byte) : Nat := le b 24 4
/-- The image with its DIGEST field zero, as the digest covers it. -/
def imBlank (b : List Byte) : List Byte := b.take 80 ++ List.replicate 48 0 ++ b.drop 128
/-- Entries of a section: `n` of them, `w` bytes apart from `o`, as their offsets. -/
def entries (o w n : Nat) : List Nat := (List.range n).map fun i => o + w * i
/-- A range lies inside the image. -/
def inImage (b : List Byte) (o n : Nat) : Bool := decide (o + n ≤ b.length)

/-! ## Sections (R249, R267, R280) -/

/-- The roster entry at an offset. -/
def rosterAt (b : List Byte) (o : Nat) : RosterE :=
  { serial := le b o 8, node := le b (o + 8) 2, side := le b (o + 10) 1, role := le b (o + 11) 1, priUp := le b (o + 12) 1,
    sbyUp := le b (o + 13) 1, hops := le b (o + 14) 1 }
/-- The event at an offset (Table 7.5). -/
def eventAt (b : List Byte) (o : Nat) : BeatEvent :=
  { slot := le b o 2, kind := le b (o + 2) 1, cond := bits (le b (o + 3) 1) 0 2, rsv := bits (le b (o + 3) 1) 2 6,
    target := le b (o + 4) 4, arg := le b (o + 8) 8 }
/-- The kernel entry at an offset, with its start arguments. -/
def kernelAt (b : List Byte) (o : Nat) : KernelE :=
  { textOff := le b o 4, textLen := le b (o + 4) 4, dataOff := le b (o + 8) 4, dataLen := le b (o + 12) 4, entry := le b (o + 16) 4,
    fenceLo := le b (o + 20) 4, fenceHi := le b (o + 24) 4, args := (List.range 4).map fun i => le b (le b (o + 28) 4 + 4 * i) 4 }
/-- The group entry at an offset (Table 8.1), with the defaults of CHECK_RETRY and MISS_RETRY taken. -/
def groupAt (b : List Byte) (o : Nat) : GroupE :=
  { group := le b o 2, coll := le b (o + 2) 1, gatherEs := bitAt (le b (o + 3) 1) 0, accelMask := le b (o + 4) 1,
    checkRetry := if le b (o + 5) 1 = 0 then 3 else le b (o + 5) 1, missRetry := if le b (o + 6) 1 = 0 then 16 else le b (o + 6) 1,
    witness := le b (o + 7) 1, seg := parseSeg (slice b (o + 8) 24), seed := le b (o + 32) 8, rvFmt := le b (o + 40) 1,
    genBase := le b (o + 42) 2, blocksPerRound := le b (o + 44) 4, split := le b (o + 48) 4, root := le b (o + 52) 4 }
/-- The leg entry at an offset (Table 8.8). -/
def legAt (b : List Byte) (o : Nat) : LegE :=
  { group := le b o 2, kind := le b (o + 2) 1, flags := le b (o + 3) 1, inCount := le b (o + 4) 1, inFmt := bits (le b (o + 5) 1) 0 3,
    outFmt := bits (le b (o + 5) 1) 3 3, txPort := le b (o + 6) 1, txPort2 := le b (o + 7) 1, destRank := le b (o + 8) 2,
    destRank2 := le b (o + 10) 2, k := le b (o + 12) 4, rxSlots := le b (o + 16) 2, verdictSlots := le b (o + 18) 2,
    localBunch := le b (o + 20) 1, deliver := le b (o + 21) 1, destOrchard := le b (o + 22) 1, localOff := le b (o + 24) 4,
    blockOffset := le b (o + 28) 4, nblocks := le b (o + 32) 4, fragBlocks := le b (o + 36) 2 }

/-- Offsets of the roster's entries. -/
def rosterOffs (b : List Byte) : List Nat := entries (le b 48 4) 16 (imSize b)
/-- Offset of directory entry `i`. -/
def dirOff (b : List Byte) (i : Nat) : Nat := le b 52 4 + 16 * i
/-- The table a directory entry names: offset and event count. -/
def tableOf (b : List Byte) (i : Nat) : Nat × Nat := (le b (dirOff b i) 8, le b (dirOff b i + 8) 4)
/-- The events of a table. -/
def eventsOf (b : List Byte) (i : Nat) : List BeatEvent := (entries (tableOf b i).1 16 (tableOf b i).2).map (eventAt b)
/-- Offsets of the group entries. -/
def groupOffs (b : List Byte) : List Nat := entries (le b 68 4 + 4) 64 (le b (le b 68 4) 4)
/-- Offsets of the leg entries. -/
def legOffs (b : List Byte) : List Nat := entries (le b 64 4 + 4) 48 (le b (le b 64 4) 4)
/-- Offsets of the kernel entries. -/
def kernelOffs (b : List Byte) : List Nat := entries (le b 72 4 + 4) 32 (le b (le b 72 4) 4)
/-- Offsets of the residency entries. -/
def resOffs (b : List Byte) : List Nat := entries (le b 56 4) 128 (le b 36 2)
/-- Offsets of the budget records. -/
def budgetOffs (b : List Byte) : List Nat := entries (le b 60 4) 32 (le b 44 4)
/-- Offsets of the port-demand records. -/
def demandOffs (b : List Byte) : List Nat := if le b 76 4 = 0 then [] else entries (le b 76 4 + 8) 16 (le b (le b 76 4) 4)
/-- The groups. -/
def groupsOf (b : List Byte) : List GroupE := (groupOffs b).map (groupAt b)
/-- The legs. -/
def legsOf (b : List Byte) : List LegE := (legOffs b).map (legAt b)
/-- The kernels. -/
def kernelsOf (b : List Byte) : List KernelE := (kernelOffs b).map (kernelAt b)
/-- The residency entries. -/
def residencyOf (b : List Byte) : List (List Nat) := (resOffs b).map fun o => (List.range 64).map fun j => le b (o + 2 * j) 2
/-- The rank a serial has in the roster. -/
def rankOf (b : List Byte) (serial : Nat) : Option Nat := (rosterOffs b).findIdx? fun o => le b o 8 == serial

/-- The image as the device with a serial holds it. -/
def parseImage (b : List Byte) (addr serial : Nat) : Image :=
  let r := (rankOf b serial).getD 0
  { addr := addr, startTime := le b 16 8, slots := imSlots b, orchardId := le b 28 2, size := imSize b, leadNs := le b 32 4,
    sysOrchards := le b 38 2, rvNs := le b 40 4, imageId := le b 80 8, rank := r, roster := (rosterOffs b).map (rosterAt b),
    tables := (List.range 4).map fun j => eventsOf b (4 * r + j), residency := residencyOf b, legs := legsOf b, groups := groupsOf b,
    kernels := kernelsOf b }

/-! ## The checks of staging (Table 7.8) -/

/-- A port code of FT_STAT.UPSTREAM, or none. -/
def portCodeOk (p : Nat) : Bool := p ≤ 32 || p == 0xFF

/-- VERSION. -/
def badVersion (b : List Byte) : Bool := le b 4 1 != 1 || le b 6 1 != 0
/-- DIGEST, where IMAGE_LEN names an image that BT_STAGE_LEN holds (log entry 62). -/
def badDigest (b : List Byte) (stageLen : Nat) : Bool :=
  decide (128 ≤ imLen b) && decide (imLen b ≤ stageLen) && sha384 (imBlank b) != slice b 80 48

/-- The header breaks FORMAT. -/
def badHeader (b : List Byte) (stageLen : Nat) : Bool :=
  le b 0 4 != 0x49534D4C || imLen b < 128 || stageLen < imLen b || 2 ^ 30 < imLen b || le b 7 1 != 0 || le b 16 8 % 10 != 0 ||
  imSlots b == 0 || 65536 < imSlots b || 63 < le b 28 2 || imSize b < 2 || 512 < imSize b || imSize b % 2 != 0 || le b 36 2 == 0 ||
  256 < le b 36 2 || le b 38 2 == 0 || 64 < le b 38 2

/-- A section lies outside the image, or a group section is too long (R267). -/
def badSections (b : List Byte) : Bool :=
  !inImage b (le b 48 4) (16 * imSize b) || !inImage b (le b 52 4) (64 * imSize b) || !inImage b (le b 56 4) (128 * le b 36 2) ||
  !inImage b (le b 60 4) (32 * le b 44 4) || !inImage b (le b 64 4) 4 || !inImage b (le b 68 4) 4 || !inImage b (le b 72 4) 4 ||
  1024 < le b (le b 68 4) 4 || !inImage b (le b 64 4 + 4) (48 * le b (le b 64 4) 4) ||
  !inImage b (le b 68 4 + 4) (64 * le b (le b 68 4) 4) || !inImage b (le b 72 4 + 4) (32 * le b (le b 72 4) 4) ||
  (le b 76 4 != 0 && (!inImage b (le b 76 4) 8 || !inImage b (le b 76 4 + 8) (16 * le b (le b 76 4) 4))) ||
  (List.range (4 * imSize b)).any fun i => !inImage b (tableOf b i).1 (16 * (tableOf b i).2)

/-- A roster or directory entry breaks FORMAT. -/
def badRosterFields (b : List Byte) : Bool :=
  ((rosterOffs b).any fun o => le b (o + 15) 1 != 0 || bits (le b (o + 11) 1) 2 6 != 0 || !portCodeOk (le b (o + 12) 1) ||
    !portCodeOk (le b (o + 13) 1)) ||
  (List.range (4 * imSize b)).any fun i => le b (dirOff b i + 12) 4 != 0

/-- Reserved bits of a descriptor's bytes 2 to 6 (Table 2.6). -/
def segRsv (b : List Byte) (o : Nat) : Bool :=
  bits (le b (o + 2) 1) 5 3 != 0 || bits (le b (o + 3) 1) 7 1 != 0 || bits (le b (o + 4) 1) 6 2 != 0 || bits (le b (o + 5) 1) 6 2 != 0 ||
  bits (le b (o + 6) 1) 3 5 != 0

/-- A group entry breaks FORMAT (Table 8.1). -/
def badGroup (b : List Byte) (o : Nat) : Bool :=
  let g := groupAt b o
  1023 < g.group || 3 < g.coll || bits (le b (o + 3) 1) 1 7 != 0 || 15 < le b (o + 5) 1 || 63 < le b (o + 6) 1 ||
  (7 < g.witness && g.witness != 0xFF) || segRsv b (o + 8) || g.seg.reject.isSome || g.seg.stream != 0 || g.seg.indexBase != 0 ||
  5 ≤ g.rvFmt || le b (o + 41) 1 != 0 || g.blocksPerRound == 0 || g.seg.blocks < g.blocksPerRound || g.split == 0 ||
  (g.coll != 3 && g.root != 0) || 131071 < g.root || le b (o + 56) 8 != 0

/-- A leg entry breaks FORMAT (Table 8.8, R280). -/
def badLeg (b : List Byte) (gs : List GroupE) (o : Nat) : Bool :=
  let l := legAt b o
  5 < l.kind || bits l.flags 4 4 != 0 || 16 < l.inCount || bits (le b (o + 5) 1) 6 2 != 0 || 5 ≤ l.inFmt || 5 ≤ l.outFmt ||
  !portCodeOk l.txPort || !portCodeOk l.txPort2 || 31 < l.localBunch || le b (o + 23) 1 != 0 || l.localOff % 64 != 0 ||
  l.fragBlocks == 0 || slice b (o + 38) 10 != List.replicate 10 0 || !gs.any (fun g => g.group == l.group)

/-- A kernel entry breaks FORMAT: its text, data and arguments must lie in the image and fit a core. -/
def badKernel (b : List Byte) (o : Nat) : Bool :=
  let k := kernelAt b o
  !inImage b k.textOff k.textLen || !inImage b k.dataOff k.dataLen || !inImage b (le b (o + 28) 4) 16 || 65536 < k.textLen ||
  k.textLen % 4 != 0 || 262144 < k.dataLen || 65536 ≤ k.entry || k.entry % 4 != 0 || 2 ^ 18 ≤ k.fenceLo || 2 ^ 18 ≤ k.fenceHi

/-- A budget record breaks FORMAT. -/
def badBudgetFields (b : List Byte) (o : Nat) : Bool :=
  1 < le b (o + 4) 1 || le b (o + 2) 2 < le b o 2 || imSlots b ≤ le b (o + 2) 2 || le b (o + 5) 3 != 0 ||
  slice b (o + 22) 10 != List.replicate 10 0

/-- A port-demand record breaks FORMAT. -/
def badDemand (b : List Byte) (o : Nat) : Bool :=
  1 < le b (o + 2) 1 || !portCodeOk (le b (o + 3) 1) || le b (o + 6) 2 < le b (o + 4) 2 || imSlots b ≤ le b (o + 6) 2 ||
  le b (o + 12) 4 != 0

/-- A KAT trailer breaks R466. -/
def badTrailer (b : List Byte) (k : KernelE) : Bool :=
  let t := k.dataOff + k.dataLen - 64
  k.dataLen < 64 || le b (t + 4) 4 == 0 || 65536 < le b (t + 4) 4 || 262144 < le b t 4 + le b (t + 4) 4 || le b (t + 8) 4 == 0 ||
  2 ^ 31 < le b (t + 8) 4 || le b (t + 12) 4 != 0

/-- The octet that TARGET [1:0] names on a die: its number on the die, or among the four of the device (log entry 167). -/
def octetOn (die o : Nat) : Option Nat := if o < 2 then some (2 * die + o) else if o / 2 = die then some o else none

/-- TARGET or ARG of an event breaks Table 7.6 or names what the image does not hold (R244, R361). -/
def badEvent (b : List Byte) (die : Nat) (e : BeatEvent) : Bool :=
  let legs := le b (le b 64 4) 4
  let ks := kernelsOf b
  if e.rsv != 0 then true
  else if e.kind = 1 ∨ e.kind = 2 then (octetOn die (e.target % 4)).isNone || bits e.target 2 6 != 0 || bits e.target 14 18 != 0 || legs ≤ e.arg
  else if e.kind = 3 ∨ e.kind = 5 then
    128 ≤ e.target || ks.length ≤ e.arg || 65536 ≤ e.arg ||
      (e.kind == 5 && (match ks[e.arg]? with | some k => badTrailer b k | none => false))
  else if e.kind = 4 then 32 ≤ e.target || e.target / 16 != die || 4096 ≤ e.arg
  else if e.kind = 6 then 4 ≤ e.target || e.arg != 0
  else if e.kind = 7 then 512 ≤ e.target || e.arg != 0
  else if e.kind = 8 then 64 ≤ e.target || legs ≤ e.arg
  else if e.kind = 9 then 8 ≤ e.target || e.arg != 0
  else false

/-- This device's four tables: variant, die and events. -/
def ownTables (b : List Byte) (rank : Nat) : List (Nat × Nat × List BeatEvent) :=
  (List.range 4).map fun j => (j / 2, j % 2, eventsOf b (4 * rank + j))

/-- FORMAT. -/
def badFormat (b : List Byte) (stageLen serial : Nat) : Bool :=
  badHeader b stageLen || badSections b || badRosterFields b || (groupOffs b).any (badGroup b) ||
  !decide ((groupsOf b).map (·.group)).Nodup || (legOffs b).any (badLeg b (groupsOf b)) || (kernelOffs b).any (badKernel b) ||
  (budgetOffs b).any (badBudgetFields b) || (demandOffs b).any (badDemand b) || (le b 76 4 != 0 && le b (le b 76 4 + 4) 4 != 0) ||
  (List.range (4 * imSize b)).any (fun i => (eventsOf b i).any fun e =>
    (e.kind == 1 || e.kind == 2 || e.kind == 8) && le b (le b 64 4) 4 ≤ e.arg % 2 ^ 32) ||
  match rankOf b serial with
  | some rank => (ownTables b rank).any fun t => t.2.2.any (badEvent b t.2.1)
  | none => false

/-- ROSTER. -/
def badRoster (b : List Byte) (serial : Nat) : Bool :=
  ((rosterOffs b).map (rosterAt b)).zipIdx.any (fun q => q.1.node != q.2 / 2 || q.1.side != q.2 % 2 || 8 < q.1.hops) ||
  (rankOf b serial).isNone

/-- A table breaks R243, R245, or uses a reserved KIND or COND. -/
def badSlots (slots : Nat) (t : List BeatEvent) : Bool :=
  32768 < t.length || (t.any fun e => slots ≤ e.slot || e.kind == 0 || 9 < e.kind || e.cond == 3) ||
  !decide ((t.map (·.slot)).Pairwise (· ≤ ·)) || (t.any fun e => 16 < (t.filter fun f => f.slot == e.slot).length)

/-- SLOT. -/
def badSlot (b : List Byte) (rank : Nat) : Bool := (ownTables b rank).any fun t => badSlots (imSlots b) t.2.2
/-- VARIANT. -/
def badVariant (b : List Byte) (rank : Nat) : Bool := (ownTables b rank).any fun t => t.1 == 0 && t.2.2.any fun e => e.cond != 0

/-- The budget lines' capacities in units of 4 GB/s (Tables 1.5 and 14.8; HBM at its usable capacity, R25). -/
def budgetCaps : List Nat := [128, 200, 1105, 50, 250, 800, 32768]

/-- BUDGET: some slot's summed demand exceeds a line, or records of both profiles cover it (R25, R249). A sum can only grow where a
record begins. -/
def badBudget (b : List Byte) : Bool :=
  (budgetOffs b).any fun o =>
    let cover := (budgetOffs b).filter fun p => le b p 2 ≤ le b o 2 && le b o 2 ≤ le b (p + 2) 2
    cover.any (fun p => le b (p + 4) 1 != le b (o + 4) 1) ||
    budgetCaps.zipIdx.any fun q => q.1 < (cover.map fun p => le b (p + 8 + 2 * q.2) 2).sum

/-- GUARD: a leg fails R54; a rendezvous leg's format is its group's RV_FMT. -/
def badGuard (b : List Byte) : Bool :=
  (legsOf b).any fun l =>
    (groupsOf b).any fun g => g.group == l.group &&
      (let need := 1 + guardBits l.k + g.seg.frac
       64 < need || (esWidth (if bitAt l.flags 3 then g.rvFmt else l.outFmt)).getD 0 < need)

/-- RESIDENCY. -/
def badResidency (b : List Byte) : Bool :=
  (residencyOf b).any fun e =>
    let named := e.filter (· != 0xFFFF)
    !decide named.Nodup || named.any fun n => !(groupsOf b).any fun g => g.group == n

/-- The rate of a port in its octet's mode, in units of 100 Mbit/s (Table 10.1). -/
def State.portRate (s : State) (p : Nat) : Nat := 2000 * 2 ^ s.fld (R.octMode (p / 8))

/-- RIND (R552): cell demand above a port's ceiling in some slot of a variant, or a kernel fence that reaches the firmware-reserved
span. -/
def State.badRind (s : State) (b : List Byte) (rank : Nat) : Bool :=
  let legs := legsOf b
  let recs := (demandOffs b).filter fun o => le b o 2 == rank
  let cells := fun v p => ((ownTables b rank).filter fun t => t.1 == v).flatMap fun t =>
    (t.2.2.filter fun e => e.kind == 1 && (match legs[e.arg]? with | some l => l.txPort == p || l.txPort2 == p | none => false)).map (·.slot)
  let above := fun v p =>
    let rs := recs.filter fun o => le b (o + 2) 1 == v && le b (o + 3) 1 == p
    (rs.map (fun o => le b (o + 4) 2) ++ cells v p).any fun slot =>
      let cov := rs.filter fun o => le b (o + 4) 2 ≤ slot && slot ≤ le b (o + 6) 2
      s.fld (R.rindTxCeil p) < (if cov.isEmpty then s.portRate p else (cov.map fun o => le b (o + 8) 4).sum)
  let lo := s.fld R.rindFwresBase
  let hi := lo + s.fld R.rindFwresLen
  ([0, 1].any fun v => (List.range 32).any fun p => above v p) || (kernelsOf b).any fun k => k.fenceLo < hi && lo < k.fenceHi

/-- SYSTEM. -/
def badSystem (b : List Byte) : Bool :=
  (if le b 38 2 = 1 then le b 40 4 != 0 else le b 40 4 < 100) ||
  (le b 38 2 == 1 && (List.range (4 * imSize b)).any fun i => (eventsOf b i).any fun e => e.kind == 8)

/-- LEAD. -/
def badLead (b : List Byte) : Bool := le b 32 4 < 50000

/-- The status of a staging: READ on an uncorrectable block of the image, FORMAT on an extent outside the working space where nothing
lower holds, else the lowest code whose condition holds (R251). -/
def State.stageStatus (s : State) (addr len serial : Nat) : Nat :=
  let b := s.hbmBytes addr (min len (leNat (s.hbmBytes (addr + 8) 8)))
  let rank := (rankOf b serial).getD 0
  if s.hbmBad addr b.length then 0x12
  else if badVersion b then 2
  else if badDigest b len then 3
  else if s.workTop < addr + len ∨ badFormat b len serial then 4
  else if badRoster b serial then 5
  else if badSlot b rank then 6
  else if badVariant b rank then 7
  else if badBudget b then 8
  else if badGuard b then 9
  else if badResidency b then 0x0A
  else if s.badRind b rank then 0x0F
  else if badSystem b then 0x10
  else if badLead b then 0x11
  else 0

end Sys2Proof.Machine
end

