-- ==== Sys2Proof/Machine/Aes.lean ====
section
/-! DEFINITION. AES-256, and the modes of it the spec names: GCM of NIST SP 800-38D with a 96-bit IV and a 128-bit tag, XTS of IEEE 1619 with the
data-unit number as the tweak, and AES Key Wrap of RFC 3394 (spec/12 R371, R376; spec/13 R407; spec/15 R450). -/

namespace Sys2Proof.Machine

/-! The substitution box: the inverse in GF(2^8), then the affine map. -/

/-- The substitution box, part 0. -/
def aesS0 : List Nat :=
  [0x63, 0x7c, 0x77, 0x7b, 0xf2, 0x6b, 0x6f, 0xc5, 0x30, 0x01, 0x67, 0x2b, 0xfe, 0xd7, 0xab, 0x76,
   0xca, 0x82, 0xc9, 0x7d, 0xfa, 0x59, 0x47, 0xf0, 0xad, 0xd4, 0xa2, 0xaf, 0x9c, 0xa4, 0x72, 0xc0,
   0xb7, 0xfd, 0x93, 0x26, 0x36, 0x3f, 0xf7, 0xcc, 0x34, 0xa5, 0xe5, 0xf1, 0x71, 0xd8, 0x31, 0x15,
   0x04, 0xc7, 0x23, 0xc3, 0x18, 0x96, 0x05, 0x9a, 0x07, 0x12, 0x80, 0xe2, 0xeb, 0x27, 0xb2, 0x75]
/-- The substitution box, part 1. -/
def aesS1 : List Nat :=
  [0x09, 0x83, 0x2c, 0x1a, 0x1b, 0x6e, 0x5a, 0xa0, 0x52, 0x3b, 0xd6, 0xb3, 0x29, 0xe3, 0x2f, 0x84,
   0x53, 0xd1, 0x00, 0xed, 0x20, 0xfc, 0xb1, 0x5b, 0x6a, 0xcb, 0xbe, 0x39, 0x4a, 0x4c, 0x58, 0xcf,
   0xd0, 0xef, 0xaa, 0xfb, 0x43, 0x4d, 0x33, 0x85, 0x45, 0xf9, 0x02, 0x7f, 0x50, 0x3c, 0x9f, 0xa8,
   0x51, 0xa3, 0x40, 0x8f, 0x92, 0x9d, 0x38, 0xf5, 0xbc, 0xb6, 0xda, 0x21, 0x10, 0xff, 0xf3, 0xd2]
/-- The substitution box, part 2. -/
def aesS2 : List Nat :=
  [0xcd, 0x0c, 0x13, 0xec, 0x5f, 0x97, 0x44, 0x17, 0xc4, 0xa7, 0x7e, 0x3d, 0x64, 0x5d, 0x19, 0x73,
   0x60, 0x81, 0x4f, 0xdc, 0x22, 0x2a, 0x90, 0x88, 0x46, 0xee, 0xb8, 0x14, 0xde, 0x5e, 0x0b, 0xdb,
   0xe0, 0x32, 0x3a, 0x0a, 0x49, 0x06, 0x24, 0x5c, 0xc2, 0xd3, 0xac, 0x62, 0x91, 0x95, 0xe4, 0x79,
   0xe7, 0xc8, 0x37, 0x6d, 0x8d, 0xd5, 0x4e, 0xa9, 0x6c, 0x56, 0xf4, 0xea, 0x65, 0x7a, 0xae, 0x08]
/-- The substitution box, part 3. -/
def aesS3 : List Nat :=
  [0xba, 0x78, 0x25, 0x2e, 0x1c, 0xa6, 0xb4, 0xc6, 0xe8, 0xdd, 0x74, 0x1f, 0x4b, 0xbd, 0x8b, 0x8a,
   0x70, 0x3e, 0xb5, 0x66, 0x48, 0x03, 0xf6, 0x0e, 0x61, 0x35, 0x57, 0xb9, 0x86, 0xc1, 0x1d, 0x9e,
   0xe1, 0xf8, 0x98, 0x11, 0x69, 0xd9, 0x8e, 0x94, 0x9b, 0x1e, 0x87, 0xe9, 0xce, 0x55, 0x28, 0xdf,
   0x8c, 0xa1, 0x89, 0x0d, 0xbf, 0xe6, 0x42, 0x68, 0x41, 0x99, 0x2d, 0x0f, 0xb0, 0x54, 0xbb, 0x16]
/-- The substitution box. -/
def aesSbox : Array (BitVec 8) := ((aesS0 ++ aesS1 ++ aesS2 ++ aesS3).map (BitVec.ofNat 8)).toArray
/-- The inverse box: where each value stands in the box. -/
def aesInv : Array (BitVec 8) := ((List.range 256).map fun v => BitVec.ofNat 8 ((aesS0 ++ aesS1 ++ aesS2 ++ aesS3).findIdx (· == v))).toArray
/-- A byte substituted. -/
def subByte (b : BitVec 8) : BitVec 8 := aesSbox[b.toNat]?.getD 0
/-- A byte substituted back. -/
def invSubByte (b : BitVec 8) : BitVec 8 := aesInv[b.toNat]?.getD 0

/-- Multiply by x in GF(2^8). -/
def xtime (b : BitVec 8) : BitVec 8 := (b <<< 1) ^^^ (if b.msb then 0x1b#8 else 0)
/-- Multiply in GF(2^8), over the low `n` bits of the second factor. -/
def gmul (a : BitVec 8) (b : Nat) : Nat → BitVec 8
  | 0 => 0
  | n + 1 => (if b % 2 = 1 then a else 0) ^^^ gmul (xtime a) (b / 2) n

/-- Bytes combined bit by bit. -/
def xorBytes (a b : List Byte) : List Byte := List.zipWith (· ^^^ ·) a b

/-- One word of the key schedule of a 256-bit key: `w` holds the words so far, newest first. -/
def keyWord (i : Nat) (w : List (List Byte)) : List Byte :=
  let t := w.headD []
  let rcon : BitVec 8 := (1#8) <<< (i / 8 - 1)
  let t := if i % 8 = 0 then xorBytes ((t.drop 1 ++ t.take 1).map subByte) [rcon, 0, 0, 0]
           else if i % 8 = 4 then t.map subByte else t
  xorBytes (w.getD 7 []) t
/-- The key schedule, newest word first. -/
def keyWords (key : List Byte) : Nat → List (List Byte)
  | 0 => (List.range 8).reverse.map fun i => slice key (4 * i) 4
  | n + 1 => let w := keyWords key n; keyWord (8 + n) w :: w
/-- The fifteen round keys of a 256-bit key. -/
def roundKeys (key : List Byte) : List (List Byte) :=
  let w := (keyWords key 52).reverse
  (List.range 15).map fun r => (slice w (4 * r) 4).flatten

/-- Byte `i` of a state. -/
def at_ (s : List Byte) (i : Nat) : Byte := s.getD i 0
/-- Rows shifted left by their number. -/
def shiftRows (s : List Byte) : List Byte := (List.range 16).map fun i => at_ s ((i + 4 * (i % 4)) % 16)
/-- Rows shifted back. -/
def invShiftRows (s : List Byte) : List Byte := (List.range 16).map fun i => at_ s ((i + 12 * (i % 4)) % 16)
/-- Columns mixed with the coefficients of one row of the matrix. -/
def mixWith (m : List Nat) (s : List Byte) : List Byte :=
  (List.range 16).map fun i =>
    let c := i / 4 * 4
    let r := i % 4
    (List.range 4).foldl (fun a j => a ^^^ gmul (at_ s (c + j)) (m.getD ((j + 4 - r) % 4) 0) 4) 0
/-- The columns mixed. -/
def mixColumns : List Byte → List Byte := mixWith [2, 3, 1, 1]
/-- The columns mixed back. -/
def invMixColumns : List Byte → List Byte := mixWith [14, 11, 13, 9]

/-- Encrypt one block under round keys. -/
def aesEnc (ks : List (List Byte)) (b : List Byte) : List Byte :=
  match ks with
  | [] => b
  | k :: rest =>
    let s := xorBytes b k
    let s := (rest.dropLast).foldl (fun s k => xorBytes (mixColumns (shiftRows (s.map subByte))) k) s
    xorBytes (shiftRows (s.map subByte)) (rest.getLastD [])
/-- Decrypt one block under round keys. -/
def aesDec (ks : List (List Byte)) (b : List Byte) : List Byte :=
  match ks with
  | [] => b
  | k :: rest =>
    let s := xorBytes b (rest.getLastD [])
    let s := (rest.dropLast).reverse.foldl (fun s k => invMixColumns (xorBytes ((invShiftRows s).map invSubByte) k)) s
    xorBytes ((invShiftRows s).map invSubByte) k

/-- A 256-bit key as its 32 bytes. -/
def keyBytes (k : BitVec 256) : List Byte := natLe 32 k.toNat

/-- Cut a list into blocks of 16, the last one short. -/
def blocks16 (l : List Byte) : List (List Byte) := (List.range ((l.length + 15) / 16)).map fun i => slice l (16 * i) 16
/-- A block padded with zeros. -/
def pad16 (b : List Byte) : List Byte := b ++ List.replicate (16 - b.length) 0

/-! ## GCM -/

/-- One product in the field of GHASH, over 128 bits of `x` from the most significant. -/
def ghashMul (x : BitVec 128) (v z : BitVec 128) : Nat → BitVec 128
  | 0 => z
  | n + 1 => ghashMul x ((v >>> 1) ^^^ (if v.getLsbD 0 then (0xE1#128 <<< 120) else 0)) (if x.getLsbD n then z ^^^ v else z) n
/-- GHASH of blocks under a hash key. -/
def ghash (h : BitVec 128) (bs : List (List Byte)) : BitVec 128 :=
  bs.foldl (fun y b => ghashMul (y ^^^ BitVec.ofNat 128 (beNat (pad16 b))) h 0 128) 0
/-- The key stream applied to data, from a counter. -/
def gctr (ks : List (List Byte)) (iv : List Byte) (c : Nat) (d : List Byte) : List Byte :=
  ((blocks16 d).zipIdx.map fun q => xorBytes q.1 (aesEnc ks (iv ++ natBe 4 (c + q.2)))).flatten
/-- The tag over additional data and ciphertext. -/
def gcmTag (ks : List (List Byte)) (iv aad ct : List Byte) : List Byte :=
  let h := BitVec.ofNat 128 (beNat (aesEnc ks (List.replicate 16 0)))
  let s := ghash h (blocks16 aad ++ blocks16 ct ++ [natBe 8 (8 * aad.length) ++ natBe 8 (8 * ct.length)])
  xorBytes (natBe 16 s.toNat) (aesEnc ks (iv ++ natBe 4 1))
/-- GCM encryption: ciphertext and tag. -/
def gcmEnc (key : BitVec 256) (iv aad pt : List Byte) : List Byte × List Byte :=
  let ks := roundKeys (keyBytes key)
  let ct := gctr ks iv 2 pt
  (ct, gcmTag ks iv aad ct)
/-- GCM decryption; none when the tag does not verify. -/
def gcmDec (key : BitVec 256) (iv aad ct tag : List Byte) : Option (List Byte) :=
  let ks := roundKeys (keyBytes key)
  if gcmTag ks iv aad ct = tag then some (gctr ks iv 2 ct) else none

/-! ## XTS -/

/-- Multiply a tweak, little-endian, by x. -/
def tweakStep (t : BitVec 128) : BitVec 128 := (t <<< 1) ^^^ (if t.msb then 0x87#128 else 0)
/-- The blocks of one data unit under a first tweak. -/
def xtsBlocks (f : List Byte → List Byte) : List (List Byte) → BitVec 128 → List Byte
  | [], _ => []
  | b :: bs, t => let m := natLe 16 t.toNat; xorBytes (f (xorBytes b m)) m ++ xtsBlocks f bs (tweakStep t)
/-- One data unit, whose number is `n`. -/
def xtsUnit (k2 : List (List Byte)) (f : List Byte → List Byte) (n : Nat) (d : List Byte) : List Byte :=
  xtsBlocks f (blocks16 d) (BitVec.ofNat 128 (leNat (aesEnc k2 (natLe 16 n))))
/-- XTS over data units of `u` bytes from data-unit number `n`: encryption when `enc`, with both keys. -/
def xts (enc : Bool) (k1 k2 : BitVec 256) (u n : Nat) (d : List Byte) : List Byte :=
  let a := roundKeys (keyBytes k1)
  let b := roundKeys (keyBytes k2)
  let f := if enc then aesEnc a else aesDec a
  ((List.range (d.length / u)).map fun i => xtsUnit b f (n + i) (slice d (u * i) u)).flatten

/-! ## Key wrap -/

/-- The steps of an unwrap, last first: `t` is the step counter, `a` the check register, `r` the key blocks. -/
def unwrapStep (ks : List (List Byte)) (n : Nat) (a : List Byte) (r : List (List Byte)) : Nat → List Byte × List (List Byte)
  | 0 => (a, r)
  | t + 1 =>
    let i := t % n
    let b := aesDec ks (xorBytes a (natBe 8 (t + 1)) ++ r.getD i [])
    unwrapStep ks n (b.take 8) (r.set i (b.drop 8)) t
/-- Unwrap key material; none when its length or its check value is wrong. -/
def keyUnwrap (kek : BitVec 256) (w : List Byte) : Option (List Byte) :=
  if w.length % 8 ≠ 0 ∨ w.length < 24 then none
  else
    let n := w.length / 8 - 1
    let q := unwrapStep (roundKeys (keyBytes kek)) n (w.take 8) ((List.range n).map fun i => slice w (8 * (i + 1)) 8) (6 * n)
    if q.1 = List.replicate 8 0xA6#8 then some q.2.flatten else none

end Sys2Proof.Machine
end

