-- ==== Sys2Proof/Machine/LftTx.lean ====
section
/-! DEFINITION. What a queue pair sends: its paths, the LFT header, encryption, and the transmit times that make nonces unique
(spec/09 R307, R309, R313, R321, R328; spec/19 R534). -/

namespace Sys2Proof.Machine

/-! ## Queue pairs -/

/-- A queue pair; none when the number is free. -/
def State.qp (s : State) (n : Nat) : Option Qp := SMap.get (fun _ => none) s.lft.qps n
/-- Replace a queue pair. -/
def State.setQp (s : State) (n : Nat) (q : Option Qp) : State := { s with lft.qps := SMap.set (fun _ => none) s.lft.qps n q }
/-- Change a queue pair that exists. -/
def State.modQp (s : State) (n : Nat) (f : Qp → Qp) : State :=
  match s.qp n with
  | some q => s.setQp n (some (f q))
  | none => s

/-- 32-bit serial arithmetic: the distance from `b` forward to `a` (R310). -/
def psnDiff (a b : Nat) : Nat := (a + 2 ^ 32 - b % 2 ^ 32) % 2 ^ 32
/-- `a` is after `b` (R310). -/
def psnAfter (a b : Nat) : Bool := decide (1 ≤ psnDiff a b) && decide (psnDiff a b < 2 ^ 31)
/-- The PSN `n` further on. -/
def psnAdd (a n : Nat) : Nat := (a + n) % 2 ^ 32

/-- Payload bytes of an MTU code (Table 9.1). -/
def mtuBytes (c : Nat) : Nat := 1024 * 2 ^ c
/-- The packets of a message. -/
def packetsOf (len mtu : Nat) : Nat := (len + mtuBytes mtu - 1) / mtuBytes mtu

/-! ## Packets (R307, Table 9.3) -/

/-- The nonce: TX_TIME, then PSN (R313). -/
def lftNonce (p : LftPkt) : List Byte := natBe 8 p.txTime ++ natBe 4 p.psn

/-- A packet with every field zero but the version, the opcode and the PSN. -/
def lftBlank (opcode psn : Nat) : LftPkt :=
  { src := 0, dst := 0, tclass := 0, sport := 0, csumOk := true, verMajor := 1, verMinor := 0, opcode := opcode, flags := 0, destQpn := 0,
    srcQpn := 0, psn := psn, msgPsn := 0, txTime := 0, msgLen := 0, msgOffset := 0, raddr := 0, rkey := 0, payloadLen := 0, epoch := 0,
    payload := [], tag := [] }
/-- A packet with a payload. -/
def withPayload (p : LftPkt) (d : List Byte) : LftPkt := { p with payload := d, payloadLen := d.length }

/-- The source port of a path (R307). -/
def lftSport (qpn path : Nat) : Nat := 0xC000 + (qpn % 65536 * 8 + path) % 16384

/-- The next active path of a queue pair in turn: its index and itself (R328). -/
def State.nextPath (s : State) (q : Qp) : Option (Nat × LftPath) :=
  ((List.range q.a.paths.length).map fun i => (q.path + i) % q.a.paths.length).findSome? fun i =>
    match q.a.paths[i]? with
    | some x => if s.portUp x.port then some (i, x) else none
    | none => none

/-- Encrypt a packet of a queue pair with ENC set: none when its transmit slot holds no GCM key (log entry 32). -/
def State.sealPkt (s : State) (q : Qp) (p : LftPkt) : Option LftPkt :=
  if q.a.enc = false then some p
  else
    let p := { p with epoch := q.txEpoch % 65536, flags := p.flags ||| 4 }
    match (SMap.get (fun _ => none) s.keys.slots q.a.txSlot : Option KeySlot) with
    | some k =>
      if k.xts then none
      else
        let r := gcmEnc k.k1 (lftNonce p) (lftHeader p) p.payload
        some { p with payload := r.1, tag := r.2 }
    | none => none

/-- Nothing is sent in time state FREE, or by a device FENCED or DIVERGED (R321, R494, R497). -/
def State.lftQuiet (s : State) : Bool := s.fld R.ftState == 0 || s.fld R.twinState == 5 || s.fld R.twinState == 6

/-- Send a packet of a queue pair on its next active path; none when it cannot be sent now. -/
def State.lftSend (s : State) (n : Nat) (p : LftPkt) : Option State :=
  match s.qp n with
  | none => none
  | some q =>
    if s.lftQuiet || !s.txCeilOk q.owner then none
    else match s.nextPath q with
      | none => none
      | some (i, x) =>
        let tx := max s.time.now (q.lastTx + 1)
        let p := { p with src := x.addr, dst := x.peer, tclass := q.a.trafficClass, sport := lftSport n i, destQpn := q.a.peerQpn,
                          srcQpn := n % 65536, txTime := tx }
        match s.sealPkt q p with
        | none => none
        | some p =>
          let f := Frame.lft p
          let s := s.setQp n (some { q with lastTx := tx, path := (i + 1) % q.a.paths.length })
          let s := s.txCeilCharge q.owner (s.egFrame x.port f).wire
          let s := s.tally q.owner 6 p.payload.length
          some (s.sendFrame x.port (s.classQueue x.port (q.a.trafficClass / 32)) f)

/-- A queue pair can send now: its source is not quiet, its ceiling has tokens, and a path is active. -/
def State.lftCan (s : State) (q : Qp) : Bool := !s.lftQuiet && s.txCeilOk q.owner && (s.nextPath q).isSome
/-- A packet joins those that wait; an ACK or a HELLO takes the place of an older one. -/
def Qp.wait (q : Qp) (p : LftPkt) : Qp :=
  { q with waits := (if p.opcode = 4 ∨ 6 ≤ p.opcode then q.waits.filter (fun x => x.opcode != p.opcode) else q.waits) ++ [p] }
/-- Send a packet, behind those that wait already; while the queue pair cannot send, it waits (R328, R534). -/
def State.lftTry (s : State) (n : Nat) (p : LftPkt) : State :=
  match s.qp n with
  | none => s
  | some q => if q.waits.isEmpty && s.lftCan q then (s.lftSend n p).getD s else s.setQp n (some (q.wait p))
/-- Send the packets that wait, in order, while the queue pair can send. -/
def State.lftDrain (s : State) (n : Nat) : Nat → State
  | 0 => s
  | k + 1 =>
    match s.qp n with
    | none => s
    | some q =>
      match q.waits with
      | [] => s
      | p :: rest =>
        if s.lftCan q then
          let s := s.setQp n (some { q with waits := rest })
          ((s.lftSend n p).getD s).lftDrain n k
        else s

/-- Send an ACK (Table 9.4) of a READY queue pair (R325). The bitmap's most significant byte comes first (DESIGN CHOICE, log entry 168: R7 fixes the order of header fields only). -/
def State.lftAckOut (s : State) (n cum sack : Nat) : State :=
  match s.qp n with
  | some q => if q.st = .ready then s.lftTry n (withPayload (lftBlank 4 cum) (natBe 8 sack)) else s
  | none => s

end Sys2Proof.Machine
end

