-- ==== Sys2Proof/Machine/Rings.lean ====
section
/-! DEFINITION. Host rings, their completions and interrupts, the checks of quota and Rind windows, the control descriptor's shared checks, and
the holding of commitments for the twin (spec/18 R507 to R521; spec/19 R529; spec/20 R547 to R550; spec/17 R486 to R489). -/

namespace Sys2Proof.Machine

/-! ## Windows (R529, R547) -/

/-- Every page of an extent lies in one of the page windows, each a first and a last page. -/
def covered (wins : List (Nat × Nat)) (addr len : Nat) : Bool :=
  (List.range ((addr + len - 1) / 4096 - addr / 4096 + 1)).all fun i => wins.any fun w => w.1 ≤ addr / 4096 + i && addr / 4096 + i ≤ w.2

/-- The page windows enabled in four or eight pairs of 64-bit BASE and LIMIT words. -/
def pageWins (c : Csr) (keys : List Nat) : List (Nat × Nat) :=
  (keys.filter fun k => (c.get k).toNat % 2 == 1).map fun k => (c.get64 k / 4096, c.get64 (k + 8) / 4096)

/-- The host part of an instance's DMA window, in effect (R529). -/
def State.dmaWins (s : State) (n : Nat) : List (Nat × Nat) := pageWins s.quota ((List.range 4).map fun r => R.instKey n + 16 * r)
/-- The Rind's host DMA windows. -/
def State.hdmaWins (s : State) : List (Nat × Nat) := pageWins s.csr ((List.range 8).map R.rindHdma)
/-- The Rind's DMA windows of accelerator port k. -/
def State.admaWins (s : State) (k : Nat) : List (Nat × Nat) := pageWins s.csr ((List.range 4).map (R.rindAdma k))

/-- A whole extent lies in one page window (R546). -/
def inOne (wins : List (Nat × Nat)) (addr len : Nat) : Bool :=
  wins.any fun w => w.1 ≤ addr / 4096 && (addr + len - 1) / 4096 ≤ w.2

/-- A host extent an instance may reach: in the union of its ranges, and in one Rind window. -/
def State.hostOk (s : State) (n addr len : Nat) : Bool := covered (s.dmaWins n) addr len && inOne s.hdmaWins addr len
/-- An accelerator extent the device may reach on port k. -/
def State.accOk (s : State) (k addr len : Nat) : Bool := inOne (s.admaWins k) addr len

/-- The slice of an instance, in effect: first byte and length (R529). -/
def State.instSlice (s : State) (n : Nat) : Nat × Nat :=
  let w := (s.quota.get (R.instKey n + 0x40)).toNat
  (bits w 0 10 * 2 ^ 28, bits w 16 10 * 2 ^ 28)
/-- A working-partition extent touches a resident region (R435). -/
def State.inRegion (s : State) (addr len : Nat) : Bool :=
  (List.range 4).any fun k =>
    let a := k * s.workBytes + s.fld (R.rsBase k) * mib
    let n := s.fld (R.rsLen k) * mib
    decide (addr < a + n) && decide (a < addr + len)
/-- A working-partition extent of an instance's slice, clear of the resident regions. -/
def State.sliceOk (s : State) (n addr len : Nat) : Bool :=
  (s.instSlice n).1 ≤ addr && addr + len ≤ (s.instSlice n).1 + (s.instSlice n).2 && addr + len ≤ s.workTop && !s.inRegion addr len
/-- The firmware-reserved span in bytes. -/
def State.fwSpan (s : State) : Nat × Nat := (s.fld R.rindFwresBase * mib, s.fld R.rindFwresLen * mib)
/-- An extent touches the firmware-reserved span. -/
def State.inFwSpan (s : State) (addr len : Nat) : Bool := addr < s.fwSpan.1 + s.fwSpan.2 && s.fwSpan.1 < addr + len
/-- An instance owns a key slot, in effect (R532). -/
def State.ownsSlot (s : State) (n slot : Nat) : Bool :=
  let w := (s.quota.get (R.instKey n + 0x44)).toNat
  bits w 0 12 ≤ slot && slot < bits w 0 12 + bits w 16 13

/-! ## Rings (R507 to R514) -/

/-- A ring of an instance. -/
def State.ring (s : State) (n r : Nat) : Ring := SMap.get (fun _ => Ring.zero) s.rings (n * 64 + r)
/-- Replace a ring. -/
def State.setRing (s : State) (n r : Nat) (x : Ring) : State := { s with rings := SMap.set (fun _ => Ring.zero) s.rings (n * 64 + r) x }
/-- Change a ring. -/
def State.modRing (s : State) (n r : Nat) (f : Ring → Ring) : State := s.setRing n r (f (s.ring n r))

/-- Completion slots the host has not released. -/
def Ring.used (r : Ring) : Nat := r.posted - r.released
/-- The next completion slot. -/
def Ring.slot (r : Ring) : Nat := if r.cqN = 0 then 0 else r.posted % r.cqN
/-- PHASE of the next completion: 1 in the first pass (R512). -/
def Ring.phase (r : Ring) : Nat := if r.cqN = 0 then 0 else (1 + r.posted / r.cqN) % 2
/-- The ring's head. -/
def Ring.head (r : Ring) : Nat := if r.sqN = 0 then 0 else r.taken % r.sqN

/-- A request blocked by the Rind: counted and logged (R547). -/
def State.rindBlock (s : State) (protocol status : Nat) : State :=
  (s.incFld R.rindBlocked).violate 5 0 protocol status 10 0 0

/-- Vectors of an instance's MSI-X table (R503). -/
def msixVecs (n : Nat) : Nat := if n = 0 then 2048 else 64
/-- Issue the MSI-X message of a vector, inside the Rind's host windows only (Table 20.4). -/
def State.msixSend (s : State) (n vec : Nat) : State :=
  let a := s.csr.get64 (R.msixKey n vec)
  let s := s.setFld (R.msixPend n vec) 0
  if inOne s.hdmaWins a 4 then s.emit (.msix n vec a (s.csr.get (R.msixKey n vec + 8)).toNat) else s.rindBlock 14 0xFF
/-- Signal a vector of an instance (R519): a masked vector stays pending. A lost twin's instance signals through its own host's table, which
this device does not hold. -/
def State.signal (s : State) (n vec : Nat) : State :=
  if 64 ≤ n then s.emit (.msix n vec 0 0)
  else if msixVecs n ≤ vec then s
  else if s.flag (R.msixMask n vec) then s.setFld (R.msixPend n vec) 1
  else s.msixSend n vec

/-- A violation charged to an instance (R520, LHQI_VIOL). -/
def State.violInst (s : State) (n status reason ctx0 ctx1 : Nat) : State :=
  ((s.violate 0 n 1 status reason ctx0 ctx1).incFld (R.lhqiViol n)).tally n 8 1

/-- A ring enters ERROR: it stops taking, LHQI_RING_ERR is set, and the vector of ring 0 is signalled (Table 18.6). -/
def State.ringError (s : State) (n r : Nat) : State :=
  ((s.modRing n r fun x => { x with st := .error }).setFld (R.lhqiRingErr n r) 1).signal n (s.fld (R.lhqiVec n))

/-- The bytes of a completion (Table 18.5). -/
def cplBytes (tag status phase notify gen head r1 r2 : Nat) : List Byte :=
  natLe 2 tag ++ natLe 1 status ++ natLe 1 (phase + 2 * notify) ++ natLe 2 gen ++ natLe 2 head ++ natLe 4 r1 ++ natLe 4 r2

/-- Count a completion written, and signal the vector when COAL_COUNT asks for it (R519). -/
def State.coalesce (s : State) (n r : Nat) : State :=
  let x := s.ring n r
  let u := x.unsig + 1
  if x.coalCount ≤ u then (s.setRing n r { x with unsig := 0 }).signal n x.vec
  else s.setRing n r { x with unsig := u, firstUnsig := if x.unsig = 0 then s.time.now else x.firstUnsig }

/-- Write a completion in the next slot of a ring. -/
def State.putCpl (s : State) (n r : Nat) (tag status notify head r1 r2 : Nat) : State :=
  let x := s.ring n r
  let s := s.emit (.hostWrite n (x.cqBase + 16 * x.slot) (cplBytes tag status x.phase notify x.gen head r1 r2))
  ((s.setRing n r { x with posted := x.posted + 1 }).tally n 1 1).coalesce n r

/-- The deferred-error bits of the next completion of a BLOCK ring, and the errors left (R409). -/
def takeDeferred (acc : Bool) (n r : Nat) (l : List DeferE) : Nat × List DeferE :=
  let mine := l.filter fun d => d.acc == acc && d.inst == n && d.ring == r
  match mine with
  | [] => (0, l)
  | d :: rest => (1 + (if rest.isEmpty then 0 else 2) + d.index % 65536 * 65536, l.erase d)

/-- Work of a ring has ended: its place is free, and a COMMIT that waited for it may have nothing left to wait for (R531). -/
def State.workEnd (s : State) (w : Work) : State :=
  let s := s.modRing w.inst w.ring fun x => { x with live := x.live.erase w.ix }
  if s.inst.pend.contains (w.inst, w.ring, w.ix) then
    let s := { s with inst.pend := s.inst.pend.erase (w.inst, w.ring, w.ix) }
    if s.inst.pend.any fun p => p.1 == w.inst then s else s.setFld (R.instPending w.inst) 0
  else s

/-- The completion of a taken descriptor: the work ends; the completion is written if the ring still takes completions of that
generation (R512, R526, Table 18.6). -/
def State.ringCpl (s : State) (w : Work) (status r1 r2 : Nat) : State :=
  let x := s.ring w.inst w.ring
  if x.gen ≠ w.gen ∨ x.st = .none then s
  else
    let live := x.st = .active ∨ x.st = .error
    let s := s.workEnd w
    if live then
      let d := if x.typ = 1 then takeDeferred false w.inst w.ring s.deferred else (0, s.deferred)
      let u := if x.typ = 1 ∧ status ≠ 3 then [TagUse.mk false w.inst w.ring w.tag x.posted] else []
      { s with deferred := d.2, blk.tags := s.blk.tags ++ u }.putCpl w.inst w.ring w.tag status 0 x.head (r1 + d.1) r2
    else s

/-- A taken descriptor ends without a completion: its work was discarded (Table 9.5). -/
def State.ringDrop (s : State) (w : Work) : State :=
  if (s.ring w.inst w.ring).gen = w.gen then s.workEnd w else s

/-! ## Accelerator queues (R276, R399, R422) -/

/-- The index of a window: ports 8 to 15 are the windows of a lost twin, as it mirrored them (R300). -/
def winIx (k : WinKind) (port : Nat) : Fin 48 :=
  match k with
  | .feed => ⟨port % 8 + (if port < 8 then 0 else 24), by split <;> omega⟩
  | .block => ⟨8 + port % 8 + (if port < 8 then 0 else 24), by split <;> omega⟩
  | .decode => ⟨16 + port % 8 + (if port < 8 then 0 else 24), by split <;> omega⟩
/-- A window. -/
def State.win (s : State) (k : WinKind) (port : Nat) : AccWin := s.wins[winIx k port]
/-- Change a window. -/
def State.modWin (s : State) (k : WinKind) (port : Nat) (f : AccWin → AccWin) : State :=
  { s with wins := s.wins.set (winIx k port).val (f (s.win k port)) }
/-- A queue of a window. -/
def State.accQ (s : State) (k : WinKind) (port q : Nat) : AccQ := (s.win k port).qs[q % 8]'(Nat.mod_lt _ (by decide))
/-- Change a queue. -/
def State.modAccQ (s : State) (k : WinKind) (port q : Nat) (f : AccQ → AccQ) : State :=
  s.modWin k port fun w => { w with qs := w.qs.set (q % 8) (f (w.qs[q % 8]'(Nat.mod_lt _ (by decide)))) (Nat.mod_lt _ (by decide)) }
/-- The queue takes completions: it is OPEN, or in ERROR where only taking stops (Table 8.7; not for decode, R422). -/
def AccQ.live (k : WinKind) (q : AccQ) : Bool := q.st == 1 || (q.st == 2 && k != .decode)
/-- The queue can take a completion now: it has a completion ring with a free slot. -/
def AccQ.canPost (k : WinKind) (q : AccQ) : Bool := q.live k && q.cqBase != 0 && decide (q.posted - q.released < q.cqN)

/-- A completion's 16 bytes with PHASE set in bit 0 of byte 3. -/
def withPhase (body : List Byte) (p : Nat) : List Byte := body.take 3 ++ [(body[3]?.getD 0) ||| BitVec.ofNat 8 p] ++ body.drop 4

/-- Write a completion in the next slot of an accelerator queue. -/
def State.putAcc (s : State) (k : WinKind) (port q : Nat) (body : List Byte) : State :=
  let x := s.accQ k port q
  let s := s.emit (.accelWrite (port % 8) (x.cqBase + 16 * (x.posted % x.cqN)) (withPhase body ((1 + x.posted / x.cqN) % 2)))
  s.modAccQ k port q fun x => { x with posted := x.posted + 1 }

/-! ## Commitments (R489) -/

/-- The completion of a cached WRITE as its ring's or queue's (Table 13.7). -/
def Commit.plain : Commit → Commit
  | .write o => match o.owner with
    | .ring w => .ring w 0 0 0
    | .acc p q g => .acc .block p q g (natLe 2 o.b.tag ++ [0, 0] ++ natLe 2 g ++ [0, 0] ++ natLe 4 0 ++ [0, 0, 0, 0])
    | _ => .send []
  | c => c

/-- A commitment that waits: a completion whose accelerator queue cannot take it yet, or a notify whose ring is full (R276, R513). -/
def State.canCommit (s : State) (c : Commit) : Bool :=
  match c.plain with
  | .acc k port q gen _ => if (s.win k port).gen = gen ∧ (s.accQ k port q).live k then (s.accQ k port q).canPost k else true
  | .notify inst ring _ _ _ => decide ((s.ring inst ring).used < (s.ring inst ring).cqN) || (s.ring inst ring).st != .active
  | _ => true

/-- Commitments await the twin's confirmation in this state (R489, R493, R494): PAIRED, SUSPECT, JOINING and FENCED. -/
def State.held (s : State) : Bool := s.fld R.twinState == 1 || s.fld R.twinState == 2 || s.fld R.twinState == 4 || s.fld R.twinState == 5

/-- Send a MIRROR record (R486, R488). With no twin to mirror to, nothing is sent. -/
def State.mirror (s : State) (m : MirItem) : State :=
  if s.held then
    let q := (s.twin.seq + 1) % 2 ^ 32
    let s := { s with twin.seq := q, twin.unconf := s.twin.unconf ++ [MirSent.mk q m] }
    let s := s.setFld R.twinLag (min s.twin.unconf.length 65535)
    if s.stewardGone 6 then { s with twin.unsent := s.twin.unsent ++ [(q, m)] } else s.emit (.mirror q m)
  else s

/-- Mirror a ring as it stands, and an accelerator queue (Table 17.2). -/
def State.mirRing (s : State) (n r : Nat) : State := s.mirror (.ring n r (s.ring n r))
def State.mirQueue (s : State) (k : WinKind) (port q : Nat) : State := s.mirror (.queue k port q (s.win k port).gen (s.accQ k port q))

/-- A write of whole blocks takes them off the failed-range list. -/
def clearFailed (vol lba n : Nat) (l : List (Nat × Nat × Nat)) : List (Nat × Nat × Nat) :=
  l.flatMap fun f =>
    if f.1 ≠ vol ∨ f.2.1 + f.2.2 ≤ lba ∨ lba + n ≤ f.2.1 then [f]
    else (if f.2.1 < lba then [(vol, f.2.1, lba - f.2.1)] else []) ++
      (if lba + n < f.2.1 + f.2.2 then [(vol, lba + n, f.2.1 + f.2.2 - (lba + n))] else [])
/-- A write completes: the blocks it covers leave the failed-range list (R410). -/
def State.failClear (s : State) (vol lba n : Nat) : State :=
  let l := clearFailed vol lba n s.blk.failed
  if l = s.blk.failed then s else ({ s with blk.failed := l }.setFld R.failedRanges l.length).mirror (.failedRange vol lba n false)

/-- Make a commitment. A completion of an accelerator queue of an earlier generation, or no longer open, is discarded (R278). -/
def State.doCommit (s : State) (c : Commit) : State :=
  let s := match c with | .write o => s.failClear o.b.vol o.b.lba o.b.nlb | _ => s
  match c.plain with
  | .ring w st r1 r2 => s.ringCpl w st r1 r2
  | .notify inst ring qpn len psn =>
    let s := { s with lft.notified := s.lft.notified ++ [(qpn, psn)] }
    if (s.ring inst ring).st = .active then s.putCpl inst ring 0xFFFF 0 1 qpn len psn else s
  | .acc k port q gen body =>
    if (s.win k port).gen = gen ∧ (s.accQ k port q).canPost k then
      let d := if k = .block then takeDeferred true port q s.deferred else (0, s.deferred)
      let body := if k = .block then body.take 8 ++ natLe 4 (leNat (slice body 8 4) + d.1) ++ body.drop 12 else body
      let u := if k = .block ∧ (slice body 2 1).map (·.toNat) ≠ [3] then
          [TagUse.mk true port q (leNat (body.take 2)) (s.accQ k port q).posted] else []
      { s with deferred := d.2, blk.tags := s.blk.tags ++ u }.putAcc k port q body
    else s
  | .ack n cum sack => s.lftAckOut n cum sack
  | .send es => s.emits es
  | .write _ => s

/-- Make the commitments at the front of the held list whose record is confirmed, up to SEQ `upTo`, skipping those whose queue is full. -/
def State.release (s : State) (upTo : Nat) : State :=
  s.twin.held.foldl (fun s h =>
    if h.1 ≤ upTo ∧ s.canCommit h.2 then ({ s with twin.held := s.twin.held.erase h }).doCommit h.2 else s) s

/-- Make a commitment of a class once the twin has confirmed the record that describes it (R489). -/
def State.commit (s : State) (cls : Nat) (c : Commit) : State :=
  if s.held then
    let s := s.mirror (.other cls)
    { s with twin.held := s.twin.held ++ [(s.twin.seq, c)] }
  else if s.canCommit c then s.doCommit c
  else { s with twin.held := s.twin.held ++ [(s.twin.applied, c)] }

/-- Queues or rings gained room: commitments that waited only for it are made. -/
def State.retryHeld (s : State) : State :=
  let confirmed := match s.twin.unconf with | [] => s.twin.seq | m :: _ => m.seq - 1
  if s.held then (if s.fld R.twinState = 1 ∨ s.fld R.twinState = 4 then s.release confirmed else s) else s.release (2 ^ 32)

/-! ## Taking descriptors (R511) and the checks of a control descriptor (R515 to R517) -/

/-- Take the next descriptor of a ring of a type: READY, the instance resident (R37), the ring ACTIVE, a descriptor announced, and free
completion slots outnumbering the running ones. -/
def State.take (s : State) (n r typ tag : Nat) : Option (State × Work) :=
  let x := s.ring n r
  if s.flag (R.lhqiReady n) ∧ s.flag (R.instResident n) ∧ !(typ == 0 && s.stewardGone 1) ∧ !(typ == 5 && s.stewardGone 7) ∧ x.st = .active ∧ x.typ = typ ∧ x.taken < x.tail ∧
    x.live.length + x.used < x.cqN ∧ s.fld R.twinState ≠ 5 ∧ s.fld R.twinState ≠ 6 then
    some ((s.setRing n r { x with taken := x.taken + 1, live := x.live ++ [x.taken] }).tally n 0 1,
      { inst := n, ring := r, tag := tag, gen := x.gen, ix := x.taken })
  else none

/-- The index of the descriptor a ring took last. -/
def State.descIx (s : State) (n r : Nat) : Nat := let x := s.ring n r; if x.sqN = 0 then 0 else (x.taken - 1) % x.sqN

/-- What a control operation ends with: state, status, RESULT, RESULT2, its output bytes, and whether it completes later. -/
structure CtlRes where
  s : State
  status : Nat
  r1 : Nat
  r2 : Nat
  out : List Byte
  later : Bool

/-- A status alone. -/
def CtlRes.fail (s : State) (status : Nat) : CtlRes := { s := s, status := status, r1 := 0, r2 := 0, out := [], later := false }
/-- Success. -/
def CtlRes.ok (s : State) : CtlRes := CtlRes.fail s 0
/-- Success with a result. -/
def CtlRes.val (s : State) (r1 : Nat) : CtlRes := { CtlRes.ok s with r1 := r1 }
/-- It completes later. -/
def CtlRes.wait (s : State) : CtlRes := { CtlRes.ok s with later := true }

/-- The REASON recorded with a status of Table 18.9 that is a violation. -/
def ctlReason (st : Nat) : Option Nat :=
  if st = 0xE0 then some 1 else if st = 0xE1 then some 5 else if st = 0xE2 then some 6 else if st = 0xE3 then some 10
  else if st = 0xE4 then some 4 else if st = 0xD6 then some 11 else none

/-- The first failed check of the descriptor itself, in code order (Table 18.9). -/
def State.ctlCheck (s : State) (n : Nat) (h : CtlHdr) (pf : Bool) (plen outNeed : Nat) : Option Nat :=
  if h.rsv then some 0xE1
  else if pf ∧ n ≠ 0 then some 0xE2
  else if h.paramAddr % 8 ≠ 0 ∨ h.outAddr % 8 ≠ 0 ∨ (h.paramLen = 0 ∧ h.paramAddr ≠ 0) ∨ h.outLen < outNeed ∨
    (h.paramLen ≠ 0 ∧ !s.hostOk n h.paramAddr h.paramLen) ∨ (h.outLen ≠ 0 ∧ !s.hostOk n h.outAddr h.outLen) then some 0xE3
  else if h.paramLen ≠ (plen + 7) / 8 * 8 ∨ 2 ^ 20 < h.paramLen then some 0xE4
  else if plen ≠ 0 ∧ !h.readOk then some 0xE5
  else none

/-- Carry out a control operation: take its descriptor, check it, run it, write its output and complete it. The mirror class of its
commitment is `cls`. -/
def State.controlW (s : State) (i : InstId) (r : Fin 64) (h : CtlHdr) (pf : Bool) (plen outNeed cls : Nat)
    (body : State → Work → CtlRes) : State :=
  match s.take i.val r.val 0 h.tag.toNat with
  | none => s
  | some (t, w) =>
    let res := match t.ctlCheck i.val h pf plen outNeed with
      | some st => CtlRes.fail t st
      | none => body t w
    if res.later then res.s
    else
      let res := if res.status = 0 ∧ !res.out.isEmpty ∧ !h.writeOk then CtlRes.fail res.s 0xE5 else res
      let u := if res.status = 0 ∧ !res.out.isEmpty then res.s.emit (.hostWrite i.val h.outAddr res.out) else res.s
      let u := match ctlReason res.status with
        | some reason => u.violInst i.val res.status reason r.val (u.descIx i.val r.val)
        | none => u
      u.commit cls (.ring w res.status res.r1 res.r2)

/-- A control operation that completes at once. -/
def State.control (s : State) (i : InstId) (r : Fin 64) (h : CtlHdr) (pf : Bool) (plen outNeed cls : Nat) (body : State → CtlRes) :
    State :=
  s.controlW i r h pf plen outNeed cls fun t _ => body t

/-- A control operation of an instance, or one a Steward issues directly, as owner 64 (R302). -/
def State.ctlOp (s : State) (c : CtlSrc) (pf : Bool) (plen outNeed cls : Nat) (body : State → Nat → Option Work → Nat → CtlRes) : State :=
  match c with
  | .host i r h => s.controlW i r h pf plen outNeed cls fun t w => body t i.val (some w) 8
  | .steward n =>
    let res := body s 64 none n.val
    if res.later then res.s else res.s.emit (.toSteward n.val 0 res.status res.r1)

end Sys2Proof.Machine
end

