-- ==== Sys2Proof/Machine/Windows.lean ====
section
/-! DEFINITION. The feed, block and decode windows of the accelerator ports: opening and closing, doorbells, and the ports' links (spec/08
R270 to R278; spec/13 R399; spec/14 R421; spec/18 R522, R523). -/

namespace Sys2Proof.Machine

/-- Queues of a window: eight of a feed, four of the others. -/
def winQueues (k : WinKind) : Nat := match k with | .feed => 8 | .block => 4 | .decode => 4
/-- The most submission entries of a queue. -/
def winMaxSq (k : WinKind) : Nat := match k with | .feed => 1024 | .block => 128 | .decode => 128
/-- The offset of entry `i` of queue q's submission ring. -/
def winEntryOff (k : WinKind) (q i : Nat) : Nat := match k with
  | .feed => 0x80000 + 0x10000 * q + 64 * i
  | .block => 0x8000 + 0x2000 * q + 64 * i
  | .decode => 0x8000 + 0x2000 * q + 64 * i
/-- The PROTOCOL of a window's violations (Table 18.11). -/
def winProto (k : WinKind) : Nat := match k with | .feed => 2 | .block => 3 | .decode => 4

/-- A byte of a window the accelerator may write: its fields of the HELLO, the doorbells, and the submission rings (Tables 8.2, 8.3). -/
def winWritable (k : WinKind) (o : Nat) : Bool :=
  o == 0 || o == 1 || o == 5 || (16 ≤ o && o < 144 && o % 16 < 12) ||
  (List.range (winQueues k)).any fun q =>
    (0x1000 + 0x1000 * q ≤ o && o < 0x1008 + 0x1000 * q) ||
    (winEntryOff k q 0 ≤ o && o < winEntryOff k q (winMaxSq k))

/-- Accelerator writes land in the writable bytes. -/
def AccWin.write (w : AccWin) (k : WinKind) (ws : WinWrites) : AccWin :=
  { w with mem := ws.foldl (fun m x => if winWritable k x.1 then m.set x.1 x.2 else m) w.mem }

/-- A little-endian field of a window. -/
def AccWin.fld (w : AccWin) (o n : Nat) : Nat := leNat (w.mem.bytes o n)
/-- Set a device-written field. -/
def AccWin.setFld (w : AccWin) (o n v : Nat) : AccWin := { w with mem := w.mem.put o (natLe n v) }

/-- A queue record breaks Table 8.3. -/
def AccWin.badRec (w : AccWin) (k : WinKind) (q : Nat) : Bool :=
  let o := 16 + 16 * q
  let base := w.fld o 8
  base != 0 && (base % 16 != 0 || w.fld (o + 8) 2 < 2 || winMaxSq k < w.fld (o + 8) 2 || w.fld (o + 10) 2 == 1)

/-- The queue a record opens; with CQ_BASE 0 it stays CLOSED. -/
def AccWin.openQ (w : AccWin) (q : Nat) : AccQ :=
  let o := 16 + 16 * q
  let n := w.fld (o + 10) 2
  if w.fld o 8 = 0 then AccQ.zero
  else { AccQ.zero with st := 1, cqBase := w.fld o 8, sqN := w.fld (o + 8) 2, cqN := if n = 0 then 65536 else n }

/-- Some queue is not CLOSED. -/
def AccWin.isOpen (w : AccWin) : Bool := w.fld 4 1 != 0

/-- WINDOW_HELLO_OPEN (R272): a refusal leaves STATE CLOSED with CMD_STATUS VERSION or BAD_FIELD; an acceptance advances FEED_GEN and
opens the queues whose records are enabled. -/
def execWindowHelloOpen (k : WinKind) (port : Fin 8) (ws : WinWrites) (s : State) : Out :=
  let s := s.modWin k port.val fun w => w.write k ws
  let s := if k = .block then { s with blk.tags := s.blk.tags.filter fun u => !(u.acc && u.inst == port.val) } else s
  let w := s.win k port.val
  if s.fld (R.accLinkUp port.val) = 0 then .next s
  else if w.isOpen then .next (s.modWin k port.val fun w => (w.setFld 5 1 0).setFld 8 1 0)
  else
    let refuse := fun (st reason : Nat) =>
      (s.modWin k port.val fun w => (w.setFld 5 1 0).setFld 8 1 st).violate 1 port.val (winProto k) st reason 0 0
    if w.fld 0 1 ≠ 1 then .next (refuse 0x0A 3)
    else if (List.range (winQueues k)).any (w.badRec k) then .next (refuse 0x02 5)
    else
      .next (s.modWin k port.val fun w =>
        let g := (w.gen + 1) % 65536
        let qs := Vector.ofFn fun (i : Fin 8) => if i.val < winQueues k then w.openQ i.val else AccQ.zero
        { ((((w.setFld 5 1 0).setFld 8 1 0).setFld 4 1 1).setFld 6 2 g) with gen := g, rr := 0, qs := qs })

/-- The queues of a window close: untaken entries are discarded, and the completions of taken ones with them (Table 8.7). CMD_STATUS is that of
the last command (Table 8.3). -/
def AccWin.close (w : AccWin) : AccWin := { ((w.setFld 4 1 0).setFld 5 1 0).setFld 8 1 0 with qs := Vector.replicate 8 AccQ.zero }

/-- What a read of a window returns: its current contents (R270). -/
def State.winRead (s : State) (k : WinKind) (port o n : Nat) : List Byte := (s.win k port).mem.bytes o n
/-- A doorbell written stands in the window: SQ_TAIL at +0 of its queue's doorbell, CQ_HEAD at +4 (Table 8.2). -/
def AccWin.ring (w : AccWin) (q o v : Nat) : AccWin := w.setFld (0x1000 + 0x1000 * q + o) 2 v

/-- WINDOW_HELLO_CLOSE. -/
def execWindowHelloClose (k : WinKind) (port : Fin 8) (s : State) : Out := .next (s.modWin k port.val AccWin.close).retryHeld

/-- A queue enters ERROR. -/
def State.accError (s : State) (k : WinKind) (port q value : Nat) : State :=
  ((s.modAccQ k port q fun x => { x with st := 2 }).modWin k port fun w => w.setFld 4 1 2).violate 1 port (winProto k) 0xFF 5 q value

/-- WINDOW_SQ_DOORBELL (Table 8.7). -/
def execWindowSqDoorbell (k : WinKind) (port : Fin 8) (q : Fin 8) (ws : WinWrites) (tail : BitVec 16) (s : State) : Out :=
  let s := s.modWin k port.val fun w => let w := w.write k ws; if q.val < winQueues k then w.ring q.val 0 tail.toNat else w
  let x := s.accQ k port.val q.val
  if winQueues k ≤ q.val ∨ x.st ≠ 1 then .next (s.violate 1 port.val (winProto k) 0xFF 7 q.val tail.toNat)
  else if x.sqN ≤ tail.toNat then .next (s.accError k port.val q.val tail.toNat)
  else .next (s.modAccQ k port.val q.val fun x => { x with tail := x.taken + (tail.toNat + x.sqN - x.taken % x.sqN) % x.sqN })

/-- WINDOW_CQ_DOORBELL (R276, Table 8.7). -/
def execWindowCqDoorbell (k : WinKind) (port : Fin 8) (q : Fin 8) (head : BitVec 16) (s : State) : Out :=
  let s := s.modWin k port.val fun w => if q.val < winQueues k then w.ring q.val 4 head.toNat else w
  let x := s.accQ k port.val q.val
  if winQueues k ≤ q.val ∨ x.st = 0 then .next (s.violate 1 port.val (winProto k) 0xFF 7 q.val head.toNat)
  else if x.cqN ≤ head.toNat then .next (s.accError k port.val q.val head.toNat)
  else
    .next (s.modAccQ k port.val q.val fun x =>
      { x with released := x.released + (head.toNat + x.cqN - x.released % x.cqN) % x.cqN }).retryHeld

/-- FEED_WINDOW_BAD_WRITE: a write outside the writable regions is discarded and recorded (R270). -/
def execFeedWindowBadWrite (port : Fin 8) (off value : Nat) (s : State) : Out := .next (s.violate 1 port.val 2 0xFF 8 off value)

/-- ACCEL_LINK_DOWN: the queues of the port's windows close as by CMD = CLOSE; a surprise down or uncorrectable error sets DPC
(R278, Table 18.12). -/
def execAccelLinkDown (port : Fin 8) (dpc : Bool) (s : State) : Out :=
  let s := (s.setFld (R.accLinkUp port.val) 0).setFld ⟨R.accKey port.val, 8, 1⟩ 0
  let s := if dpc then s.setFld (R.accDpc port.val) 1 else s
  let s := s.modWin .feed port.val AccWin.close
  let s := s.modWin .block port.val AccWin.close
  .next (s.modWin .decode port.val AccWin.close).retryHeld

/-- ACCEL_LINK_UP: the trained rate code and width are reported, and DEGRADED below 64 GT/s x8 (R522, Table 27.5). -/
def execAccelLinkUp (port : Fin 8) (rate : Fin 7) (width : Fin 9) (flit : Bool) (s : State) : Out :=
  let s := s.setFld (R.accLinkUp port.val) 1
  let s := s.setFld ⟨R.accKey port.val, 1, 3⟩ rate.val
  let s := s.setFld ⟨R.accKey port.val, 4, 4⟩ width.val
  let s := s.setFld ⟨R.accKey port.val, 8, 1⟩ (b2n flit)
  .next (s.setFld ⟨R.accKey port.val, 9, 1⟩ (b2n (rate.val != 6 || width.val != 8)))

/-- ACCEL_UPSTREAM_UR: answered UR and recorded with CLASS 1 (R523). -/
def execAccelUpstreamUr (port : Fin 8) (addr : Nat) (translation : Bool) (s : State) : Out :=
  .next ((s.emit (.unsupported port.val)).violate 1 port.val 14 0xFF 10 addr (b2n translation))

end Sys2Proof.Machine
end

