-- ==== Sys2Proof/Machine/Coll.lean ====
section
/-! DEFINITION. Collectives: feed entries, legs and their fragments, cells, Verdicts, settles and replay (spec/08 R267 to R301, R659). -/

namespace Sys2Proof.Machine

/-! ## Access -/

/-- The legs of the running image. -/
def State.legE (s : State) (i : Nat) : Option LegE := s.beat.running.bind fun im => im.legs[i]?
/-- A group of the running image. -/
def State.groupE (s : State) (g : Nat) : Option GroupE := s.beat.running.bind fun im => im.groups.find? fun e => e.group == g
/-- A group that has not run. -/
def GroupRun.fresh (g : Nat) : GroupRun :=
  { group := g, gen := 0, step := 0, round := 0, attempt := 0, faulted := false, misses := 0, checks := 0, exps := [], agreed := none,
    heldPoison := false, causes := [], nf := false, sat := false, ovf := false, settled := none, acted := false,
    expected := Vector.replicate 8 0, redo := [] }
/-- A group's run state. -/
def State.groupRun (s : State) (g : Nat) : GroupRun := (s.coll.groups.find? fun r => r.group == g).getD (GroupRun.fresh g)
/-- Change a group's run state. -/
def State.modGroup (s : State) (g : Nat) (f : GroupRun → GroupRun) : State :=
  { s with coll.groups := s.coll.groups.map fun r => if r.group = g then f r else r }
/-- A leg that has not run in this round. -/
def LegRun.fresh (leg die : Nat) : LegRun :=
  { leg := leg, die := die, rxFrom := none, rxClosed := false, verdictClosed := false, tx := false, ins := [], outs := [] }
/-- The die whose table in the running variant names a leg; die 0 for a leg that no table names. -/
def State.legDie (s : State) (i : Nat) : Nat :=
  match s.beat.running with
  | none => 0
  | some im => b2n ((im.tables[s.fld R.btVariant * 2 + 1]?.getD []).any fun e => (e.kind == 1 || e.kind == 2 || e.kind == 8) && e.arg % 2 ^ 32 == i)
/-- A leg in its round. -/
def State.legRun (s : State) (i : Nat) : LegRun := (s.coll.legs.find? fun r => r.leg == i).getD (LegRun.fresh i (s.legDie i))
/-- Change a leg in its round. -/
def State.modLeg (s : State) (i : Nat) (f : LegRun → LegRun) : State :=
  { s with coll.legs := if s.coll.legs.any fun r => r.leg == i then s.coll.legs.map fun r => if r.leg = i then f r else r
                        else s.coll.legs ++ [f (LegRun.fresh i (s.legDie i))] }
/-- Change every feed entry taken. -/
def State.mapTaken (s : State) (f : FeedTaken → FeedTaken) : State := { s with coll.taken := s.coll.taken.map f }
/-- Record a failure cause of a group's step: the ORIGIN it counts under in R294. -/
def State.groupCause (s : State) (g origin : Nat) : State := s.modGroup g fun r => { r with causes := r.causes ++ [origin] }

namespace LegE
/-- FLAGS (Table 8.8). -/
def local_ (l : LegE) : Bool := bitAt l.flags 0
def owner (l : LegE) : Bool := bitAt l.flags 1
def hop (l : LegE) : Bool := bitAt l.flags 2
def rv (l : LegE) : Bool := bitAt l.flags 3
/-- A leg with a transmission: some port is named. -/
def sends (l : LegE) : Bool := l.txPort != 0xFF
/-- Fragments of the leg per round. -/
def frags (l : LegE) : Nat := (l.nblocks + l.fragBlocks - 1) / l.fragBlocks
/-- Rounds of a step. -/
def rounds (g : GroupE) : Nat := (g.seg.blocks + g.blocksPerRound - 1) / g.blocksPerRound
/-- First block of fragment `i` in round `r`. -/
def first (l : LegE) (g : GroupE) (r i : Nat) : Nat := r * g.blocksPerRound + l.blockOffset + i * l.fragBlocks
/-- Blocks of fragment `i` in round `r`: the last may be shorter, and a step ends at BLOCKS. -/
def count (l : LegE) (g : GroupE) (r i : Nat) : Nat :=
  min (min l.fragBlocks (l.nblocks - i * l.fragBlocks)) (g.seg.blocks - l.first g r i)
/-- The leg carries ES sums rather than OUTFMT elements. -/
def es (l : LegE) (g : GroupE) : Bool := l.kind != 3 || (g.coll == 2 && g.gatherEs)
/-- The element format of its inputs, and of its output (R283). -/
def inF (l : LegE) (g : GroupE) : Nat := if l.rv then g.rvFmt else l.inFmt
def outF (l : LegE) (g : GroupE) : Nat := if l.rv then g.rvFmt else l.outFmt
/-- Bytes of an input element, and of an output element. -/
def inBytes (l : LegE) (g : GroupE) : Nat := if l.kind ≤ 1 then 2 else if l.es g then esBytes (l.inF g) else fpBytes g.seg.outfmt
def outBytes (l : LegE) (g : GroupE) : Nat := if l.kind ≤ 1 then 2 else if l.es g then esBytes (l.outF g) else fpBytes g.seg.outfmt
/-- The data of a leg needs the agreed exponents of its blocks: a REDUCE leg's, and a GATHER leg's of an all-reduce (R49, R288). -/
def needsExp (l : LegE) (g : GroupE) : Bool := l.kind == 2 || (l.kind == 3 && g.coll == 2)
/-- Elements per block of the leg's payload: one scout value, or a block of elements. -/
def perBlock (l : LegE) (g : GroupE) : Nat := if l.kind ≤ 1 then 1 else g.seg.blockLen
end LegE

/-! ## Elements -/

/-- The pieces of `n` bytes of a list. -/
def chunks (n : Nat) (l : List Byte) : List (List Byte) := (List.range (l.length / n)).map fun i => slice l (i * n) n

/-- The signed values a network payload holds, most significant byte first (R7, R47). -/
def netVals (w : Nat) (l : List Byte) : List Int := (chunks w l).map fun c => signed (8 * w) (beNat c)
/-- The signed values memory holds, little-endian. -/
def memVals (w : Nat) (l : List Byte) : List Int := (chunks w l).map fun c => signed (8 * w) (leNat c)
/-- Values as a network payload. -/
def netBytes (w : Nat) (vs : List Int) : List Byte := vs.flatMap fun v => natBe w (v % 2 ^ (8 * w)).toNat

/-- Exact-sum addition of vectors in an output width: the sums, and how many of the adds overflowed (R56). -/
def addVecs (w : Nat) (n : Nat) (vss : List (List Int)) : List Int × Nat :=
  vss.foldl (fun acc vs =>
    let r := List.zipWith (esAdd w) acc.1 vs
    (r.map (·.1), acc.2 + (r.filter (·.2)).length)) (List.replicate n 0, 0)

/-- Signed maximum of scout vectors (R47, R48). -/
def maxVecs (n : Nat) (vss : List (List Int)) : List Int := vss.foldl (fun acc vs => List.zipWith scoutMax acc vs) (List.replicate n (-32768))

/-! ## The local contribution (R281) -/

/-- The Bunch SRAM of a leg's local contribution. -/
def State.legRam (s : State) (l : LegE) : Ram := s.bmem[l.localBunch % 32]'(Nat.mod_lt _ (by decide))

/-- The ready word names the round and attempt in progress. -/
def State.localReady (s : State) (l : LegE) (r : GroupRun) : Bool :=
  let b := (s.legRam l).bytes.bytes l.localOff 8
  leNat (b.take 4) == r.step && leNat (slice b 4 2) == r.round && leNat (slice b 6 1) == r.attempt && leNat (slice b 7 1) == 0

/-- Where fragment `i` of the local contribution lies, and its length. -/
def localExtent (l : LegE) (g : GroupE) (r i : Nat) : Nat × Nat :=
  (l.localOff + 64 + i * l.fragBlocks * l.perBlock g * l.inBytes g, l.count g r i * l.perBlock g * l.inBytes g)

/-- The bytes of fragment `i` of the local contribution, and whether an uncorrectable word lies in it. -/
def State.localFrag (s : State) (l : LegE) (g : GroupE) (r i : Nat) : List Byte × Bool :=
  let e := localExtent l g r i
  ((s.legRam l).bytes.bytes e.1 e.2, (s.legRam l).anyBad 8 e.1 e.2)

/-! ## Contributors, sides, and the conversion of feed inputs (R268, R269, R295, R300) -/

/-- The contributor identity of accelerator k of this node (R268). -/
def State.contributor (s : State) (k : Nat) : Nat := s.orchardId * 2048 + s.rank / 2 * 8 + k

/-- The device handles block b of a step: a solo device handles every block, a device with a twin those of its SIDE (R269). -/
def State.handles (s : State) (g : GroupE) (b : Nat) : Bool := s.flag R.btSolo || b / g.split % 2 == s.fld R.twinSide

/-- Bytes of a block of a feed input. -/
def inBlock (g : GroupE) : Nat := g.seg.blockLen * fpBytes g.seg.infmt

/-- What the device keeps of the tensor at SRC: the blocks it handles (R273). -/
def State.feedKeep (s : State) (g : GroupE) (d : List Byte) : List Byte :=
  ((List.range g.seg.blocks).filter (s.handles g)).flatMap fun b => slice d (b * inBlock g) (inBlock g)

/-- An entry's retained input holds a block: all of them, or those of a side. -/
def entryHas (g : GroupE) (t : FeedTaken) (b : Nat) : Bool := match t.part with | none => true | some k => b / g.split % 2 == k

/-- Block b of an entry's retained input. -/
def entryBlock (g : GroupE) (t : FeedTaken) (b : Nat) : List Byte :=
  slice t.data (((List.range b).filter (entryHas g t)).length * inBlock g) (inBlock g)

/-- The forward conversion of block b of an entry under an agreed exponent: STREAM and c2 are the contributor identity, c3 the step (R49,
R61, R268). -/
def State.entryConv (s : State) (g : GroupE) (t : FeedTaken) (b : Nat) (e : Int) : List Int :=
  let d := { g.seg with stream := s.contributor (t.port % 8) }
  (chunks (fpBytes g.seg.infmt) (entryBlock g t b)).zipIdx.map fun q =>
    (fwdElem d g.seed t.e.step b q.2 [(e % 65536).toNat, leNat q.1]).val

/-- Convert the retained inputs of a group's step whose agreed exponents are held (R49, R295). -/
def State.convert (s : State) (gn : Nat) : State :=
  match s.groupE gn with
  | none => s
  | some g =>
    let r := s.groupRun gn
    s.mapTaken fun t =>
      if t.e.group = gn ∧ t.e.step = r.step ∧ t.e.op = 1 ∧ t.status.isNone ∧ !t.data.isEmpty then
        { t with conv := (r.exps.filter fun x => entryHas g t x.1).filterMap fun x => x.2.map fun e => (x.1, s.entryConv g t x.1 e) }
      else t

/-! ## Readiness (R290, R659) -/

/-- A contributing accelerator has an entry of the group's step joined. -/
def State.posted (s : State) (g : GroupE) (r : GroupRun) : Bool :=
  (List.range 8).all fun k => !bitAt g.accelMask k ||
    s.coll.taken.any fun t => t.port % 8 == k && t.e.group == g.group && t.e.step == r.step && t.e.op == 1 && t.status.isNone

/-- The retention area holds what is retained (Table 27.8, R659). -/
def State.retentionOk (s : State) : Bool :=
  decide ((s.coll.taken.map fun t => t.data.length).sum ≤ (s.fld R.rindFwresLen - 27648) * mib)

/-! ## Bindings of resident state (R438 to R441) -/

/-- The bindings of a group. -/
def State.bindings (s : State) (g : Nat) : List Binding :=
  match s.ckpt.defn with
  | some d => d.bindings.filter fun b => b.group == g
  | none => []

/-- A binding's update kernel is not done with the half a step needs: DONE_STEP is older than the step two before (R441). -/
def State.halfBusy (s : State) (r : GroupRun) : Bool :=
  decide (2 ≤ r.step) && (s.bindings r.group).any fun b =>
    let d := (r.step - 2 + 2 ^ 32 - leNat (s.hbmGet (b.addr + 4) 4)) % 2 ^ 32
    decide (0 < d) && decide (d < 2 ^ 31)

/-- An OWNER leg's ES sums go into half STEP mod 2 of each binding, little-endian (R438). -/
def State.bindSums (s : State) (l : LegE) (g : GroupE) (r : GroupRun) (first : Nat) (vs : List Int) : State :=
  let w := l.outBytes g
  (s.bindings l.group).foldl (fun s b =>
    s.hbmStore (b.addr + 64 + r.step % 2 * b.half + first * g.seg.blockLen * w) (vs.flatMap fun v => natLe w (v % 2 ^ (8 * w)).toNat)) s

/-- COMMIT_STEP of a group's bindings (R439). -/
def State.commitStep (s : State) (g step : Nat) : State := (s.bindings g).foldl (fun s b => s.hbmStore b.addr (natLe 4 step)) s

/-! ## Sending (R283 to R287) -/

/-- The header of a cell of a leg. -/
def State.cellOf (s : State) (l : LegE) (r : GroupRun) (dest li kind flags seq round fmt first n : Nat) (payload : List Byte) : Cell :=
  { verMajor := 1, verMinor := 0, kind := kind, flags := flags, group := l.group, leg := Config.destLeg li dest, step := r.step,
    gen := r.gen, orchardId := s.orchardId, attempt := r.attempt, srcRank := s.rank, fragSeq := seq, round := round, fmt := fmt,
    firstBlock := first, nblocks := n, payloadLen := payload.length, payload := payload }

/-- Send a cell of a leg on its port, and on its second port. -/
def State.sendCell (s : State) (l : LegE) (mk : Nat → Cell) : State :=
  let s := if l.txPort ≠ 0xFF then s.sendCellFrame l.txPort l.rv (mk l.destRank) else s
  if l.txPort2 ≠ 0xFF then s.sendCellFrame l.txPort2 l.rv (mk l.destRank2) else s

/-- A write of a result to DST fails when the port's link is down: the entry completes with DMA, which is recorded, its step has a missing
input, and the accelerator may post the step again (R277, R279). -/
def State.dstFail (s : State) (t : FeedTaken) : State :=
  let x := s.accQ .feed t.port t.q
  let s := s.violate 1 (t.port % 8) 2 7 5 t.q ((t.sqHead + x.sqN - 1) % x.sqN)
  let s := s.mapTaken fun u => if u = t then { u with status := some 7, data := [], conv := [] } else u
  s.modGroup t.e.group fun r =>
    { r with causes := r.causes ++ [4], redo := if r.redo.contains (t.port % 8, t.e.step) then r.redo else r.redo ++ [(t.port % 8, t.e.step)] }

/-- Deliver a fragment of an OWNER leg to the accelerators of DELIVER: block b at byte b × block length × element size of DST (R273,
R282). NF and SAT of each accelerator's result are kept for its completion (R276). An entry that the lost twin had taken stands for its own
blocks beside this device's entry, and the two share DST. -/
def State.deliver (s : State) (l : LegE) (g : GroupE) (r : GroupRun) (first : Nat) (data : List Byte) (nf sat : Bool) : State :=
  let hit := fun (t : FeedTaken) => t.e.group == l.group && t.e.step == r.step && t.e.op == 1 && t.status.isNone && bitAt l.deliver (t.port % 8)
  if data.isEmpty then s
  else
    let s := s.mapTaken fun t => if hit t then { t with nf := t.nf || nf, sat := t.sat || sat } else t
    s.coll.taken.foldl (fun s t =>
      if !hit t then s
      else if s.fld (R.accLinkUp (t.port % 8)) = 0 then s.dstFail t
      else if t.twin ∧ s.coll.taken.any (fun u => hit u && !u.twin && u.port == t.port % 8) then s
      else s.emit (.accelWrite (t.port % 8) (t.e.dst + first * g.seg.blockLen * fpBytes g.seg.outfmt) data)) s

/-- A block of a result in OUTFMT is canonical NaN throughout (R276). -/
def nanBlock (g : GroupE) (data : List Byte) : Bool :=
  match fpFmt g.seg.outfmt with
  | some f => (chunks (g.seg.blockLen * fpBytes g.seg.outfmt) data).any fun b =>
      (chunks (fpBytes g.seg.outfmt) b).all fun e => (leNat e : Int) == f.nan
  | none => false

/-- The reverse conversion of an OWNER fragment: its bytes in OUTFMT, and whether it met NaN or saturated. -/
def ownerConv (g : GroupE) (fmt : Nat) (r : GroupRun) (first : Nat) (vs : List Int) : List Byte × Bool × Bool :=
  let d := { g.seg with fmt := fmt, stream := 0xFFFFFFFF }
  let os := vs.zipIdx.map fun q =>
    let e := ((SMap.get (fun _ => none) r.exps (first + q.2 / d.blockLen)).getD (-32768) % 65536).toNat
    revElem d g.seed r.step first q.2 [e, (q.1 % 2 ^ 64).toNat % 2 ^ ((esWidth fmt).getD 64)]
  (os.flatMap fun o => natLe (fpBytes g.seg.outfmt) (o.val % 2 ^ (8 * fpBytes g.seg.outfmt)).toNat, os.any (·.nf), os.any (·.sat))

/-- The exponents of a fragment's blocks are held. -/
def expsHeld (r : GroupRun) (first n : Nat) : Bool := (List.range n).all fun i => (SMap.get (fun _ => none) r.exps (first + i)).isSome

/-- The inputs of a fragment that arrived without POISON. -/
def LegRun.good (x : LegRun) (i : Nat) : List FragIn := x.ins.filter fun f => f.seq == i && !bitAt f.flags 1

/-- A fragment's inputs all stand committed or untentative. -/
def committed (fs : List FragIn) : Bool :=
  fs.all fun f => !bitAt f.flags 0 || (match f.verdict with | some v => v.outcome == 0 | none => false)

/-- Output fragment `i` of a REDUCE or GATHER leg, from the inputs held: what it carries, its failure cause, and its adds that overflowed. `residue` says
that the check of its hop adders fails. -/
def State.fragOut (s : State) (l : LegE) (g : GroupE) (r : GroupRun) (x : LegRun) (i : Nat) (residue : Bool) :
    List Byte × Nat × Nat :=
  let n := l.count g r.round i
  let loc := s.localFrag l g r.round i
  let useLocal := l.local_ && s.localReady l r
  if l.es g then
    let w := (esWidth (l.outF g)).getD 64
    let ins := (x.good i).map fun f => netVals (l.inBytes g) f.payload
    let all := ins ++ (if useLocal then [memVals (l.inBytes g) loc.1] else [])
    let sum := addVecs w (n * g.seg.blockLen) all
    (netBytes (l.outBytes g) sum.1, if residue then 1 else if useLocal && loc.2 then 2 else if sum.2 ≠ 0 then 3 else 0, sum.2)
  else
    let data := match x.good i with
      | f :: _ => f.payload
      | [] => if useLocal then (chunks (l.inBytes g) loc.1).flatMap List.reverse else []
    (data, if residue then 1 else if (x.good i).isEmpty && useLocal && loc.2 then 2 else 0, 0)

/-- Emit output fragment `i`: as a cell when the leg sends, and to the accelerators when it is an OWNER leg (R282, R286, R288). NF, SAT and OVF of
the group's segment descriptor copy are set, never cleared (R71). -/
def State.putFrag (s : State) (li : Nat) (l : LegE) (g : GroupE) (i : Nat) (hop poison residue : Bool) : State :=
  let r := s.groupRun l.group
  let x := s.legRun li
  let o := s.fragOut l g r x i residue
  let first := l.first g r.round i
  let n := l.count g r.round i
  let tent := hop || !(committed (x.good i) && o.2.1 == 0 && !poison)
  let cause := if poison ∧ o.2.1 = 0 then 4 else o.2.1
  let flags := b2n tent + 2 * b2n poison + 8 * b2n (l.es g)
  let fmt := if l.es g then l.outF g else 8 + g.seg.outfmt
  let s := s.modLeg li fun x => { x with outs := x.outs ++ [⟨i, poison, tent, cause, false⟩] }
  let s := if o.2.1 = 1 then s.report 1 (0x3000 + l.txPort / 8 % 4) 0 else s
  let s := if o.2.2 ≠ 0 then
      ((s.markEsu x.die false false o.2.2).report 1 (0x3000 + l.txPort / 8 % 4) 0).modGroup l.group fun r => { r with ovf := true }
    else s
  let s := if cause = 0 then s else s.groupCause l.group cause
  let s := if l.sends then s.sendCell l fun dest => s.cellOf l r dest li 0 flags i r.round fmt first n o.1 else s
  if l.owner ∧ !poison then
    if l.es g then
      let c := ownerConv g (l.outF g) r first (netVals (l.outBytes g) o.1)
      let s := s.bindSums l g r first (netVals (l.outBytes g) o.1)
      let s := (s.deliver l g r first c.1 c.2.1 c.2.2).modGroup l.group fun r => { r with nf := r.nf || c.2.1, sat := r.sat || c.2.2 }
      s.markEsu x.die c.2.1 c.2.2 0
    else
      let d := (chunks (fpBytes g.seg.outfmt) o.1).flatMap List.reverse
      s.deliver l g r first d (nanBlock g d) false
  else s

/-- When a leg's fragments may leave: its CELL_TX starts, an input arrives, or its receive window opens. -/
inductive Go where
  | tx | arrive | rx
  deriving DecidableEq, Repr

/-- A complete fragment of a leg may leave now: at its CELL_TX, or as its last input arrives when the leg meets the conditions of the hop path;
one that misses them stays staged until the leg's next CELL_TX. An OWNER leg that sends nothing needs neither (R285, R286). -/
def LegRun.mayGo (x : LegRun) (l : LegE) (go : Go) : Bool :=
  !l.sends || (x.tx && (match go with | .tx => true | .arrive => l.hop && x.rxFrom.isSome && !x.rxClosed | .rx => false))

/-- A fragment of a REDUCE or GATHER leg leaves when it can: it may go now, no flag holds the round, its inputs are complete, its local
contribution is ready, and where it needs exponents they are held. -/
def State.tryFrag (s : State) (li : Nat) (l : LegE) (g : GroupE) (go : Go) (residue : Bool) (i : Nat) : State :=
  let r := s.groupRun l.group
  let x := s.legRun li
  if l.count g r.round i = 0 ∨ (x.outs.any fun o => o.seq == i) ∨ !x.mayGo l go ∨ (r.agreed.getD 0 ≠ 0) ∨ r.faulted ∨
    (x.good i).length < l.inCount ∨ (l.local_ ∧ !s.localReady l r) ∨
    (l.needsExp g ∧ !expsHeld r (l.first g r.round i) (l.count g r.round i)) then s
  else s.putFrag li l g i (go == .arrive && l.sends) false residue

/-- Every fragment of a leg that can leave does. -/
def State.tryFrags (s : State) (li : Nat) (l : LegE) (g : GroupE) (go : Go) (residue : Bool) : State :=
  (List.range l.frags).foldl (fun s i => s.tryFrag li l g go residue i) s

/-- A fragment whose inputs or local contribution are missing when it is due leaves with POISON; a local contribution that is not ready counts
as a missing input (R281, R288). -/
def State.poisonFrag (s : State) (li : Nat) (l : LegE) (g : GroupE) (i : Nat) : State :=
  let r := s.groupRun l.group
  let x := s.legRun li
  if l.count g r.round i = 0 ∨ (x.outs.any fun o => o.seq == i) ∨ r.agreed.getD 0 ≠ 0 ∨ r.faulted ∨
    (l.inCount ≤ (x.good i).length ∧ (l.local_ = false ∨ s.localReady l r)) then s
  else
    let s := if l.local_ && !s.localReady l r then s.incFld (R.collMissed x.die) else s
    s.putFrag li l g i false true false

/-! ## Scout legs (R290, R291) -/

/-- What a SCOUT_UP leg sends for fragment `i`: its values and flags. -/
def State.scoutFrag (s : State) (l : LegE) (g : GroupE) (r : GroupRun) (x : LegRun) (i : Nat) : List Int × Nat :=
  let n := l.count g r.round i
  let fs := x.ins.filter fun f => f.seq == i
  let missing := fs.length < l.inCount || fs.any fun f => bitAt f.flags 1
  let localBad := l.local_ && !s.localReady l r
  let notReady := fs.any (fun f => bitAt f.flags 2) || !s.posted g r || localBad || !s.retentionOk || s.halfBusy r
  let loc := if l.local_ && !localBad then [memVals 2 (s.localFrag l g r.round i).1] else []
  (maxVecs n ((fs.map fun f => netVals 2 f.payload) ++ loc), 2 * b2n missing + 4 * b2n notReady)

/-- Mirror the exponents a group holds for a run of blocks (Table 17.2). -/
def State.mirExps (s : State) (g first n : Nat) : State :=
  let r := s.groupRun g
  let vs := (List.range n).filterMap fun i => (SMap.get (fun _ => none) r.exps (first + i)).map fun e => (first + i, e)
  if vs.isEmpty then s else s.mirror (.exps g r.step vs)

/-- The agreed vector of a fragment's blocks is held. In a replay the exponents retained stay, and blocks that no earlier attempt reached take
theirs now (R52, R295, R299; log entry 155). The flags are collected, and retained inputs are converted. A faulted group takes none
(R297). -/
def State.agree (s : State) (g first : Nat) (vs : List Int) (flags : Nat) : State :=
  if (s.groupRun g).faulted then s
  else
    (s.modGroup g fun r =>
      { r with agreed := some ((r.agreed.getD 0 ||| bits flags 1 2)),
               exps := if bits flags 1 2 ≠ 0 then r.exps
                       else vs.zipIdx.foldl (fun m q =>
                         if r.attempt ≠ 0 ∧ (SMap.get (fun _ => none) m (first + q.2)).isSome then m
                         else SMap.set (fun _ => none) m (first + q.2) (some q.1)) r.exps }).mirExps g first vs.length |>.convert g

/-- Send fragment `i` of a SCOUT_UP leg, or agree on it where the leg names no port: the top of the tree (Table 8.9). -/
def State.scoutUp (s : State) (li : Nat) (l : LegE) (g : GroupE) (i : Nat) : State :=
  let r := s.groupRun l.group
  let x := s.legRun li
  if l.count g r.round i = 0 ∨ (x.outs.any fun o => o.seq == i) ∨ r.faulted then s
  else
    let v := s.scoutFrag l g r x i
    let first := l.first g r.round i
    let s := s.modLeg li fun x => { x with outs := x.outs ++ [⟨i, bitAt v.2 1, false, 0, true⟩] }
    if l.sends then s.sendCell l fun dest => s.cellOf l r dest li 1 v.2 i r.round l.inFmt first v.1.length (netBytes 2 v.1)
    else s.agree l.group first v.1 v.2

/-- Send fragment `i` of a SCOUT_DOWN leg from the agreed vector held. -/
def State.scoutDown (s : State) (li : Nat) (l : LegE) (g : GroupE) (i : Nat) : State :=
  let r := s.groupRun l.group
  let x := s.legRun li
  if l.count g r.round i = 0 ∨ (x.outs.any fun o => o.seq == i) ∨ r.agreed.isNone ∨ !l.sends ∨ r.faulted then s
  else
    let first := l.first g r.round i
    let vs := (List.range (l.count g r.round i)).map fun j => (SMap.get (fun _ => none) r.exps (first + j)).getD (-32768)
    let s := s.modLeg li fun x => { x with outs := x.outs ++ [⟨i, false, false, 0, true⟩] }
    s.sendCell l fun dest => s.cellOf l r dest li 1 (2 * r.agreed.getD 0) i r.round l.inFmt first vs.length (netBytes 2 vs)

/-! ## Group fault and settle (R294 to R297) -/

/-- A group fault: its feed entries complete with GROUP_FAULT, its inputs are released, and the Steward is told (R297). -/
def State.groupFault (s : State) (g : Nat) : State :=
  if (s.groupRun g).faulted then s
  else
    let s := s.modGroup g fun r => { r with faulted := true, exps := [], causes := r.causes }
    let s := s.mapTaken fun t => if t.e.group = g ∧ t.e.op = 1 ∧ t.status.isNone then { t with status := some 8, data := [], conv := [] } else t
    s.report 0 0x8000 (0x10000 + g)

/-- This device's settle value (R294). -/
def settleOf (r : GroupRun) : Nat :=
  if r.faulted then 3
  else if r.causes.any fun c => c = 1 || c = 2 || c = 3 then 2
  else if !r.causes.isEmpty || r.heldPoison then 1 else 0

/-- The dies whose tables name a leg of a group. -/
def State.groupDies (s : State) (g : Nat) : List Nat :=
  match s.beat.running with
  | none => []
  | some im => [0, 1].filter fun d =>
      (im.tables[s.fld R.btVariant * 2 + d]?.getD []).any fun e =>
        (e.kind == 1 || e.kind == 2 || e.kind == 8) && (match im.legs[e.arg]? with | some l => l.group == g | none => false)

/-- The step replays from round 0 with ATTEMPT incremented (Table 8.12, R299); its retained inputs are converted again with the retained
exponents (R295). -/
def State.replayStep (s : State) (g : Nat) : State :=
  let s := (s.groupDies g).foldl (fun s d => s.incFld (R.collReplay d)) s
  let n := (s.groupRun g).step
  let s := s.mapTaken fun t =>
    if t.e.group = g ∧ t.e.step = n ∧ t.e.op = 1 ∧ t.status.isNone then { t with replayed := true, nf := false, sat := false, conv := [] } else t
  (s.modGroup g fun r => { r with round := 0, attempt := (r.attempt + 1) % 256, agreed := none, heldPoison := false, causes := [] }).convert g

/-- Count a settle of value 1 or 2, and fault the group when its count exceeds its limit (R296). -/
def State.countSettle (s : State) (g v : Nat) : State :=
  let s := s.modGroup g fun r => if v = 2 then { r with checks := r.checks + 1 } else { r with misses := r.misses + 1 }
  let r := s.groupRun g
  match s.groupE g with
  | some e => if e.checkRetry < r.checks ∨ e.missRetry < r.misses then s.groupFault g else s
  | none => s

/-- Act on a distributed settle value (Table 8.12). A step for which an accelerator's input already failed with DMA begins with a missing input
(R279). -/
def State.settleAct (s : State) (g v : Nat) : State :=
  let r := s.groupRun g
  let s := s.modGroup g fun r => { r with settled := some (r.step, r.attempt, v) }
  if v = 0 then
    let s := s.commitStep g r.step
    let s := s.mapTaken fun t =>
      if t.e.group = g ∧ t.e.step = r.step ∧ t.e.op = 1 ∧ t.status.isNone then
        { t with status := some 0, data := [], conv := [] } else t
    s.modGroup g fun r =>
      let n := (r.step + 1) % 2 ^ 32
      { r with step := n, round := 0, attempt := 0, misses := 0, checks := 0, exps := [], agreed := none, heldPoison := false,
               causes := if r.redo.any fun p => p.2 == n then [4] else [], acted := true }
  else if v = 3 then (s.groupFault g).modGroup g fun r => { r with acted := true }
  else
    let s := (s.countSettle g v)
    (if (s.groupRun g).faulted then s else s.replayStep g).modGroup g fun r => { r with acted := true }

/-- The round in progress has been carried out so far: collectives with scout legs have agreed without a flag (R290, Table 8.9). -/
def roundOn (g : GroupE) (r : GroupRun) : Bool := g.coll == 1 || g.coll == 3 || r.agreed == some 0
/-- The step may settle: it is in its last round, or past it, or its group has faulted (R294, R297). -/
def settling (g : GroupE) (r : GroupRun) : Bool :=
  r.faulted || decide (LegE.rounds g ≤ r.round) || (decide (LegE.rounds g ≤ r.round + 1) && roundOn g r)

/-- The value a SETTLE_UP leg sends: the maximum of this device's and of its inputs; a missing or poisoned input counts as 1. -/
def State.settleUpVal (l : LegE) (r : GroupRun) (x : LegRun) : Nat :=
  let vs := x.ins.map fun f => if bitAt f.flags 1 then 1 else (f.payload.headD 0).toNat
  let m := if x.ins.length < l.inCount then 1 else 0
  (settleOf r :: m :: vs).foldl max 0

/-- Send a SETTLE_UP leg, or act on the combined value where the leg names no port. -/
def State.settleUp (s : State) (li : Nat) (l : LegE) (g : GroupE) : State :=
  let r := s.groupRun l.group
  let x := s.legRun li
  if !x.outs.isEmpty ∨ !settling g r then s
  else
    let v := State.settleUpVal l r x
    let s := s.modLeg li fun x => { x with outs := [⟨0, false, false, 0, true⟩] }
    if l.sends then s.sendCell l fun dest => s.cellOf l r dest li 3 0 0 r.round l.inFmt 0 0 (natBe 1 v ++ [0, 0, 0])
    else s.settleAct l.group v

/-- Send a SETTLE_DOWN leg from the value distributed in this season. -/
def State.settleDown (s : State) (li : Nat) (l : LegE) : State :=
  let r := s.groupRun l.group
  match r.settled with
  | some (step, att, v) =>
    if (s.legRun li).outs.isEmpty ∧ l.sends ∧ r.acted then
      let s := s.modLeg li fun x => { x with outs := [⟨0, false, false, 0, true⟩] }
      s.sendCell l fun dest => s.cellOf l { r with step := step, attempt := att } dest li 3 0 0 r.round l.inFmt 0 0 (natBe 1 v ++ [0, 0, 0])
    else s
  | none => s

/-! ## Leg progress -/

/-- All inputs of a scout or settle fragment have arrived. -/
def LegRun.full (x : LegRun) (l : LegE) (i : Nat) : Bool := decide (l.inCount ≤ (x.ins.filter fun f => f.seq == i).length)

/-- Advance a leg whose transmission has begun, or that sends nothing, as far as its inputs allow. -/
def State.pump (s : State) (li : Nat) (l : LegE) (g : GroupE) (go : Go) (residue : Bool) : State :=
  let x := s.legRun li
  if l.kind = 0 then
    if x.tx ∨ !l.sends then (List.range l.frags).foldl (fun s i => if x.full l i then s.scoutUp li l g i else s) s else s
  else if l.kind = 1 then (if x.tx then (List.range l.frags).foldl (fun s i => s.scoutDown li l g i) s else s)
  else if l.kind = 4 then (if (x.tx ∨ !l.sends) ∧ x.full l 0 then s.settleUp li l g else s)
  else if l.kind = 5 then (if x.tx then s.settleDown li l else s)
  else s.tryFrags li l g go residue

/-- What a leg sends without its missing inputs: POISON in SCOUT_UP and data cells, and a value of 1 in SETTLE_UP (R281, R288, R290, R294). -/
def State.sendMissing (s : State) (li : Nat) (l : LegE) (g : GroupE) : State :=
  if l.kind = 0 then (List.range l.frags).foldl (fun s i => s.scoutUp li l g i) s
  else if l.kind = 4 then s.settleUp li l g
  else if l.kind = 2 ∨ l.kind = 3 then (List.range l.frags).foldl (fun s i => s.poisonFrag li l g i) s
  else s

/-- Start a leg's transmission: CELL_TX (Table 7.6). A leg whose receive window has closed, or that has no network input, is due with what it
holds. -/
def State.startTx (s : State) (die li : Nat) (l : LegE) (g : GroupE) : State :=
  let s := (s.modLeg li fun x => { x with tx := true, die := die }).pump li l g .tx false
  if (s.legRun li).rxClosed ∨ l.inCount = 0 then s.sendMissing li l g else s

/-- Open a leg's receive window: CELL_RX, or RENDEZVOUS (Table 7.6). -/
def State.openRx (s : State) (die li : Nat) (l : LegE) (g : GroupE) : State :=
  (s.modLeg li fun x => { x with rxFrom := some s.time.now, die := die }).pump li l g .rx false

/-- A beat miss of a leg event (R282): the group is not resident in the named slot, or its output format breaks R54. -/
def State.legMiss (s : State) (im : Image) (rslot : Nat) (l : LegE) : Bool :=
  let res := im.residency[s.beat.season % im.residency.length]?.getD []
  res[rslot]? != some l.group ||
  (match im.groups.find? fun g => g.group == l.group with
   | some g => decide ((esWidth (l.outF g)).getD 0 < 1 + guardBits l.k + g.seg.frac)
   | none => true)

/-! ## Receiving cells (R284, R288, R289, R298) -/

/-- The violation record of a cell. -/
def State.cellViol (s : State) (c : Cell) (port reason : Nat) : State :=
  s.violate (if port = 32 then 4 else 2) c.srcRank 5 0xFF reason (c.group + c.leg * 65536) c.step

/-- A Verdict uses a reserved OUTCOME, CAUSE or ORIGIN (Table 8.11). -/
def badVerdict (p : List Byte) : Bool :=
  let outcome := leNat (slice p 4 1)
  let cause := leNat (slice p 5 1)
  let origin := leNat (slice p 6 1)
  1 < outcome || 6 < cause || (outcome == 0 && origin != 0) ||
  (outcome == 1 && (if cause = 5 then origin == 0 || origin == 5 || 6 < origin else origin != cause))

/-- Why a cell is discarded as a violation, as a REASON (R284). -/
def State.cellBad (s : State) (kind : Nat) (c : Cell) : Option Nat :=
  if c.verMajor ≠ 1 then some 3
  else if c.kind ≠ kind ∨ 16 ≤ c.fmt ∨ 5 ≤ c.fmt % 8 ∨ (kind = 2 ∧ badVerdict c.payload) ∨ (kind = 3 ∧ 3 < leNat (c.payload.take 1)) then some 1
  else
    match s.groupE c.group, s.legE c.leg with
    | none, _ => some 6
    | some _, none => some 6
    | some g, some l =>
      if l.group ≠ c.group then some 6
      else
        let want := if kind = 0 then c.nblocks * g.seg.blockLen * l.inBytes g else if kind = 1 then 2 * c.nblocks
          else if kind = 2 then 8 else 4
        if c.payloadLen ≠ want ∨ c.payload.length ≠ c.payloadLen ∨ 8192 < c.payloadLen then some 4 else none

/-- A cell belongs to the attempt, step and round in progress: less, equal or greater. -/
def cellAge (r : GroupRun) (c : Cell) (kind : Nat) : Ordering :=
  let older := decide (c.step ≠ r.step ∧ (r.step + 2 ^ 32 - c.step) % 2 ^ 32 < 2 ^ 31)
  if c.step ≠ r.step then (if older then .lt else .gt)
  else if c.attempt < r.attempt then .lt
  else if r.attempt < c.attempt then .gt
  else if kind = 3 ∨ c.round = r.round then .eq
  else if c.round < r.round then .lt else .gt

/-- The generation of a cell against the receiver's (R298): current, stale, one newer, or any other. -/
inductive GenAge where
  | same | old | next | other
  deriving DecidableEq, Repr

/-- Compare a cell's GEN in 16-bit serial arithmetic. -/
def genAge (mine theirs : Nat) : GenAge :=
  let d := (theirs + 65536 - mine) % 65536
  if d = 0 then .same else if d = 1 then .next else if 32768 ≤ d then .old else .other

/-- A rendezvous cell lies in the window of R266: it comes from another Orchard, from 40 ns before the slot start of an event of its leg that
acts until RV_WINDOW_NS after it; the window may begin in the season before, or end in the season after. -/
def State.rvOpen (s : State) (im : Image) (li t orchard : Nat) : Bool :=
  let v := s.fld R.btVariant
  orchard != im.orchardId &&
  [0, 1].any fun d => (im.tables[v * 2 + d]?.getD []).any fun e =>
    e.kind == 8 && e.arg % 2 ^ 32 == li && (e.cond == 0 || (e.cond == 1 && !s.flag R.btSolo) || (e.cond == 2 && s.flag R.btSolo)) &&
      [s.beat.season - 1, s.beat.season, s.beat.season + 1].any fun n =>
        let at_ := im.startTime + n * (im.slots * 10) + e.slot * 10
        at_ ≤ t + 40 && t ≤ at_ + im.rvNs

/-- Store an input fragment; a second copy is discarded (R291). One that is missing by POISON, by an exponent not held or because it came outside
its rendezvous window (`out`) counts as missing (R288); a scout value out of range is taken as 0x7FFF (R48). -/
def State.takeFrag (s : State) (die li : Nat) (l : LegE) (g : GroupE) (c : Cell) (out residue : Bool) : State :=
  let x := s.legRun li
  if x.ins.any fun f => f.seq == c.fragSeq && (f.src == c.srcRank || l.kind == 1 || l.kind == 5) then s
  else
    let r := s.groupRun l.group
    let noExp := c.kind = 0 ∧ l.needsExp g ∧ !expsHeld r c.firstBlock c.nblocks
    let flags := if noExp ∨ out then c.flags ||| 2 else c.flags
    let s := s.modLeg li fun x => { x with ins := x.ins ++ [⟨c.fragSeq, c.srcRank, flags, c.payload, none, false⟩] }
    let s := if (c.kind = 0 ∨ l.kind = 0) ∧ bitAt flags 1 then s.incFld (R.collMissed die) else s
    let s := if c.kind = 0 ∧ bitAt flags 1 then s.groupCause l.group 4 else s
    let s := if l.kind = 1 then s.agree l.group c.firstBlock ((netVals 2 c.payload).map scoutSane) flags else s
    let s := if l.kind = 5 then s.settleAct l.group (c.payload.headD 0).toNat else s
    s.pump li l g .arrive residue

/-- Set the Verdict of the fragments it covers; duplicates are discarded (R293). -/
def State.takeVerdict (s : State) (li : Nat) (l : LegE) (c : Cell) : State :=
  let p := c.payload
  let lo := beNat (p.take 2)
  let hi := beNat (slice p 2 2)
  let v : Verdict := { outcome := leNat (slice p 4 1), cause := leNat (slice p 5 1), origin := leNat (slice p 6 1) }
  let hit := fun (f : FragIn) => f.src == c.srcRank && decide (lo ≤ f.seq) && decide (f.seq ≤ hi) && f.verdict.isNone
  let n := ((s.legRun li).ins.filter hit).length
  let s := s.modLeg li fun x => { x with ins := x.ins.map fun f => if hit f then { f with verdict := some v } else f }
  if v.outcome = 1 ∧ n ≠ 0 then s.groupCause l.group v.origin else s

/-- A cell that passed the checks of R284 and R298. -/
def State.acceptCell (s : State) (kind : Nat) (c : Cell) (residue : Bool) : State :=
  match s.beat.running, s.groupE c.group, s.legE c.leg with
  | some im, some g, some l =>
    let r := s.groupRun c.group
    let x := s.legRun c.leg
    match cellAge r c kind with
    | .lt => s.incFld (R.collLate x.die)
    | .gt => s.cellViol c 0 7
    | .eq =>
      if kind = 2 then (if x.verdictClosed then s.incFld (R.collLate x.die) else s.takeVerdict c.leg l c)
      else if x.rxClosed then s.incFld (R.collLate x.die)
      else
        let vals := netVals 2 c.payload
        let s := if kind = 1 ∧ vals.any (fun v => scoutSane v ≠ v) then s.cellViol c 0 5 else s
        let out := l.rv && !s.rvOpen im c.leg s.time.now c.orchardId
        if out ∧ (l.kind = 1 ∨ l.kind = 5) then s.incFld (R.collMissed x.die) else s.takeFrag x.die c.leg l g c out residue
  | _, _, _ => s

/-- Receive a cell of a KIND (R284 to R298). -/
def State.recvCell (s : State) (kind port : Nat) (c : Cell) (residue : Bool) : State :=
  match s.cellBad kind c with
  | some reason => s.cellViol c port reason
  | none =>
    match genAge (s.groupRun c.group).gen c.gen with
    | .same => s.acceptCell kind c residue
    | .old => s.incFld (R.collStale (s.legRun c.leg).die)
    | .next => { s with coll.stale := s.coll.stale ++ [(port, s.time.now, c)] }
    | .other => s.cellViol c port 7

/-- CELL_DATA_RECEIVE: a DATA cell arrives whole at `t`; `residue` says that a hop-adder check on it fails. -/
def execCellDataReceive (port : Fin 33) (c : Cell) (residue : Bool) (t : Nat) (s : State) : Out :=
  .next ((s.advance t).recvCell 0 port.val c residue)
/-- CELL_SCOUT_RECEIVE. -/
def execCellScoutReceive (port : Fin 33) (c : Cell) (t : Nat) (s : State) : Out := .next ((s.advance t).recvCell 1 port.val c false)
/-- CELL_VERDICT_RECEIVE. -/
def execCellVerdictReceive (port : Fin 33) (c : Cell) (t : Nat) (s : State) : Out := .next ((s.advance t).recvCell 2 port.val c false)
/-- CELL_SETTLE_RECEIVE. -/
def execCellSettleReceive (port : Fin 33) (c : Cell) (t : Nat) (s : State) : Out := .next ((s.advance t).recvCell 3 port.val c false)

/-- STALE_HOLD_TIMEOUT: cells held for 16 ns without a switch are stale (R298). -/
def execStaleHoldTimeout (t : Nat) (s : State) : Out :=
  let s := s.advance t
  let gone := s.coll.stale.filter fun h => h.2.1 + 16 ≤ s.time.now
  let s := { s with coll.stale := s.coll.stale.filter fun h => !(h.2.1 + 16 ≤ s.time.now) }
  .next (gone.foldl (fun s h => s.incFld (R.collStale (s.legRun h.2.2.leg).die)) s)

/-! ## Windows closing (R288, R291, R293) -/

/-- A window's close has been reached: its leg's window opened and `n` slots of 10 ns have passed since. -/
def LegRun.reached (x : LegRun) (n now : Nat) : Bool := match x.rxFrom with | some f => decide (f + 10 * n ≤ now) | none => false

/-- RECEIVE_WINDOW_CLOSE: missing inputs are counted and their output fragments leave with POISON; a SCOUT_DOWN or SETTLE_DOWN that
never came faults the group. -/
def execReceiveWindowClose (leg t : Nat) (s : State) : Out :=
  let s := s.advance t
  match s.legE leg with
  | none => .next s
  | some l =>
    match s.groupE l.group with
    | none => .next s
    | some g =>
      let x := s.legRun leg
      if x.rxClosed ∨ !x.reached l.rxSlots s.time.now then .next s
      else
        let s := s.modLeg leg fun x => { x with rxClosed := true }
        let r := s.groupRun l.group
        let due := x.tx || !l.sends
        let here := fun i => (x.ins.filter fun f => f.seq == i).length
        let miss := ((List.range l.frags).map fun i => if l.count g r.round i = 0 then 0 else l.inCount - here i).sum
        if l.kind = 1 then
          .next (if l.inCount ≠ 0 ∧ (List.range l.frags).any (fun i => l.count g r.round i != 0 && here i == 0) then s.groupFault l.group else s)
        else if l.kind = 5 then .next (if l.inCount ≠ 0 ∧ x.ins.isEmpty then s.groupFault l.group else s)
        else if l.kind = 4 then .next (if due then s.sendMissing leg l g else s)
        else if l.kind ≠ 0 ∧ (r.agreed.getD 0 ≠ 0 ∨ r.faulted) then .next s
        else
          let s := if miss = 0 then s else s.incFld (R.collMissed x.die) miss
          let s := if l.kind ≠ 0 ∧ miss ≠ 0 then s.groupCause l.group 4 else s
          .next (if due then s.sendMissing leg l g else s)

/-- VERDICT_WINDOW_CLOSE: a tentative fragment without a Verdict is rejected with cause 6 (R293). -/
def execVerdictWindowClose (leg t : Nat) (s : State) : Out :=
  let s := s.advance t
  match s.legE leg with
  | none => .next s
  | some l =>
    let x := s.legRun leg
    if x.verdictClosed ∨ !x.reached (l.rxSlots + l.verdictSlots) s.time.now then .next s
    else
      let open_ := fun (f : FragIn) => bitAt f.flags 0 && f.verdict.isNone
      let any := x.ins.any open_
      let s := s.modLeg leg fun x =>
        { x with verdictClosed := true, ins := x.ins.map fun f => if open_ f then { f with verdict := some ⟨1, 6, 6⟩, lapsed := true } else f }
      .next (if any then s.groupCause l.group 6 else s)

/-! ## Verdicts sent (R292) -/

/-- The Verdict of an output fragment once every tentative input has one: none while one is missing. -/
def fragVerdict (x : LegRun) (o : FragOut) : Option Verdict :=
  let fs := x.ins.filter fun f => f.seq == o.seq && bitAt f.flags 0
  if fs.any fun f => f.verdict.isNone then none
  else
    let rej := fs.filterMap fun f => match f.verdict with | some v => if v.outcome = 1 then some (v, f.lapsed) else none | none => none
    let causes := (if o.cause = 0 then [] else [o.cause]) ++ (rej.map fun v => if v.2 then 6 else 5)
    match causes with
    | [] => some ⟨0, 0, 0⟩
    | c :: cs =>
      let cause := cs.foldl min c
      let origins := rej.map (·.1.origin)
      some ⟨1, cause, if cause = 5 then origins.foldl min 6 else cause⟩

/-- VERDICT_SEND: the Verdicts that are complete leave, one per fragment; each REJECT is reported to the health-and-repair Steward. -/
def execVerdictSend (leg t : Nat) (s : State) : Out :=
  let s := s.advance t
  match s.legE leg with
  | none => .next s
  | some l =>
    let x := s.legRun leg
    .next (x.outs.foldl (fun s o =>
      if o.decided ∨ !o.tentative then s
      else
        match fragVerdict x o with
        | none => s
        | some v =>
          let r := s.groupRun l.group
          let p := natBe 2 o.seq ++ natBe 2 o.seq ++ natBe 1 v.outcome ++ natBe 1 v.cause ++ natBe 1 v.origin ++ [0]
          let s := s.modLeg leg fun x => { x with outs := x.outs.map fun q => if q.seq = o.seq then { q with decided := true } else q }
          let s := if v.outcome = 1 then s.report 0 (0x3000 + l.txPort / 8 % 4) (v.cause + v.origin * 256) else s
          if l.sends then s.sendCell l fun dest => s.cellOf l r dest leg 2 0 o.seq r.round l.inFmt 0 0 p else s) s)

/-! ## The feed (R273 to R279) -/

/-- A submission entry (Table 8.4). -/
def parseFeed (b : List Byte) : FeedEntry :=
  { op := le b 0 1, rsv := le b 1 1 != 0 || slice b 26 38 != List.replicate 38 0, group := le b 2 2, step := le b 4 4, src := le b 8 8,
    dst := le b 16 8, tag := le b 24 2 }

/-- Entries of a queue that are taken and not completed; those of an earlier FEED_GEN have no completion slot (R278). -/
def State.feedRunning (s : State) (port q : Nat) : Nat :=
  (s.coll.taken.filter fun t => t.port == port && t.q == q && !t.twin && t.gen == (s.win .feed port).gen).length

/-- An entry of a group has an input: every contributor but the receivers of a broadcast. -/
def State.feedReads (s : State) (g : GroupE) (port : Nat) : Bool := g.coll != 3 || g.root == s.contributor (port % 8)

/-- The status an entry is refused with, the lowest code that holds (Table 8.6). `dma` says that the read of SRC failed. -/
def State.feedStatus (s : State) (port : Nat) (e : FeedEntry) (dma : Bool) : Option Nat :=
  if e.op ≠ 1 then some 1
  else if e.rsv then some 2
  else
    match s.groupE e.group with
    | none => some 3
    | some g =>
      let r := s.groupRun e.group
      let exp := r.expected[port % 8]'(Nat.mod_lt _ (by decide))
      let bytesIn := g.seg.blocks * g.seg.blockLen * fpBytes g.seg.infmt
      let bytesOut := g.seg.blocks * g.seg.blockLen * fpBytes g.seg.outfmt
      let root := s.feedReads g port
      if !bitAt g.accelMask port then some 4
      else if e.step ≠ exp ∧ !r.redo.contains (port, e.step) then some 5
      else if e.dst % 64 ≠ 0 ∨ e.src % 64 ≠ 0 ∨ (!root ∧ e.src ≠ 0) ∨ !s.accOk port e.dst bytesOut ∨
        (root ∧ !s.accOk port e.src bytesIn) then some 6
      else if dma ∧ root then some 7
      else if r.faulted then some 8 else none

/-- The entry at the head of a queue. -/
def State.feedHead (s : State) (port q : Nat) : FeedEntry :=
  parseFeed ((s.win .feed port).mem.bytes (winEntryOff .feed q ((s.accQ .feed port q).taken % (s.accQ .feed port q).sqN)) 64)
/-- A group is resident in the current season. -/
def State.groupResident (s : State) (g : Nat) : Bool :=
  match s.beat.running with
  | none => false
  | some im => (im.residency[s.beat.season % im.residency.length]?.getD []).contains g
/-- The entry at the head of a queue waits there for a season in which its group is resident (R36). -/
def State.feedWaits (s : State) (port q : Nat) : Bool :=
  let e := s.feedHead port q
  e.op == 1 && s.feedStatus port e false == none && !s.groupResident e.group

/-- The next queue of a port's round-robin with an entry to take and a completion slot for it (R273, R276); an entry
that waits for its group's season holds its queue. -/
def State.feedPick (s : State) (port : Nat) : Option Nat :=
  let w := s.win .feed port
  ((List.range 8).map fun i => (w.rr + i) % 8).find? fun q =>
    let x := s.accQ .feed port q
    x.st == 1 && decide (x.taken < x.tail) && decide (s.feedRunning port q + (x.posted - x.released) < x.cqN) &&
      !s.feedWaits port q

/-- Statuses of Table 8.6 that are violations, with their REASON. -/
def feedReason (st : Nat) : Option Nat :=
  if st = 1 then some 1 else if st = 2 then some 2 else if st = 3 ∨ st = 4 then some 6 else if st = 5 then some 7
  else if st = 6 then some 10 else if st = 7 then some 5 else none

/-- The input an entry brings: the blocks this device handles of the tensor at SRC (R269, R273). -/
def State.feedData (s : State) (port : Nat) (e : FeedEntry) (d : List Byte) : List Byte :=
  match s.groupE e.group with
  | some g => if s.feedReads g port then s.feedKeep g d else []
  | none => []
/-- The side whose blocks are kept: this device's, or none in particular when it runs solo. -/
def State.feedPart (s : State) : Option Nat := if s.flag R.btSolo then none else some (s.fld R.twinSide)

/-- Take the picked entry of a port when its OP is a row's. -/
def State.feedTake (s : State) (port : Nat) (nop : Bool) (data : Option (List Byte)) : State :=
  match s.feedPick port with
  | none => s
  | some q =>
    let w := s.win .feed port
    let x := s.accQ .feed port q
    let i := x.taken % x.sqN
    let e := s.feedHead port q
    if (e.op = 2) ≠ nop ∨ s.fld R.twinState = 5 ∨ s.fld R.twinState = 6 then s
    else
      let s := s.modWin .feed port fun w => { w with rr := (q + 1) % 8 }
      let s := s.modAccQ .feed port q fun x => { x with taken := x.taken + 1 }
      let st := if nop then (if e.rsv then some 2 else none) else s.feedStatus port e data.isNone
      let s := match st.bind feedReason with
        | some reason => s.violate 1 port 2 (st.getD 0) reason q i
        | none => s
      let t : FeedTaken := { port := port, q := q, gen := w.gen, sqHead := (i + 1) % x.sqN, e := e, twin := false,
                             data := if st.isNone ∧ !nop then s.feedData port e (data.getD []) else [], part := s.feedPart,
                             status := st, nf := false, sat := false, replayed := false, conv := [] }
      let s := ({ s with coll.taken := s.coll.taken ++ [t] }.mirQueue .feed port q).mirror (.entry t)
      if nop then s
      else if st.isNone ∨ st = some 8 then
        s.modGroup e.group fun r =>
          { r with expected := if e.step = r.expected[port % 8]'(Nat.mod_lt _ (by decide)) then
                                 r.expected.set (port % 8) ((e.step + 1) % 2 ^ 32) (Nat.mod_lt _ (by decide)) else r.expected,
                   redo := r.redo.erase (port, e.step) }
      else if st = some 7 then
        s.modGroup e.group fun r =>
          { r with expected := if e.step = r.expected[port % 8]'(Nat.mod_lt _ (by decide)) then
                                 r.expected.set (port % 8) ((e.step + 1) % 2 ^ 32) (Nat.mod_lt _ (by decide)) else r.expected,
                   redo := if r.redo.contains (port, e.step) then r.redo else r.redo ++ [(port, e.step)],
                   causes := if e.step = r.step then r.causes ++ [4] else r.causes }
      else s

/-- An entry of the lost twin on a port whose blocks are still to be read again (R300). -/
def State.feedReread (s : State) (port : Nat) : Option FeedTaken :=
  s.coll.taken.find? fun t => t.twin && t.port == port + 8 && t.e.op == 1 && t.status.isNone && t.data.isEmpty &&
    (match s.groupE t.e.group with | some g => s.feedReads g port | none => false)

/-- The lost twin's blocks of an entry are read again from SRC, and converted with the mirrored exponents; a read that fails gives DMA. -/
def State.feedAgain (s : State) (t : FeedTaken) (data : Option (List Byte)) : State :=
  match s.groupE t.e.group, data with
  | some g, some d =>
    let kept := ((List.range g.seg.blocks).filter (entryHas g t)).flatMap fun b => slice d (b * inBlock g) (inBlock g)
    (s.mapTaken fun u => if u = t then { u with data := kept } else u).convert t.e.group
  | _, _ => s.dstFail t

/-- FEED_COLLECTIVE: the device takes the next entry of a port that is no NOP; `data` is the tensor that the read of SRC returned, none when it
failed. What the lost twin had taken is read again first. -/
def execFeedCollective (port : Fin 8) (data : Option (List Byte)) (s : State) : Out :=
  match s.feedReread port.val with
  | some t => .next (s.feedAgain t data)
  | none => .next (s.feedTake port.val false data)

/-- FEED_NOP: the device takes the next entry of a port that is a NOP (R277). -/
def execFeedNop (port : Fin 8) (s : State) : Out := .next (s.feedTake port.val true (some []))

/-- An entry may complete: its status is decided, or it is a NOP and nothing earlier of its queue is left. -/
def feedReady (earlier : List FeedTaken) (t : FeedTaken) : Bool :=
  t.status.isSome || (t.e.op == 2 && !earlier.any fun u => u.port == t.port && u.q == t.q && u.gen == t.gen)

/-- The first entry of a queue that may complete. -/
def feedFirst (port q : Nat) : List FeedTaken → List FeedTaken → Option FeedTaken
  | _, [] => none
  | seen, t :: ts => if t.port = port ∧ t.q = q ∧ feedReady seen t then some t else feedFirst port q (seen ++ [t]) ts

/-- The completion of a feed entry, PHASE clear (Table 8.5). -/
def feedBody (t : FeedTaken) : List Byte :=
  natLe 2 t.e.tag ++ natLe 1 (t.status.getD 0) ++
  natLe 1 (if t.status.getD 0 = 0 then b2n t.nf * 2 + b2n t.sat * 4 + b2n t.replayed * 8 else 0) ++ natLe 2 t.gen ++ natLe 2 t.sqHead ++
  natLe 4 t.e.step ++ natLe 4 0

/-- FEED_COMPLETION_POST: the first entry of a queue that may complete does, once the twin has confirmed it (R276, R489); when this device has
none on the port, the first of the lost twin's queue, with that queue's FEED_GEN (R300). -/
def execFeedCompletionPost (port q : Fin 8) (s : State) : Out :=
  match feedFirst port.val q.val [] s.coll.taken <|> feedFirst (port.val + 8) q.val [] s.coll.taken with
  | none => .next s
  | some t => .next (({ s with coll.taken := s.coll.taken.erase t }.mirror (.entryEnd t)).commit 5 (.acc .feed t.port q.val t.gen (feedBody t)))

/-! ## Seasons, switches and activations (R298, R299) -/

/-- A season has ended: a group whose round was held or carried out moves on, and the round's legs are cleared (R290, Table 8.9). -/
def State.seasonEnd (s : State) (im : Image) (season : Nat) : State :=
  let res := (im.residency[season % im.residency.length]?.getD []).filter (· != 0xFFFF)
  let s := res.foldl (fun s g =>
    let r := s.groupRun g
    match s.groupE g with
    | none => s
    | some e =>
      let s := s.modGroup g fun r => { r with agreed := none, acted := false }
      if r.faulted ∨ r.acted then s
      else
        match r.agreed with
        | some 0 => s.modGroup g fun r => { r with round := min (r.round + 1) (LegE.rounds e) }
        | some f =>
          if bitAt f 0 then (s.modGroup g fun r => { r with heldPoison := true }).countSettle g 1 else s
        | none => if e.coll = 1 ∨ e.coll = 3 then s.modGroup g fun r => { r with round := min (r.round + 1) (LegE.rounds e) } else s) s
  { s with coll.legs := s.coll.legs.filter fun x => x.rxFrom.isNone && !x.tx }

/-- Every group's generation advances and its counts reset; a step in progress replays under the new placement (R298, R299). A step is in
progress once a round of it has been carried out or held under POISON, which every device of the Orchard knows alike. -/
def State.advanceGens (s : State) : State :=
  let s := s.coll.groups.foldl (fun s r =>
    let s := s.modGroup r.group fun r => { r with gen := (r.gen + 1) % 65536, misses := 0, checks := 0 }
    if r.faulted then s else if r.round ≠ 0 ∨ r.heldPoison then s.replayStep r.group else s) s
  let held := s.coll.stale
  let s := { s with coll.stale := [], coll.legs := [] }
  held.foldl (fun s h => s.recvCell h.2.2.kind h.1 h.2.2 false) s

/-- The groups of an image that starts: generation GEN_BASE, plus one in the single-twin variant; the expected steps of a group that
stays are kept, and a fault ends (R254, R275, R297). -/
def State.startGroups (s : State) (im : Image) (single : Bool) : State :=
  { s with coll.legs := [], coll.stale := [], coll.groups := im.groups.map fun g =>
      let old := s.groupRun g.group
      { old with group := g.group, gen := (g.genBase + b2n single) % 65536, round := 0, attempt := if old.round = 0 then old.attempt else (old.attempt + 1) % 256,
                 faulted := false, misses := 0, checks := 0, agreed := none, heldPoison := false, causes := [], nf := false, sat := false, ovf := false,
                 acted := false } }

end Sys2Proof.Machine
end

