-- ==== Sys2Proof/Machine/Beat.lean ====
section
/-! DEFINITION. Staging, activation and stop of schedule images, the season boundary, variant switches and switch notices, and the loading of
kernels (spec/07 R242, R249 to R265, R663, R664; spec/16 R475 to R478; spec/23 R593). -/

namespace Sys2Proof.Machine

/-! ## Slots, seasons, and what is pending -/

/-- The season length P in ns (R242). -/
def Image.period (im : Image) : Nat := im.slots * 10
/-- The season number at a fabric time. -/
def Image.seasonAt (im : Image) (t : Nat) : Nat := (t - im.startTime) / im.period
/-- The slot index at a fabric time. -/
def Image.slotAt (im : Image) (t : Nat) : Nat := (t - im.startTime) % im.period / 10
/-- The first season of an image that begins at or after a fabric time. -/
def Image.seasonFrom (im : Image) (t : Nat) : Nat := (t - im.startTime + im.period - 1) / im.period

/-- BT_STAT.PENDING and BT_PEND_SEASON follow the pending switch and the pending activation (Table 7.9). -/
def State.showPending (s : State) : State :=
  let act := match s.beat.running, s.beat.staged with
    | some r, some i => (i.startTime - r.startTime) / r.period
    | _, _ => 0
  let season := match s.beat.switch with
    | some (_, n) => n
    | none => if s.beat.activation then act else 0
  (s.setFld R.btPending (b2n (s.beat.switch.isSome || s.beat.activation))).setFld R.btPendSeason season

/-! ## Loading a core with a kernel (R127, R128, R249, R250) -/

/-- The kernel of the next event of a core, in table order and wrapping into the next season. -/
def State.nextKernel (s : State) (core : Nat) : Option Nat :=
  match s.beat.running with
  | none => none
  | some im =>
    let es := im.coreEvents (s.fld R.btVariant) core
    ((es.find? fun e => s.beat.slot < e.slot) <|> es.head?).map (·.arg)

/-- A KAT event of an image names a core. -/
def Image.katCore (im : Image) (n : Nat) : Bool := (List.range 2).any fun v => (im.coreEvents v n).any (·.kind == 5)

/-- Load a core with a kernel of the running image: text, data, entry, arguments, fence and owner (R540). A load whose read meets an uncorrectable
block leaves the core holding no kernel. -/
def State.loadKernel (s : State) (u : UnitId) (im : Image) (ki : Nat) : State :=
  match im.kernels[ki]? with
  | none => s
  | some k =>
    let s := (s.hbmSeen (im.addr + k.textOff) k.textLen).hbmSeen (im.addr + k.dataOff) k.dataLen
    if s.hbmBad (im.addr + k.textOff) k.textLen ∨ s.hbmBad (im.addr + k.dataOff) k.dataLen then
      { s with beat.kernelHeld := SMap.set (fun _ => 0) s.beat.kernelHeld u.val 0 }
    else
      let text := s.hbmBytes (im.addr + k.textOff) k.textLen
      let data := s.hbmBytes (im.addr + k.dataOff) k.dataLen
      let s := { s with imem := s.imem.set u.val ((s.imem[u.val]'u.isLt).put 4 0 text) u.isLt,
                        lmem := s.lmem.set u.val ((s.lmem[u.val]'u.isLt).put 4 0 data) u.isLt,
                        beat.kernelHeld := SMap.set (fun _ => 0) s.beat.kernelHeld u.val (ki + 1) }
      let a := fun i => BitVec.ofNat 32 (k.args[i]?.getD 0)
      s.modCore u fun c => { c with run.entry := BitVec.ofNat 16 k.entry, run.args := #v[a 0, a 1, a 2, a 3],
                                    run.owner := if im.katCore u.val then 5 else 2,
                                    ctl.fenceLo := BitVec.ofNat 32 k.fenceLo, ctl.fenceHi := BitVec.ofNat 32 k.fenceHi }

/-- A core may be loaded: it is in RESET or HALTED, and no KAT run on it awaits its judgement (R250). -/
def State.canLoad (s : State) (u : UnitId) : Bool :=
  ((s.core u).run.state == .reset || (s.core u).run.state == .halted) && !s.beat.katRuns.any fun k => k.1 == u.val

/-- The unit of a compute core. -/
def coreUnit (n : Nat) : UnitId := ⟨n % 256, by omega⟩

/-- Reload a core with the kernel of its next event when it differs from the kernel it holds (R250); Steward 2 loads it (R594). -/
def State.reload (s : State) (u : UnitId) : State :=
  match s.beat.running, s.nextKernel u.val with
  | some im, some k =>
    if s.stewardOff 2 = false ∧ s.canLoad u ∧ SMap.get (fun _ => 0) s.beat.kernelHeld u.val ≠ k + 1 then s.loadKernel u im k else s
  | _, _ => s

/-! ## Repairs and margin at the boundary (R257, R475 to R478) -/

/-- SPARE_CORES_USED: the logical cores that sit on a spare core. -/
def State.countSpares (s : State) : State :=
  s.setFld R.spareCoresUsed (((List.range 256).filter fun n => bits (s.core (coreUnit n)).ctl.id.toNat 8 4 == 8).length)

/-- What a memory of a spare is loaded with when the image it held is no kernel of the running schedule: the bytes as they stand (DESIGN CHOICE,
log entry 154). -/
def Ram.image (r : Ram) : Ram := { Ram.empty with bytes := r.bytes }

/-- The image whose kernel a core holds: the running one where that names the core, else the staged one. -/
def State.heldImage (s : State) (n : Nat) : Option Image :=
  match s.beat.running with
  | some r => if r.usesCore n then some r else s.beat.staged
  | none => s.beat.staged

/-- Move a logical core to a physical core of a physical Bunch: the core starts anew, and the spare is loaded with the same images, arguments and
fence, then with the kernel of its next event where that differs (R128, R250). -/
def State.moveCore (s : State) (u : UnitId) (pbunch pcore : Nat) : State :=
  let s := s.modCore u fun c =>
    let d := c.resetCmd u
    { d with ctl.id := BitVec.ofNat 32 (putBits (putBits d.ctl.id.toNat 8 4 pcore) 12 5 pbunch) }
  let s := { s with beat.katRuns := s.beat.katRuns.filter fun k => k.1 ≠ u.val }
  let held := SMap.get (fun _ => 0) s.beat.kernelHeld u.val
  let s := match s.heldImage u.val with
    | some im =>
      if held = 0 then { s with imem := s.imem.set u.val (s.imem[u.val]'u.isLt).image u.isLt, lmem := s.lmem.set u.val (s.lmem[u.val]'u.isLt).image u.isLt }
      else { s with imem := s.imem.set u.val Ram.empty u.isLt, lmem := s.lmem.set u.val Ram.empty u.isLt,
                    beat.kernelHeld := SMap.set (fun _ => 0) s.beat.kernelHeld u.val 0 }.loadKernel u im (held - 1)
    | none => { s with imem := s.imem.set u.val (s.imem[u.val]'u.isLt).image u.isLt, lmem := s.lmem.set u.val (s.lmem[u.val]'u.isLt).image u.isLt }
  s.reload u

/-- The steps in flight that use a logical Bunch have a missing input (Table 16.6). -/
def State.missBunch (s : State) (b : Nat) : State :=
  match s.beat.running with
  | none => s
  | some im => ((im.legs.filter fun l => l.localBunch == b).map (·.group)).eraseDups.foldl (fun s g => s.groupCause g 4) s

/-- Apply a repair that waited for the season boundary. -/
def State.applyRepair (s : State) : Repair → State
  | .core n =>
    let u := coreUnit n
    let code := s.unitCode u
    let pb := bits (s.core u).ctl.id.toNat 12 5
    let s := ((s.moveCore u pb 8).missBunch (n / 8)).setFld (R.marginLevel (n / 128 % 2) pb) 0
    (s.countSpares.report 0x0B code 1).wantRecord
  | .bunch b =>
    let code := s.bunchCode ⟨b % 32, by omega⟩
    let s := (List.range 8).foldl (fun s j => s.moveCore (coreUnit (b * 8 + j)) 16 j) s
    let s := { s with bmem := s.bmem.set (b % 32) Ram.empty (by omega) }
    let s := (s.missBunch b).setFld (R.marginLevel (b / 16 % 2) 16) 0
    let s := s.setFld R.spareBunchUsed (s.fld R.spareBunchUsed ||| 2 ^ (b / 16 % 2))
    (s.countSpares.report 0x0B code 2).wantRecord
  | .lane unit => { s with health.lanes := s.health.lanes ++ [unit] }

/-- Logical-to-physical changes, then margin level changes (R593 steps 1 and 2); Steward 5 makes them, and in a gap of it they wait for a later
boundary (R594, Table 23.2). -/
def State.boundaryRepairs (s : State) : State :=
  if s.stewardOff 5 then s else
  let rs := s.health.repairs
  let s := rs.foldl State.applyRepair { s with health.repairs := [] }
  (List.range 2).foldl (fun s d => (List.range 17).foldl (fun s b =>
    if s.flag (R.marginPending d b) then
      let l := min (s.fld (R.marginLevel d b) + 1) 5
      (((s.setFld (R.marginLevel d b) l).setFld (R.marginPending d b) 0).report 0x0A (0x2000 + d * 2048 + b * 64) l).wantRecord.mirror (.margin (d * 17 + b) l)
    else s) s) s

/-- Cross into the season that fabric time is in: the old season ends, a stop requested takes effect, and repairs and margin changes are
applied (R242, R256, R593). -/
def State.cross (s : State) : State :=
  match s.beat.running with
  | none => s
  | some im =>
    let n := im.seasonAt s.time.now
    if n ≤ s.beat.season then s
    else
      let s := s.seasonEnd im s.beat.season
      let s := s.boundaryRepairs
      if s.beat.stopReq then s.stopSchedule
      else { s with beat.season := n, beat.slot := 0 }

/-! ## Activation (R253 to R255) -/

/-- The variant in which an image starts: the running one, or that of a switch that takes effect at its START_TIME; with no image running, the
start variant selected (R254, R259). -/
def State.startVariant (s : State) (new : Image) : Nat :=
  match s.beat.running, s.beat.switch with
  | some im, some (v, n) => if n ≤ im.seasonAt new.startTime then v else s.fld R.btVariant
  | _, _ => s.fld R.btVariant

/-- The pending switch after an activation: one still to come is counted in the new image's seasons (R254). -/
def State.carrySwitch (s : State) (new : Image) : Option (Nat × Nat) :=
  match s.beat.running, s.beat.switch with
  | some old, some (v, n) =>
    if n ≤ old.seasonAt new.startTime then none else some (v, new.seasonFrom (old.startTime + n * old.period))
  | _, _ => none

/-- Load every core that a KERNEL or KAT event of a variant names, and which does not hold it, with the kernel of its first event, where the core
may be loaded, by Steward 2 (R249, R594; log entry 27). -/
def State.loadCores (s : State) (im : Image) (v : Nat) (may : Nat → Bool) : State :=
  if s.stewardOff 2 then s else
  (List.range 256).foldl (fun s n =>
    match (im.coreEvents v n).head? with
    | some e => if may n ∧ s.canLoad (coreUnit n) ∧ SMap.get (fun _ => 0) s.beat.kernelHeld n ≠ e.arg + 1 then s.loadKernel (coreUnit n) im e.arg else s
    | none => s) s

/-- Start the staged image at its START_TIME (R253, R254, R362): every core a KERNEL or KAT event of the variant names is loaded, unless it holds
its first kernel since the activation. -/
def State.startImage (s : State) (im : Image) : State :=
  let v := s.startVariant im
  let sw := s.carrySwitch im
  let prev := s.beat.running.map fun old => (old, im.startTime + im.leadNs)
  let s := s.keepHeld s.spareCore
  let s := { s with beat.running := some im, beat.staged := none, beat.activation := false, beat.season := im.seasonAt s.time.now,
                    beat.slot := 0, beat.switch := sw, beat.prev := prev, beat.mismatch := none, beat.stopReq := false }
  let s := ((((s.setFld R.btState 1).setFld R.btStaged 0).setFld R.btVariant v).setFld R.btLoadStatus 0).setWord64 R.btImageId im.imageId
  let s := (s.showPending.startGroups im (v == 1)).gateDefaults
  let s := match im.roster[im.rank]? with | some e => s.takeRoster e | none => s
  s.loadCores im v fun _ => true

/-- A stop that R264 or R265 asks for: under R240, with the switch recorded. -/
def State.stopForSwitch (s : State) (cls partner seq season : Nat) : State :=
  (s.stopSchedule.violate cls partner 6 0xFF 7 seq season).report 0 0x8000 7

/-- The season of a switch to the normal variant that takes effect at an image's START_TIME on a SOLO device: it stops its schedule (R265). -/
def State.soloSwitch (s : State) (new : Image) : Option Nat :=
  match s.beat.running, s.beat.switch with
  | some im, some (0, n) => if n ≤ im.seasonAt new.startTime ∧ s.flag R.btSolo then some n else none
  | _, _ => none

/-- At START_TIME a pending activation starts. After a FAULT it starts only when time is LOCKED again, and is otherwise cancelled with NO_TIME
(R240, R253; log entry 166). -/
def State.activateDue (s : State) : State :=
  match s.beat.staged with
  | none => s
  | some im =>
    if s.beat.activation ∧ im.startTime ≤ s.time.now then
      if s.fld R.ftState = 2 ∨ s.fld R.ftState = 3 then
        match s.soloSwitch im with
        | some n => (s.startImage im).stopForSwitch 5 s.rank s.beat.ownSeq n
        | none => s.startImage im
      else (({ s with beat.activation := false }.keepHeld fun n => !s.spareCore n).setFld R.btLoadStatus 0x0E).showPending
    else s

/-- ACTIVATION_START. -/
def execActivationStart (t : Nat) (s : State) : Out := .next (s.advance t).cross.activateDue

/-- A binding's half is too small for the sums of a group's BLOCKS in the width of one of its OWNER legs (R438). -/
def State.badBindings (s : State) (im : Image) : Bool :=
  match s.ckpt.defn with
  | none => false
  | some d => d.bindings.any fun b =>
      match im.groups.find? fun g => g.group == b.group with
      | none => false
      | some g => im.legs.any fun l => l.group == b.group && l.owner && l.es g && decide (b.half < g.seg.blocks * g.seg.blockLen * l.outBytes g)

/-- The status of an ACTIVATE: the lowest code whose condition holds (Table 7.8, R438). -/
def State.activateStatus (s : State) : Nat :=
  match s.beat.staged with
  | none => 0x0B
  | some im =>
    if s.badBindings im then 4
    else if (match s.beat.running with
      | some r => decide (im.startTime < r.startTime ∨ (im.startTime - r.startTime) % r.period ≠ 0)
      | none => false) then 0x0C
    else if im.startTime < s.time.now + 1000000 then 0x0D
    else if s.fld R.ftState ≠ 2 then 0x0E
    else 0

/-- Discard the staged image, and with it an activation that awaits its START_TIME. -/
def State.dropStaged (s : State) : State :=
  (({ s with beat.staged := none, beat.activation := false }.keepHeld fun n => !s.spareCore n).setFld R.btStaged 0).showPending

/-- An accepted activation loads the cores that the running image does not name (R249; log entry 27). -/
def State.preload (s : State) : State :=
  match s.beat.staged with
  | some im => (s.keepHeld fun n => !s.spareCore n).loadCores im (s.startVariant im) s.spareCore
  | none => s

/-- CMD ACTIVATE. -/
def State.btActivate (s : State) : State :=
  let st := s.activateStatus
  if st = 0 then ({ s with beat.activation := true }.setFld R.btLoadStatus 0).showPending.preload
  else s.dropStaged.setFld R.btLoadStatus st

/-- BT_ACTIVATE. -/
def execBtActivate (t : Nat) (s : State) : Out := .next ((s.advance t).feCmd 0x600100 2 State.btActivate)

/-! ## Staging (R252) -/

/-- CMD STAGE: refused with BUSY while a staging runs or an image is staged. -/
def State.btStage (s : State) : State :=
  if s.flag R.btBusy ∨ s.flag R.btStaged then s.setFld R.btLoadStatus 1
  else
    { s with beat.staging := some { addr := s.fld R.btStageLo + s.fld R.btStageHi * 2 ^ 32, len := s.fld R.btStageLen } }.setFld R.btBusy 1

/-- BT_STAGE. -/
def execBtStage (t : Nat) (s : State) : Out := .next ((s.advance t).feCmd 0x600100 1 State.btStage)

/-- DEVICE_SERIAL, as the registers show it. -/
def State.serial (s : State) : Nat := s.csr.get64 R.devSerial

/-- The violation a failed staging records: a received structure with another version, or a reserved encoding (R13, R14). -/
def State.stageViol (s : State) (st : Nat) : State :=
  if st = 2 then s.violate 5 s.rank 11 st 3 0 0
  else if st = 4 then s.violate 5 s.rank 11 st 2 0 0
  else if st = 6 then s.violate 5 s.rank 11 st 1 0 0
  else s

/-- STAGING_END: the image is staged, or the staging ends with its status. Steward 2 stages; after a gap it starts again from the image
(Table 20.6). -/
def execStagingEnd (t : Nat) (s : State) : Out :=
  let s := s.advance t
  match s.beat.staging with
  | none => .next s
  | some g =>
    if s.stewardOff 2 then .next s else
    let st := s.stageStatus g.addr g.len s.serial
    let s := s.hbmSeen g.addr g.len
    let s := ({ s with beat.staging := none }.setFld R.btBusy 0).setFld R.btLoadStatus st
    if st ≠ 0 then .next (s.stageViol st)
    else
      let b := s.hbmBytes g.addr g.len
      let im := parseImage b g.addr s.serial
      let s := { s with beat.staged := some im }.setFld R.btStaged 1
      .next (if s.nosched then (match im.roster[im.rank]? with | some e => s.takeRoster e | none => s) else s)

/-! ## Abort, stop and the end of a schedule (R256) -/

/-- CMD ABORT: a staged image is discarded. -/
def State.btAbort (s : State) : State := if s.beat.staged.isSome then s.dropStaged else s
/-- BT_ABORT. -/
def execBtAbort (s : State) : Out := .next (s.feCmd 0x600100 3 State.btAbort)

/-- CMD STOP: the running image ends at the next season boundary, and a pending switch is discarded (R663). -/
def State.btStop (s : State) : State :=
  if s.nosched then s else { s with beat.stopReq := true, beat.switch := none }.showPending
/-- BT_STOP. -/
def execBtStop (s : State) : Out := .next (s.feCmd 0x600100 4 State.btStop)

/-! ## Variant switches (R258 to R265, R663, R664) -/

/-- A switch to variant `v` at full season `n` becomes pending, or moves a pending one earlier (R663). -/
def State.pendSwitch (s : State) (v n : Nat) : State :=
  { s with beat.switch := some (match s.beat.switch with | some (w, m) => if w = v ∧ m ≤ n then (w, m) else (v, n) | none => (v, n)) }.showPending

/-- A pending switch takes effect at its season: a SOLO device does not follow to the normal variant (R263, R265). -/
def State.switchDue (s : State) : State :=
  match s.beat.switch with
  | none => s
  | some (v, n) =>
    if s.nosched ∨ s.beat.season < n then s
    else if v = 0 ∧ s.flag R.btSolo then s.stopForSwitch 5 s.rank s.beat.ownSeq n
    else ({ s with beat.switch := none }.setFld R.btVariant v).showPending.advanceGens

/-- VARIANT_SWITCH: slot 0 of SWITCH_SEASON. -/
def execVariantSwitch (t : Nat) (s : State) : Out := .next (s.advance t).cross.switchDue

/-- Send a notice on every beacon link but one. -/
def State.relay (s : State) (but : Option (Fin 33)) (n : Notice) : State :=
  (List.finRange 33).foldl (fun s l => if s.beaconLink l.val && but != some l then s.sendTime l.val (.notice n) else s) s

/-- Originate a switch notice: SWITCH_SEASON = s + 1 + ceil(SWITCH_LEAD_NS / P), and follow it (R259). -/
def State.originate (s : State) (v reason : Nat) : State :=
  match s.beat.running with
  | none => s
  | some im =>
    let n := im.seasonAt s.time.now + 1 + (im.leadNs + im.period - 1) / im.period
    let q := (s.beat.ownSeq + 1) % 2 ^ 32
    let s := { s with beat.ownSeq := q, beat.noticeSeq := SMap.set (fun _ => 0) s.beat.noticeSeq im.rank (q + 1) }
    let s := s.relay none { verMajor := 1, verMinor := 0, type := 1, orchardId := im.orchardId, originRank := im.rank, noticeSeq := q,
                            imageId := im.imageId, variant := v, reason := reason, hopCount := 0, switchSeason := n % 2 ^ 32 }
    if v = s.fld R.btVariant then s else s.pendSwitch v n

/-- CMD VARIANT: a notice while a Beat Table runs, otherwise the start variant of the next activated image (R259). -/
def State.btVariantCmd (s : State) (single : Bool) : State :=
  if s.nosched then s.setFld R.btVariant (b2n single) else s.originate (b2n single) 0
/-- BT_VARIANT. -/
def execBtVariant (single : Bool) (t : Nat) (s : State) : Out := 
  .next ((s.advance t).feCmd 0x600100 (5 + 8 * b2n single) fun s => s.btVariantCmd single)

/-- The image a notice counts its seasons in: the running one, or the previous one while R254 admits it. -/
def State.noticeImage (s : State) (n : Notice) : Option Image :=
  match s.beat.running with
  | none => none
  | some im =>
    if n.imageId = im.imageId then some im
    else match s.beat.prev with
      | some (old, till) => if n.imageId = old.imageId ∧ s.time.now ≤ till then some old else none
      | none => none

/-- An ORCHARD_ID is another one than that of the running image. -/
def State.otherOrchard (s : State) (o : Nat) : Bool := match s.beat.running with | some im => o != im.orchardId | none => false

/-- Why a notice is discarded without relay, as a REASON (R238, R262). -/
def State.noticeBad (s : State) (n : Notice) : Option Nat :=
  if n.verMajor ≠ 1 then some 3
  else if n.type ≠ 1 ∨ 1 < n.variant ∨ 1 < n.reason then some 1
  else if 16 < n.hopCount then some 5
  else match s.beat.running with
    | none => none
    | some im => if n.orchardId ≠ im.orchardId ∨ (s.noticeImage n).isNone then some 6 else none

/-- A NOTICE_SEQ is newer than the last accepted from its origin, in serial arithmetic; zero stands for none accepted. -/
def seqNewer (last q : Nat) : Bool := last == 0 || (0 < (q + 2 ^ 32 - (last - 1)) % 2 ^ 32 && (q + 2 ^ 32 - (last - 1)) % 2 ^ 32 < 2 ^ 31)

/-- The full season number of a 32-bit season, nearest the current season `c` (R664). -/
def fullSeason (c low : Nat) : Int :=
  let d : Nat := (low + 2 ^ 32 - c % 2 ^ 32) % 2 ^ 32
  if d < 2 ^ 31 then (c : Int) + d else (c : Int) + d - 2 ^ 32

/-- Act on an accepted notice, whose seasons are counted in image `old` (R254, R263, R264). -/
def State.followNotice (s : State) (link : Nat) (n : Notice) (im old : Image) : State :=
  if n.variant = s.fld R.btVariant then s
  else
    let c := old.seasonAt s.time.now
    let k := fullSeason c n.switchSeason
    if k ≤ c then s.stopForSwitch (if link = 32 then 4 else 2) n.originRank n.noticeSeq n.switchSeason
    else if old.imageId = im.imageId then s.pendSwitch n.variant k.toNat
    else s.pendSwitch n.variant (im.seasonFrom (old.startTime + k.toNat * old.period))

/-- SWITCH_NOTICE_RECEIVE. -/
def execSwitchNoticeReceive (link : Fin 33) (n : Notice) (t : Nat) (s : State) : Out :=
  let s := s.advance t
  if s.beaconLink link.val = false then .next s
  else match s.noticeBad n with
    | some r =>
      let s := if n.verMajor ≠ 1 ∨ n.type ≠ 1 ∨ s.otherOrchard n.orchardId then
        s.modLink link fun k => { k with discards := k.discards + 1, versionBad := k.versionBad || decide (n.verMajor ≠ 1) } else s
      .next (s.violate (if link.val = 32 then 4 else 2) n.originRank 6 0xFF r n.noticeSeq 0)
    | none =>
      if seqNewer (SMap.get (fun _ => 0) s.beat.noticeSeq n.originRank) n.noticeSeq then
        let s := { s with beat.noticeSeq := SMap.set (fun _ => 0) s.beat.noticeSeq n.originRank (n.noticeSeq % 2 ^ 32 + 1) }
        let s := s.relay (some link) { n with hopCount := n.hopCount + 1 }
        match s.beat.running, s.noticeImage n with
        | some im, some old => .next (s.followNotice link.val n im old)
        | _, _ => .next s
      else .next s

/-! ## Reload and mismatch (R250, R255) -/

/-- KERNEL_RELOAD. -/
def execKernelReload (core : Fin 256) (s : State) : Out := .next (s.reload (coreUnit core.val))

/-- IMAGE_MISMATCH_STOP: a whole season of upstream beacons with another IMAGE_ID. -/
def execImageMismatchStop (t : Nat) (s : State) : Out :=
  let s := s.advance t
  match s.beat.running, s.beat.mismatch with
  | some im, some (since, rank) =>
    .next (if since + im.period ≤ s.time.now then (s.stopSchedule.setFld R.btLoadStatus 0x0C).violate 2 rank 6 0xFF 6 0 0 else s)
  | _, _ => .next s

end Sys2Proof.Machine
end

