-- ==== Sys2Proof/Machine/Egress.lean ====
section
/-! DEFINITION. The exit side of the egress queues: gates and their lookahead, shaping states, arbitration, the SecY's packet numbers on
transmit, samples, and shaper writes (spec/11 R357 to R367; spec/12 R380 to R382; spec/20 R549). -/

namespace Sys2Proof.Machine

/-! ## Lookahead (R364) -/

/-- The GATE events of a port in a table that a device running as `solo` acts on, the last of each slot: slot and OPEN. -/
def gatesOf (t : List BeatEvent) (p : Nat) (solo : Bool) : List (Nat × Nat) :=
  let g := t.filter fun e => e.kind == 4 && e.target == p && (e.cond == 0 || (e.cond == 1 && !solo) || (e.cond == 2 && solo))
  g.filterMap fun e => match (g.filter fun f => f.slot == e.slot).getLast? with
    | some f => if f = e then some (e.slot, e.arg % 256) else none
    | none => none

/-- The table of an image for a port's die in a variant. -/
def Image.dieTable (im : Image) (variant die : Nat) : List BeatEvent := (im.tables[variant * 2 + die]?).getD []

/-- Fabric times in ns at which a change clears a queue's bit, in the season that begins at `from_`. -/
def clearsIn (t : List BeatEvent) (p q : Nat) (solo : Bool) (from_ : Nat) : List Nat :=
  (gatesOf t p solo).filterMap fun g => if bitAt g.2 q then none else some (from_ + g.1 * 10)

/-- The next change of gate state after now that clears a queue's bit: the GATE events of this season and of the next one, in the variant that runs
then; those of a pending image from its START_TIME; and the returns to the defaults that are known. -/
def State.nextClear (s : State) (p q : Nat) : Option Nat :=
  let die := p / 16
  let solo := s.flag R.btSolo
  let defs := fun (t : Nat) => if bitAt (s.fld (R.txGateDef p)) q then [] else [t]
  let act := if s.beat.activation then s.beat.staged else none
  let first := match act with
    | some i => defs i.startTime ++ clearsIn (i.dieTable (s.startVariant i) die) p q solo i.startTime
    | none => []
  let cs := match s.beat.running with
    | none => first
    | some im =>
      let n := im.seasonAt s.time.now
      let b := im.startTime + n * im.period
      let e := b + im.period
      let table := fun (k : Nat) =>
        im.dieTable (match s.beat.switch with | some (w, m) => if m ≤ k then w else s.fld R.btVariant | none => s.fld R.btVariant) die
      let next := if s.beat.stopReq then defs e
        else if (match act with | some i => decide (i.startTime ≤ e) | none => false) then [] else clearsIn (table (n + 1)) p q solo e
      clearsIn (table n) p q solo b ++ next ++ first
  (cs.filter fun t => s.time.now < t).min?

/-- The head frame of a queue is eligible at time `t`: its gate is open, and it ends before the next change that clears its bit. -/
def State.eligible (s : State) (p q t : Nat) (f : EgFrame) : Bool :=
  bitAt (s.fld (R.txOpen p)) q &&
  (match s.nextClear p q with
   | none => true
   | some c => decide (t * s.portBytes p + f.wire * u16 ≤ c * u16 * s.portBytes p))

/-! ## Shaping states (R357, R358) -/

/-- GREEN, YELLOW or HELD. -/
inductive Shape where
  | green | yellow | held
  deriving DecidableEq, Repr

/-- Refill both buckets of a queue. -/
def State.refillQueue (s : State) (p q t : Nat) : State :=
  let cir := s.fld (R.qCir p q)
  s.modEg p fun e => { e with
    c := e.c.set (q % 8) ((e.c[q % 8]'(Nat.mod_lt _ (by decide))).refill cir (s.fld (R.qCbs p q) * 64) t) (Nat.mod_lt _ (by decide)),
    p := e.p.set (q % 8) ((e.p[q % 8]'(Nat.mod_lt _ (by decide))).refill (max (s.fld (R.qPir p q)) cir) (s.fld (R.qPbs p q) * 64) t)
      (Nat.mod_lt _ (by decide)) }

/-- The state of a queue whose buckets are refilled. -/
def State.shape (s : State) (p q : Nat) : Shape :=
  if s.fld (R.qShapeEn p q) = 0 then .green
  else
    let e := s.eg p
    if (e.p[q % 8]'(Nat.mod_lt _ (by decide))).lvl < 0 then .held
    else if (e.c[q % 8]'(Nat.mod_lt _ (by decide))).lvl < 0 then .yellow else .green

/-- Charge a frame to the buckets of its queue (R358). -/
def State.chargeQueue (s : State) (p q : Nat) (sh : Shape) (n : Nat) : State :=
  if s.fld (R.qShapeEn p q) = 0 then s
  else s.modEg p fun e => { e with
    p := e.p.set (q % 8) ((e.p[q % 8]'(Nat.mod_lt _ (by decide))).charge n) (Nat.mod_lt _ (by decide)),
    c := if sh = .green then e.c.set (q % 8) ((e.c[q % 8]'(Nat.mod_lt _ (by decide))).charge n) (Nat.mod_lt _ (by decide)) else e.c }

/-! ## Deficit round-robin (R365) -/

/-- The quantum of a queue: WEIGHT × 256 bytes; 0 is taken as 1. -/
def State.quantum (s : State) (p q : Nat) : Nat := max 1 (s.fld (R.qWeight p q)) * 256

/-- Give a queue its turn and its quantum. -/
def State.giveTurn (s : State) (p q : Nat) : State :=
  s.modEg p fun e => { e with
    turn := some q
    deficit := e.deficit.set (q % 8) (e.deficit[q % 8]'(Nat.mod_lt _ (by decide)) + s.quantum p q) (Nat.mod_lt _ (by decide)) }

/-- Serve the queue whose turn it is if its deficit covers its head, else give the next its quantum and its turn (log entry 29). -/
def State.drr (s : State) (p : Nat) (cands : List Nat) : Nat → State × Option Nat
  | 0 => (s, none)
  | n + 1 =>
    let e := s.eg p
    let order := cands.reverse
    let cur := match e.turn with | some q => if q ∈ order then some q else none | none => none
    let need := fun q => match e.queue q with | f :: _ => f.charged | [] => 0
    let dfc := fun q => e.deficit[q % 8]'(Nat.mod_lt _ (by decide))
    match cur with
    | some q =>
      if need q ≤ dfc q then
        (s.modEg p fun e => { e with deficit := e.deficit.set (q % 8) (dfc q - need q) (Nat.mod_lt _ (by decide)) }, some q)
      else
        let nx := ((order.filter fun r => r < q).head? <|> order.head?).getD q
        State.drr (s.giveTurn p nx) p cands n
    | none =>
      let below := match e.turn with | some t => (order.filter fun r => r < t).head? | none => none
      match (below <|> order.head?) with
      | none => (s, none)
      | some nx =>
        State.drr (s.giveTurn p nx) p cands n

/-! ## The SecY on transmit (R381, R382) -/

/-- The last packet number of an association. -/
def State.pnMax (s : State) (p : Nat) : Nat := if s.flag (R.secyXpn p) then 2 ^ 64 - 1 else 2 ^ 32 - 1
/-- The packet number at which the slow-path Steward is told. -/
def State.pnThresh (s : State) (p : Nat) : Nat := s.fld (R.secyThresh p) * (if s.flag (R.secyXpn p) then 2 ^ 32 else 1)

/-- The slot of the active transmit association holds a GCM key. -/
def State.gcmSlot (s : State) (slot : Nat) : Option KeySlot :=
  match SMap.get (fun _ => none) s.keys.slots slot with
  | some k => if k.xts then none else some k
  | none => none

/-- The SecY sends a frame: the next packet number of the active association, or the next association once it is exhausted; with none the
frame is discarded and counted. -/
def State.secySend (s : State) (p : Nat) (f : Frame) : State :=
  if s.fld (R.secyEn p) = 0 ∨ f.isEapol then s.emit (.frame p none f)
  else
    let slotOf := fun (a : Nat) => s.fld (R.secyTxSlot p a)
    let last := fun (sl : Nat) => SMap.get (fun _ => 0) s.net.txPn sl
    let an := s.fld (R.secyTxAn p)
    let use := if last (slotOf an) < s.pnMax p then some (an, false)
      else if s.flag (R.secyNextValid p) then some (s.fld (R.secyNextAn p), true) else none
    match use with
    | none => s.incFld (R.secyDrop p)
    | some (a, sw) =>
      let s := if sw then (s.setFld (R.secyTxAn p) a).setFld (R.secyNextValid p) 0 else s
      let sl := slotOf a
      let pn := last sl + 1
      if (s.gcmSlot sl).isNone ∨ s.pnMax p < pn then s.incFld (R.secyDrop p)
      else
        let s := { s with net.txPn := SMap.set (fun _ => 0) s.net.txPn sl pn }.emit (.frame p (some (a, pn)) f)
        if pn = s.pnThresh p then s.emit (.toSteward 3 p pn a) else s

/-! ## Arbitration (R365) -/

/-- The frame of a queue starts at time `t`. -/
def State.startFrame (s : State) (p t : Nat) (f : EgFrame) : State :=
  let s := s.modEg p fun e => { e with busy := t + (f.wire * u16 + s.portBytes p - 1) / s.portBytes p }
  let r := (s.portBytesAdd p f.bytes).stampFrame p t f.frame
  r.1.secySend p r.2

/-- Take the head of queue q and start it, charging the buckets of the queue as its state says, and the Rind's (R358, R549). -/
def State.sendHead (s : State) (p q t : Nat) (sh : Option Shape) : State :=
  match (s.eg p).queue q with
  | [] => s
  | f :: rest =>
    let s := s.modEg p fun e => { e.setQueue q rest with rind := e.rind.charge f.wire }
    let s := match sh with | some x => s.chargeQueue p q x f.charged | none => s
    let s := if rest.isEmpty then s.modEg p fun e => { e with deficit := e.deficit.set (q % 8) 0 (Nat.mod_lt _ (by decide)) } else s
    let s := (s.showDepth p q).setFld (R.qDlyHwm p q) (max (s.fld (R.qDlyHwm p q)) (min (t / u16 - f.enq) (2 ^ 32 - 1)))
    s.startFrame p t f

/-- The port selects its next frame at a frame boundary. -/
def State.arbitrate (s : State) (p t : Nat) : State :=
  let e := s.eg p
  if t < e.busy ∨ s.portUp p = false then s
  else
    match e.tq with
    | f :: rest => (s.modEg p fun e => { e with tq := rest }).startFrame p t f
    | [] =>
      let ceil := s.fld (R.rindTxCeil p)
      let s := s.modEg p fun e => { e with rind := e.rind.refill (ceil * 100) 16384 t }
      if ceil = 0 ∨ (s.eg p).rind.lvl < 0 then s
      else
        let ok := (List.range 8).filter fun q => match (s.eg p).queue q with | f :: _ => s.eligible p q t f | [] => false
        let cq := s.fld (R.txCellQueue p)
        if cq ∈ ok then s.sendHead p cq t none
        else
          let s := ok.foldl (fun s q => s.refillQueue p q t) s
          match (ok.filter fun q => s.shape p q == .green).getLast? with
          | some q => s.sendHead p q t (some .green)
          | none =>
            let ys := ok.filter fun q => s.shape p q == .yellow
            let r := s.drr p ys 3000
            match r.2 with
            | some q => r.1.sendHead p q t (some .yellow)
            | none => r.1

/-- A frame of an instance's TX ring may enter its queue: the transmit ceiling is not negative and the queue has room (R534). -/
def State.txReady (s : State) (w : Nat × Nat × Frame × Work) : Bool :=
  s.txCeilOk w.2.2.2.inst && s.room w.1 w.2.1 (s.egFrame w.1 w.2.2.1)
/-- Frames of TX rings that wait enter their queues, oldest of each instance first, and their descriptors complete. -/
def State.txAdmit (s : State) : State :=
  s.net.txWait.foldl (fun s w =>
    let ahead := (s.net.txWait.takeWhile fun x => x != w).any fun x => x.2.2.2.inst == w.2.2.2.inst && x.2.2.2.ring == w.2.2.2.ring
    if !ahead && s.txReady w then
      let s := { s with net.txWait := s.net.txWait.erase w }.txCeilCharge w.2.2.2.inst (s.egFrame w.1 w.2.2.1).wire
      let s := s.tally w.2.2.2.inst 2 (s.egFrame w.1 w.2.2.1).bytes
      (s.push w.1 w.2.1 w.2.2.1).commit 4 (.ring w.2.2.2 0 0 0)
    else s) s

/-- What waits for space enters its queue, in the order of Table 11.1. -/
def State.admitAll (s : State) : State := ((s.admitSource 1).admitSource 2).txAdmit.admitSource 4

/-- EGRESS_ARBITRATION: a frame boundary of a port, at a time in 2^−16 ns. Space freed goes to what waits for it. -/
def execEgressArbitration (port : Fin 32) (t : Nat) (s : State) : Out :=
  .next ((s.advance (t / u16)).arbitrate port.val t).admitAll

/-! ## Samples and shaper writes (R359, R367) -/

/-- Latch SMP_DEPTH and SMP_HEAD_DLY of every queue of a die. -/
def State.sampleEgress (s : State) (die : Nat) : State :=
  (List.range 16).foldl (fun s i =>
    let p := die * 16 + i
    (List.range 8).foldl (fun s q =>
      let l := (s.eg p).queue q
      let dly := match l with | f :: _ => s.time.now - f.enq | [] => 0
      (s.setFld (R.qSmpDepth p q) (min ((s.eg p).depth q) (2 ^ 24 - 1))).setFld (R.qSmpDly p q) (min dly (2 ^ 32 - 1))) s) s

/-- A write of CIR (0), PIR (1), BURST (2) or CTL (3) of a queue reloads both of its buckets; a code that is not a port ignores it. -/
def State.shaperWrite (s : State) (p q reg : Nat) (v : Word) : State :=
  if s.isPort p = false then s
  else
    let key := R.qKey p q + 4 * reg
    match regInfo key with
    | some i => (s.setWord key (BitVec.ofNat 32 (v.toNat &&& i.rw))).reloadQueue p q (s.time.now * u16)
    | none => s

/-- QUEUE_SHAPER_WRITE. -/
def execQueueShaperWrite (port : Fin 32) (q : Fin 8) (reg : Fin 4) (v : Word) (t : Nat) (s : State) : Out :=
  .next ((s.advance t).shaperWrite port.val q.val reg.val v)

end Sys2Proof.Machine
end

