-- ==== Sys2Proof/Machine/Cipher.lean ====
section
/-! DEFINITION. The cipher engines: key slots and what binds them, requests, and the compute-twice check (spec/12 R368 to R379). -/

namespace Sys2Proof.Machine

/-! ## Key slots (R370 to R374) -/

/-- A key slot; none when it is empty. -/
def State.key (s : State) (slot : Nat) : Option KeySlot := SMap.get (fun _ => none) s.keys.slots slot
/-- Replace a key slot; a new key starts its packet numbers anew. -/
def State.setKey (s : State) (slot : Nat) (k : Option KeySlot) : State :=
  let pn := s.net.rxPn.filter fun x => x.1 % 4096 != slot
  { s with keys.slots := SMap.set (fun _ => none) s.keys.slots slot k, net.txPn := SMap.set (fun _ => 0) s.net.txPn slot 0, net.rxPn := pn }

/-- A queue pair binds a slot: as its transmit slot or in one of its two receive epochs (R313). -/
def Qp.binds (q : Qp) (slot : Nat) : Bool := q.a.enc && (q.a.txSlot == slot || q.a.rxSlot == slot || q.rxOld == some slot)
/-- A SecY binds a slot through an association in use. -/
def State.secyBinds (s : State) (p slot : Nat) : Bool :=
  s.flag (R.secyEn p) &&
  (s.fld (R.secyTxSlot p (s.fld (R.secyTxAn p))) == slot ||
   (s.flag (R.secyNextValid p) && s.fld (R.secyTxSlot p (s.fld (R.secyNextAn p))) == slot) ||
   (List.range 8).any fun c => s.csr.get64 (R.secyRxSci p c) != 0 &&
     (List.range 4).any fun a => s.flag (R.secyRxValid p c a) && s.fld (R.secyRxSlot p c a) == slot)
/-- The bound count of a slot (R370, R372): queue pairs, SecYs, volumes, and a harvest in progress. -/
def State.boundCount (s : State) (slot : Nat) : Nat :=
  (s.lft.qps.filter fun q => match q.2 with | some x => x.binds slot | none => false).length +
  ((List.range 32).filter fun p => s.secyBinds p slot).length +
  (s.blk.vols.filter fun v => match v.2 with | some x => x.a.enc == 1 && x.a.slot == slot | none => false).length +
  (match s.ckpt.run with | some r => b2n (r.keySlot == slot) | none => 0) +
  (match s.ckpt.restore with | some r => b2n (r.keySlot == slot) | none => 0)

/-- KEY_WRITE of a slot: its status, and the state after it. -/
def State.keyWrite (s : State) (slot : Nat) (k : KeyRec) : State × Nat :=
  if s.boundCount slot ≠ 0 then (s, 0xA)
  else if k.xts ∧ k.k1 = k.k2 then (s, 0xB)
  else (s.setKey slot (some { xts := k.xts, owner := k.owner, k1 := k.k1, k2 := k.k2 }), 0)
/-- KEY_ERASE of a slot. -/
def State.keyErase (s : State) (slot : Nat) : State × Nat := if s.boundCount slot ≠ 0 then (s, 0xA) else (s.setKey slot none, 0)
/-- Erase the slots of removed instances that nothing binds any more (R536). -/
def State.sweepKeys (s : State) : State :=
  s.keys.erase.foldl (fun s slot =>
    if s.boundCount slot = 0 then { s.setKey slot none with keys.erase := s.keys.erase.erase slot } else s) s

/-! ## Requests (R375 to R379) -/

/-- The status of a request's checks, in code order, for an operation on a slot of a mode. -/
def State.cipherCheck (s : State) (q : CipherReq) (xts : Bool) : Nat :=
  let unit := if q.du4k then 4096 else 512
  let badLen := if xts then q.len = 0 ∨ q.len % unit ≠ 0 ∨ 2 ^ 24 < q.len ∨ q.aadLen ≠ 0
    else 2 ^ 24 < q.len ∨ 256 < q.aadLen ∨ q.aadLen + q.len = 0
  if q.rsv ∨ q.iv.length ≠ 16 ∨ (!xts ∧ (q.du4k ∨ q.iv.drop 12 ≠ List.replicate 4 0)) then 2
  else if badLen then 3
  else match s.key q.slot with
    | none => 4
    | some k =>
      if k.xts ≠ xts then 5
      else if q.inst ≠ k.owner ∧ q.inst ≠ 0xFF then 6 else 0

/-- Count a comparison failure of an engine, and report the engine at the third within 24 hours. -/
def State.ciphMiss (s : State) (e : Nat) : State :=
  let s := s.incFld (R.ciphMismatch e)
  let l := (e, s.time.now) :: s.keys.mism.filter fun m => s.time.now < m.2 + 86400000000000
  let s := { s with keys.mism := l }
  if 3 ≤ (l.filter fun m => m.1 == e).length then (s.setFld (R.ciphSuspect e) 1).report 0x07 (0x4000 + e) 0 else s

/-- Report an engine whose rerun failed too. -/
def State.ciphFault (s : State) (e : Nat) : State := (s.setFld (R.ciphSuspect e) 1).report 0x07 (0x4000 + e) 1

/-- The outcome of the comparisons: the state after counting, and whether the result may be released (R379). -/
def State.compare (s : State) (q : CipherReq) : State × Bool :=
  if q.mismatch = 0 then (s, true)
  else if q.mismatch = 1 then (s.ciphMiss q.e1.val, true)
  else (((s.incFld (R.ciphMismatch q.e1.val)).incFld (R.ciphMismatch q.e2.val)).ciphFault q.e1.val |>.ciphFault q.e2.val, false)

/-- Carry out a request of a Steward: check it, read its source, compute, compare, and release the result only when all passed. `f` answers
the bytes at DST, or none for AUTH. -/
def State.cipher (s : State) (q : CipherReq) (xts : Bool) (extra : Nat) (f : KeySlot → List Byte → Option (List Byte)) : State :=
  let done := fun (s : State) (st : Nat) => s.emit (.toSteward 8 q.tag st 0)
  let st := s.cipherCheck q xts
  if st ≠ 0 then done s st
  else match s.key q.slot with
    | none => done s 4
    | some k =>
      let n := q.aadLen + q.len + extra
      let s := s.hbmSeen q.src n
      if s.hbmBad q.src n then done s 9
      else
        let c := s.compare q
        if c.2 = false then done c.1 8
        else match f k (s.hbmBytes q.src n) with
          | none => done c.1 7
          | some out => done (c.1.hbmStore q.dst out) (if c.1.hbmMergeBad q.dst out.length then 9 else 0)

/-- GCM_ENC: AAD, ciphertext and tag at DST. -/
def execGcmEnc (q : CipherReq) (s : State) : Out :=
  .next (s.cipher q false 0 fun k b =>
    let aad := b.take q.aadLen
    let r := gcmEnc k.k1 (q.iv.take 12) aad (b.drop q.aadLen)
    some (aad ++ r.1 ++ r.2))
/-- GCM_DEC: AAD and plaintext at DST once the tag has verified. -/
def execGcmDec (q : CipherReq) (s : State) : Out :=
  .next (s.cipher q false 16 fun k b =>
    let aad := b.take q.aadLen
    (gcmDec k.k1 (q.iv.take 12) aad (slice b q.aadLen q.len) (b.drop (q.aadLen + q.len))).map fun p => aad ++ p)
/-- XTS_ENC. -/
def execXtsEnc (q : CipherReq) (s : State) : Out :=
  .next (s.cipher q true 0 fun k b => some (xts true k.k1 k.k2 (if q.du4k then 4096 else 512) (leNat q.iv) b))
/-- XTS_DEC. -/
def execXtsDec (q : CipherReq) (s : State) : Out :=
  .next (s.cipher q true 0 fun k b => some (xts false k.k1 k.k2 (if q.du4k then 4096 else 512) (leNat q.iv) b))

/-- The checks of a key operation before its own. -/
def keyOpCheck (q : CipherReq) : Nat :=
  if q.rsv ∨ q.du4k then 2 else if q.aadLen ≠ 0 then 3 else 0

/-- KEY_WRITE. -/
def execKeyWrite (q : CipherReq) (k : KeyRec) (s : State) : Out :=
  let st := keyOpCheck q
  let r := if st ≠ 0 then (s, st) else if q.steward then s.keyWrite q.slot k else
    (s, if s.boundCount q.slot ≠ 0 then 0xA else if k.xts ∧ k.k1 = k.k2 then 0xB else 0xC)
  .next (r.1.emit (.toSteward 8 q.tag r.2 0))
/-- KEY_ERASE. -/
def execKeyErase (q : CipherReq) (s : State) : Out :=
  let st := keyOpCheck q
  let r := if st ≠ 0 then (s, st) else if q.steward then s.keyErase q.slot else (s, if s.boundCount q.slot ≠ 0 then 0xA else 0xC)
  .next (r.1.emit (.toSteward 8 q.tag r.2 0))

end Sys2Proof.Machine
end

