-- ==== Sys2Proof/Machine/Lft.lean ====
section
/-! DEFINITION. The transport: residency of queue pairs, work requests and their order, transmission, waits and errors, and the control
operations on queue pairs and regions (spec/09; spec/01 R29 to R37; spec/19 R533). -/

namespace Sys2Proof.Machine

/-! ## Residency (R29 to R35, R329, R533) -/

/-- A completion of a request is held. -/
def State.owes (s : State) (w : Work) : Bool := s.twin.held.any fun h => match h.2 with | .ring v _ _ _ => v == w | _ => false
/-- A queue pair is pinned: it has packets to send, a held arrival names it, or a completion or ACK of it is not yet written (R31; log entry 170). -/
def State.qpPinned (s : State) (n : Nat) : Bool :=
  (s.lft.miss.any fun m => m.1 == n) ||
  (match s.qp n with
   | some q => (q.st == .ready && q.sent != q.next) || !q.waits.isEmpty || !q.again.isEmpty || q.due.any s.owes
   | none => false) ||
  s.twin.held.any fun h => match h.2 with
    | .notify _ _ q _ _ => q == n
    | .ack q _ _ => q == n
    | _ => false
/-- The resident queue pairs. -/
def State.residentQps (s : State) : List (Nat × Qp) :=
  s.lft.qps.filterMap fun q => match q.2 with
    | some x => if x.resident then some (q.1, x) else none
    | none => none
/-- The least recently used of a list. -/
def leastUsed : List (Nat × Qp) → Option (Nat × Qp)
  | [] => none
  | x :: xs => match leastUsed xs with
    | none => some x
    | some y => if x.2.used ≤ y.2.used then some x else some y
/-- Evict the least recently used unpinned queue pair of a list. -/
def State.evictQp (s : State) (l : List (Nat × Qp)) : Option State :=
  (leastUsed (l.filter fun x => !s.qpPinned x.1)).map fun x => s.setQp x.1 (some { x.2 with resident := false })
/-- QP_RES of an instance, in effect; zero is uncapped. -/
def State.qpResOf (s : State) (n : Nat) : Nat := if n < 64 then bits (s.quota.get (R.instKey n + 0x48)).toNat 0 13 else 0
/-- Room for one more resident queue pair of an owner, evicting one if needed; none when every candidate is pinned. -/
def State.qpRoom (s : State) (owner : Nat) : Option State :=
  let mine := s.residentQps.filter fun x => x.2.owner == owner
  if s.qpResOf owner ≠ 0 ∧ s.qpResOf owner ≤ mine.length then s.evictQp mine
  else if 4096 ≤ s.residentQps.length then s.evictQp s.residentQps
  else some s
/-- Evict what an instance holds above its cap, as far as it is unpinned (R533). -/
def State.trimQps (s : State) (owner : Nat) : Nat → State
  | 0 => s
  | k + 1 =>
    let mine := s.residentQps.filter fun x => x.2.owner == owner
    if s.qpResOf owner ≠ 0 ∧ s.qpResOf owner < mine.length then
      match s.evictQp mine with
      | some t => State.trimQps t owner k
      | none => s
    else s
/-- Note a use of a queue pair. -/
def State.touchQp (s : State) (n : Nat) : State :=
  { s with lft.clock := s.lft.clock + 1 }.modQp n fun q => { q with used := s.lft.clock + 1 }
/-- Load a queue pair's context if it is not resident and room can be made (R329). -/
def State.loadQp (s : State) (n : Nat) : State :=
  match s.qp n with
  | none => s
  | some q =>
    if q.resident then s.touchQp n
    else match s.qpRoom q.owner with
      | none => s
      | some t => ((t.modQp n fun q => { q with resident := true }).touchQp n).incFld R.lftCtxLoad

/-! ## Memory checks -/

/-- The local buffer of a work request is one its owner may use (R315). -/
def State.localOk (s : State) (owner addr len : Nat) : Bool :=
  if owner < 64 then s.sliceOk owner addr len && !s.inFwSpan addr len else decide (addr + len ≤ s.workTop) && !s.inRegion addr len

/-! ## Work requests (R315 to R317, R325 to R327) -/

/-- A request that waits on a count before it starts. -/
def LftReq.isWait (r : LftReq) : Bool := r.b.wait || r.op == 3
/-- The ring a request was posted on. -/
def LftReq.ringKey (r : LftReq) : Nat := match r.work with | some w => w.inst * 64 + w.ring | none => 4096 + r.steward
/-- The requests of every queue pair. -/
def State.allReqs (s : State) : List LftReq := s.lft.qps.flatMap fun q => match q.2 with | some x => x.reqs | none => []
/-- An earlier request of its ring still waits, so it waits behind it (R326). -/
def State.ringBlocked (s : State) (r : LftReq) : Bool :=
  s.allReqs.any fun x => x.ringKey == r.ringKey && x.ord < r.ord && x.isWait && !x.started && x.bad.isNone
/-- The awaited count has been reached (R326). -/
def State.waitMet (s : State) (r : LftReq) : Bool :=
  match s.qp r.b.waitQpn with
  | some q => decide (psnDiff q.count r.b.waitCount < 2 ^ 31)
  | none => false

/-- A request ends with a status: a completion on its ring, a status to its Steward, or a result of one of the device's own functions. -/
def State.reqEnd (s : State) (r : LftReq) (status : Nat) : State :=
  match r.work with
  | some w => let t := s.commit 3 (.ring w status 0 0); t.modQp r.b.qpn fun q => { q with due := (w :: q.due).filter t.owes }
  | none =>
    if r.steward < 16 then s.emit (.toSteward r.steward r.b.tag status 0)
    else { s with lft.finished := s.lft.finished ++ [(r.steward, r.b.tag, status, r.inl.getD [])] }
/-- A request is discarded: its descriptor ends without a completion. -/
def State.reqDrop (s : State) (r : LftReq) : State :=
  match r.work with
  | some w => s.ringDrop w
  | none => if r.steward < 16 then s else { s with lft.finished := s.lft.finished ++ [(r.steward, r.b.tag, 0xF, [])] }

/-- A request of a queue pair waits on a count at the front of its ring (R327). -/
def State.pendingWait (s : State) (q : Qp) (r : LftReq) : Bool :=
  r.isWait && !r.started && r.bad.isNone && !s.ringBlocked r && (match q.reqs.find? fun x => !x.started with | some x => x.ord == r.ord | none => false)
/-- Waits on a queue pair that entered ERROR or RESET or was destroyed are broken (R327). -/
def State.breakWaits (s : State) (n : Nat) : State :=
  s.lft.qps.foldl (fun t e =>
    match e.2 with
    | none => t
    | some _ =>
      t.modQp e.1 fun q => { q with reqs := q.reqs.map fun r =>
        if r.b.waitQpn == n && s.pendingWait q r then { r with bad := some 0xC } else r }) s

/-- Mirror a queue pair's context as it stands (Table 17.2). -/
def State.mirQp (s : State) (n : Nat) : State := s.mirror (.qp n (s.qp n))

/-- A queue pair enters ERROR: its requests end with the statuses given by place, and it stops transmitting (R325). -/
def State.lftError (s : State) (n : Nat) (st : Nat → Nat) : State :=
  match s.qp n with
  | none => s
  | some q =>
    let s := s.setQp n (some { q with st := .error, reqs := [], armed := none, k := 0, ackFrom := none, waits := [], again := [] })
    let s := (s.mirQp n).breakWaits n
    (q.reqs.zipIdx).foldl (fun s x => s.reqEnd x.1 (st x.2)) s
/-- ERROR with one failing request: every other one is FLUSHED. -/
def State.lftFail (s : State) (n i status : Nat) : State := s.lftError n fun k => if k = i then status else 0xF

/-- A started request has completed (R316). -/
def Qp.reqDone (q : Qp) (r : LftReq) : Bool :=
  if r.op = 1 then !psnAfter (psnAdd r.psn (r.n - 1)) q.acked
  else if r.op = 2 then r.got.length == r.n
  else r.done
/-- The request that holds a PSN, and its place. -/
def Qp.reqAt (q : Qp) (psn : Nat) : Option (LftReq × Nat) := q.reqs.zipIdx.find? fun x => x.1.started && decide (psnDiff psn x.1.psn < x.1.n)
/-- The queue pair has unacknowledged PSNs, or reads whose responses are incomplete. -/
def Qp.outstanding (q : Qp) : Bool :=
  q.sent != psnAdd q.acked 1 || q.reqs.any fun r => r.started && r.op == 2 && r.got.length != r.n && psnAfter q.sent r.psn

/-- Start the requests of a queue pair in order, as far as nothing holds them. Waits are evaluated on queue pair `ev` only (R326, R329). -/
def State.lftStart (s : State) (ev : Option Nat) (n : Nat) : Nat → State
  | 0 => s
  | k + 1 =>
    match s.qp n with
    | none => s
    | some q =>
      match q.reqs.zipIdx.find? fun x => !x.1.started with
      | none => s
      | some (r, i) =>
        if r.bad.isSome || s.ringBlocked r || (r.isWait && !(ev == some n && s.waitMet r)) then s
        else
          let c := if r.op = 3 then 0 else packetsOf r.b.len q.mtu
          let r := { r with started := true, psn := q.next, n := c, done := r.op == 3 }
          ((s.setQp n (some { q with next := psnAdd q.next c, reqs := q.reqs.set i r })).mirQp n).lftStart ev n k

/-- Complete the requests at the front of a queue pair: those that are done complete OK and count; one that failed its checks fails the
queue pair. -/
def State.lftFinish (s : State) (n : Nat) : Nat → State
  | 0 => s
  | k + 1 =>
    match s.qp n with
    | none => s
    | some q =>
      match q.reqs with
      | [] => s
      | r :: rest =>
        match r.bad with
        | some st => s.lftFail n 0 st
        | none =>
          if r.started && q.reqDone r then
            ((s.setQp n (some { q with reqs := rest, count := (q.count + 1) % 2 ^ 32 })).reqEnd r 0).lftFinish n k
          else s

/-! ## Transmission (R309, R316, R318, R323) -/

/-- Bytes of a request's local buffer; none when they meet an uncorrectable block. -/
def State.reqBytes (s : State) (r : LftReq) (off len : Nat) : Option (List Byte) :=
  match r.inl with
  | some d => some (slice d off len)
  | none => if s.hbmBad (r.b.laddr + off) len then none else some (s.hbmBytes (r.b.laddr + off) len)

/-- A WRITE packet of a request. -/
def lftWritePkt (q : Qp) (r : LftReq) (i : Nat) (d : List Byte) : LftPkt :=
  withPayload { lftBlank 1 (psnAdd r.psn i) with
    flags := b2n (i + 1 == r.n) + b2n r.b.notify * 2, msgPsn := r.psn, msgLen := r.b.len, msgOffset := i * mtuBytes q.mtu,
    raddr := r.b.raddr, rkey := r.b.rkey } d
/-- The READ_REQ packet of a request. -/
def lftReadPkt (r : LftReq) : LftPkt :=
  { lftBlank 2 r.psn with msgPsn := r.psn, msgLen := r.b.len, raddr := r.b.raddr, rkey := r.b.rkey }

/-- Transmit the packet of a PSN; none when it cannot be sent now. An uncorrectable block in the local buffer fails the request. -/
def State.lftXmit (s : State) (n psn : Nat) : Option State :=
  match s.qp n with
  | none => none
  | some q =>
    match q.reqAt psn with
    | none => none
    | some (r, i) =>
      if r.op = 2 then s.lftSend n (lftReadPkt r)
      else
        let m := mtuBytes q.mtu
        let k := psnDiff psn r.psn
        let s := if r.inl.isNone then s.hbmSeen (r.b.laddr + k * m) (min m (r.b.len - k * m)) else s
        match s.reqBytes r (k * m) (min m (r.b.len - k * m)) with
        | none => some (s.lftFail n i 0xB)
        | some d => s.lftSend n (lftWritePkt q r k d)

/-- The PSNs to transmit again: unmarked writes above the acknowledged edge, and reads whose responses are incomplete. -/
def Qp.resend (q : Qp) : List Nat :=
  let reads := (q.reqs.filter fun r => r.started && r.op == 2 && r.got.length != r.n && psnAfter q.sent r.psn).map (·.psn)
  let writes := ((List.range (psnDiff q.sent q.acked - 1)).map fun i => (i, psnAdd q.acked (1 + i))).filterMap fun x =>
    if 64 ≤ x.1 ∨ bitAt q.sack x.1 = false then
      (match q.reqAt x.2 with | some (r, _) => if r.op = 1 then some x.2 else none | none => none)
    else none
  reads ++ writes

/-- A request may go out: its PSNs stay within 4,096 of the acknowledged edge, or it is a longer read and nothing is outstanding (R318; DESIGN
CHOICE, log entry 171). -/
def Qp.fits (q : Qp) (r : LftReq) : Bool :=
  decide (psnDiff q.sent q.acked + (if r.op = 2 then r.n else 1) ≤ 4097) || (r.op == 2 && q.sent == psnAdd q.acked 1)
/-- Transmit again what a timer's expiry named and is still outstanding, as far as the queue pair can send. -/
def State.lftAgain (s : State) (n : Nat) : Nat → State
  | 0 => s
  | k + 1 =>
    match s.qp n with
    | none => s
    | some q =>
      match q.again with
      | [] => s
      | p :: rest =>
        if q.resend.contains p then
          (if s.lftCan q then
            let s := s.setQp n (some { q with again := rest })
            ((s.lftXmit n p).getD s).lftAgain n k
          else s)
        else (s.setQp n (some { q with again := rest })).lftAgain n k

/-- Transmit what has not been sent, within the window; the first transmission arms the timer, and so does what finds no active path (R323, R328;
log entry 171). -/
def State.lftPump (s : State) (n : Nat) : Nat → State
  | 0 => s
  | k + 1 =>
    match s.qp n with
    | none => s
    | some q =>
      if q.st ≠ .ready ∨ q.sent = q.next ∨ !q.waits.isEmpty ∨ !q.again.isEmpty then s
      else match q.reqAt q.sent with
        | none => s
        | some (r, _) =>
          if q.fits r = false then s
          else if (s.nextPath q).isNone then s.setQp n (some { q with armed := q.armed <|> some s.time.now })
          else match s.lftXmit n q.sent with
            | some t =>
              (t.modQp n fun q => if q.st = .ready then
                { q with sent := psnAdd q.sent (if r.op = 2 then r.n else 1), armed := q.armed <|> some s.time.now } else q).lftPump n k
            | none => s

/-- One queue pair: what waits goes out, requests start and complete, and what is due is transmitted. -/
def State.lftRun (s : State) (ev : Option Nat) (n : Nat) : State :=
  match s.qp n with
  | some q =>
    let s := s.lftDrain n q.waits.length
    if q.st = .ready ∧ q.resident then
      let s := s.lftAgain n q.again.length
      let s := (s.lftStart ev n (q.reqs.length + 1)).lftFinish n (q.reqs.length + 1)
      s.lftPump n 4097
    else s
  | none => s
/-- Every queue pair, again and again. -/
def State.lftPasses (s : State) (ev : Option Nat) : Nat → State
  | 0 => s
  | k + 1 => (s.lft.qps.foldl (fun s e => s.lftRun ev e.1) s).lftPasses ev k
/-- Let the transport do all it can now. -/
def State.lftSettle (s : State) (ev : Option Nat) : State := s.lftPasses ev (s.allReqs.length + 2)

/-- The status of a check that a request fails, if any (R315, R317). -/
def State.reqCheck (s : State) (owner op : Nat) (b : LftBody) (own : Bool) : Option Nat :=
  let badWait := (b.wait || op == 3) && (match s.qp b.waitQpn with | some q => q.owner != owner | none => true)
  if b.rsvOp ∨ b.rsv ∨ (op ≠ 3 ∧ (b.len = 0 ∨ 2 ^ 31 < b.len)) ∨ (op = 3 ∧ b.len ≠ 0) ∨ badWait then some 1
  else if op ≠ 3 ∧ !own ∧ !s.localOk owner b.laddr b.len then some 2
  else none

/-- Post a work request on its queue pair (Table 9.5). `inl` is the buffer of one of the device's own functions. -/
def State.lftPost (s : State) (owner op : Nat) (b : LftBody) (work : Option Work) (steward : Nat) (inl : Option (List Byte)) : State :=
  let s := { s with lft.ord := s.lft.ord + 1 }
  let r : LftReq := { op := op, b := b, work := work, steward := steward, ord := s.lft.ord, bad := s.reqCheck owner op b inl.isSome,
                      started := false, psn := 0, n := 0, inl := inl, got := [], done := false }
  match s.qp b.qpn with
  | none => s.reqEnd r 1
  | some q =>
    if q.owner ≠ owner then s.reqEnd r 1
    else
      let s := s.loadQp b.qpn
      match q.st with
      | .reset => s.reqEnd r 3
      | .error => s.reqEnd r 0xF
      | _ => s.modQp b.qpn fun q => { q with reqs := q.reqs ++ [r] }

/-- A work request of a ring of type LFT, or of a Steward. -/
def State.lftRequest (s : State) (op : Nat) (src : LftSrc) (b : LftBody) (t : Nat) : State :=
  let s := s.advance t
  match src with
  | .ring i r =>
    match s.take i.val r.val 2 b.tag with
    | none => s
    | some (u, w) => (u.lftPost i.val op b (some w) 8 none).lftSettle (some b.qpn)
  | .steward n => (s.lftPost 64 op b none n.val none).lftSettle (some b.qpn)

/-! ## Control operations (R302 to R306, R311, R313, R314) -/

/-- The packed length of the attributes that follow `at_` bytes of parameters (R516). -/
def qpParamLen (at_ : Nat) (a : QpAttr) : Nat :=
  let list := ((at_ + 1) / 2 * 2 + 5 + 3) / 4 * 4
  (list + 4 + 7) / 8 * 8 + 40 * a.paths.length + 6

/-- An attribute is out of range (Table 9.1): a path names a port of its octet's mode, and one of the local addresses of that port. -/
def State.qpAttrBad (s : State) (a : QpAttr) : Bool :=
  decide (65535 < a.peerQpn) || decide (3 < a.mtu) || decide (15 < a.retryLimit) || decide (255 < a.trafficClass) || a.paths.isEmpty ||
  decide (8 < a.paths.length) || (a.paths.any fun p => !s.isPort p.port || !s.isLocal p.port p.addr || decide (2 ^ 128 ≤ p.peer)) ||
  decide (4095 < a.txSlot) || decide (4095 < a.rxSlot)

/-- Another queue pair transmits with a slot. -/
def State.txBusy (s : State) (n slot : Nat) : Bool :=
  s.lft.qps.any fun e => e.1 != n && (match e.2 with | some q => q.a.enc && q.a.txSlot == slot | none => false)
/-- The key slots of the attributes are the owner's. -/
def State.slotsOk (s : State) (owner : Nat) (a : QpAttr) : Bool :=
  !a.enc || decide (64 ≤ owner) || (s.ownsSlot owner a.txSlot && s.ownsSlot owner a.rxSlot)

/-- A queue pair in RESET. -/
def Qp.new (owner ring : Nat) (a : QpAttr) (resident : Bool) (used : Nat) : Qp :=
  { owner := owner, notifyRing := ring, a := a, st := .reset, initPsn := 0, peerPsn := 0, mtu := a.mtu, txEpoch := 0, rxEpoch := 0,
    rxOld := none, next := 0, sent := 0, acked := 0, sack := 0, k := 0, armed := none, lastTx := 0, path := 0, edge := 0, marks := [],
    msgs := [], since := 0, ackFrom := none, dupAck := none, waits := [], again := [], reqs := [], due := [], count := 0, resident := resident, used := used }

/-- The numbers a new queue pair may get (R304). -/
def State.freeQpns (s : State) : List Nat :=
  (List.range 65536).filter fun n => (s.qp n).isNone && !s.lft.quarantine.any fun x => x.1 == n && decide (s.time.now < x.2)
/-- Queue pairs in existence. -/
def State.qpCount (s : State) : Nat := (s.lft.qps.filter fun e => e.2.isSome).length

/-- Create a queue pair under a number. -/
def State.qpMake (s : State) (n owner ring : Nat) (a : QpAttr) : State :=
  let mine := (s.residentQps.filter fun x => x.2.owner == owner).length
  let room := decide (s.residentQps.length < 4096) && (s.qpResOf owner == 0 || decide (mine < s.qpResOf owner))
  ((s.setQp n (some (Qp.new owner ring a room 0))).touchQp n).mirQp n

/-- QP_CREATE (R302, R304). -/
def State.qpCreate (s : State) (owner : Nat) (work : Option Work) (st ring : Nat) (a : QpAttr) : CtlRes :=
  if 65536 ≤ s.qpCount then .fail s 1
  else if s.qpAttrBad a ∨ 63 < ring then .fail s 3
  else if a.enc ∧ s.txBusy 65536 a.txSlot then .fail s 5
  else if !s.slotsOk owner a then .fail s 7
  else match s.pick s.freeQpns with
    | some n => .val (s.tick.qpMake n owner ring a) n
    | none => .wait { s with lft.creating := s.lft.creating ++ [(work, st, owner, ring, a)] }

/-- A number leaves quarantine: the oldest CREATE that waits gets it. -/
def State.quarantineEnd (s : State) (n : Nat) : State :=
  let s := { s with lft.quarantine := s.lft.quarantine.filter fun x => !(x.1 == n && decide (x.2 ≤ s.time.now)) }
  if (s.qp n).isSome ∨ (s.lft.quarantine.any fun x => x.1 == n) then s
  else match s.lft.creating with
    | [] => s
    | (w, st, owner, ring, a) :: rest =>
      let s := { s with lft.creating := rest }.qpMake n owner ring a
      match w with
      | some w => s.commit 3 (.ring w 0 n 0)
      | none => s.emit (.toSteward st 0 0 n)

/-- A queue pair an owner may name. -/
def State.ownQp (s : State) (owner n : Nat) : Option Qp :=
  match s.qp n with
  | some q => if q.owner = owner then some q else none
  | none => none

/-- The attributes with those of a mask replaced. -/
def qpAttrMerge (a b : QpAttr) (mask : Nat) : QpAttr :=
  { peerQpn := if bitAt mask 0 then b.peerQpn else a.peerQpn, mtu := if bitAt mask 1 then b.mtu else a.mtu,
    retryLimit := if bitAt mask 2 then b.retryLimit else a.retryLimit, trafficClass := if bitAt mask 3 then b.trafficClass else a.trafficClass,
    paths := if bitAt mask 4 then b.paths else a.paths, enc := if bitAt mask 5 then b.enc else a.enc,
    txSlot := if bitAt mask 6 then b.txSlot else a.txSlot, rxSlot := if bitAt mask 6 then b.rxSlot else a.rxSlot }

/-- QP_MODIFY (R303, R313): a slot counts as modified when its value changes. -/
def State.qpModify (s : State) (owner n mask : Nat) (b : QpAttr) : CtlRes :=
  match s.ownQp owner n with
  | none => .fail s 2
  | some q =>
    let a := qpAttrMerge q.a b mask
    if 128 ≤ mask ∨ s.qpAttrBad a then .fail s 3
    else if (q.st ≠ .reset ∧ (bitAt mask 0 ∨ bitAt mask 1 ∨ bitAt mask 5)) ∨ (q.st ≠ .reset ∧ q.st ≠ .ready) then .fail s 4
    else if a.enc ∧ s.txBusy n a.txSlot then .fail s 5
    else if !s.slotsOk owner a then .fail s 7
    else
      let rx := decide (a.rxSlot ≠ q.a.rxSlot)
      let q := { q with a := a, mtu := if q.st = .reset then a.mtu else q.mtu,
                        txEpoch := (q.txEpoch + b2n (decide (a.txSlot ≠ q.a.txSlot))) % 65536,
                        rxOld := if rx then some q.a.rxSlot else q.rxOld, rxEpoch := (q.rxEpoch + b2n rx) % 65536 }
      .ok (((s.setQp n (some q)).sweepKeys).mirQp n)

/-- Send a HELLO (6) or a HELLO_ACK (7). -/
def State.lftHello (s : State) (n opcode : Nat) : State :=
  match s.qp n with
  | some q => s.lftTry n (withPayload (lftBlank opcode q.initPsn) (natLe 1 q.a.mtu ++ natLe 1 (b2n q.a.enc) ++ List.replicate 6 0))
  | none => s

/-- QP_CONNECT (R311). -/
def State.qpConnect (s : State) (owner n : Nat) : CtlRes :=
  match s.ownQp owner n with
  | none => .fail s 2
  | some q =>
    if q.st ≠ .reset then .fail s 4
    else
      let p := s.freeWord.toNat
      let q := { q with st := .hello, initPsn := p, next := p, sent := p, acked := psnAdd p (2 ^ 32 - 1), sack := 0, k := 0,
                        armed := some s.time.now, path := 0 }
      .ok (((s.tick.setQp n (some q)).lftHello n 6).mirQp n)

/-- A queue pair returns to RESET: timers, windows and queued work are discarded (Table 9.5). -/
def State.qpToReset (s : State) (n : Nat) : State :=
  match s.qp n with
  | none => s
  | some q =>
    let s := s.setQp n (some { Qp.new q.owner q.notifyRing q.a q.resident q.used with
      txEpoch := q.txEpoch, rxEpoch := q.rxEpoch, rxOld := q.rxOld, lastTx := q.lastTx, count := q.count })
    let s := { s with lft.miss := s.lft.miss.filter fun m => m.1 != n, lft.notified := s.lft.notified.filter fun m => m.1 != n }
    q.reqs.foldl (fun s r => s.reqDrop r) ((s.breakWaits n).mirQp n)

/-- QP_RESET (R314). -/
def State.qpReset (s : State) (owner n : Nat) : CtlRes :=
  match s.ownQp owner n with
  | none => .fail s 2
  | some q => if q.st = .reset then .fail s 4 else .ok ((s.qpToReset n).lftSettle none)

/-- A queue pair ends, and its number is quarantined for 4 ms. -/
def State.qpRemove (s : State) (n : Nat) : State :=
  let s := s.qpToReset n
  ({ s.setQp n none with lft.quarantine := s.lft.quarantine ++ [(n, s.time.now + 4000000)] }).sweepKeys.mirQp n

/-- QP_DESTROY (R304). -/
def State.qpDestroy (s : State) (owner n : Nat) : CtlRes :=
  match s.ownQp owner n with
  | none => .fail s 2
  | some _ => .ok ((s.qpRemove n).lftSettle none)

/-- A region. -/
def State.region (s : State) (i : Nat) : Option Region := SMap.get (fun _ => none) s.lft.regions i
/-- Replace a region. -/
def State.setRegion (s : State) (i : Nat) (r : Option Region) : State := { s with lft.regions := SMap.set (fun _ => none) s.lft.regions i r }
/-- Mirror a region as it stands. -/
def State.mirRegion (s : State) (i : Nat) : State := s.mirror (.region i (s.region i))

/-- REGION_REGISTER (R305). -/
def State.regionRegister (s : State) (owner base len access : Nat) : CtlRes :=
  let free := (List.range 16384).filter fun i => (s.region i).isNone
  if len = 0 ∨ 2 ^ 38 - 1 < len ∨ 3 < access then .fail s 3
  else match s.pick free with
    | none => .fail s 6
    | some i =>
      if !s.localOk owner base len ∨ s.inFwSpan base len then .fail s 7
      else
        let g := (SMap.get (fun _ => 0) s.lft.gens i + 1) % 65536
        let s := { s with lft.gens := SMap.set (fun _ => 0) s.lft.gens i g }
        .val ((s.tick.setRegion i (some { inst := owner, base := base, len := len, read := bitAt access 0, write := bitAt access 1,
                                           gen := g })).mirRegion i) (i + g * 65536)

/-- REGION_DEREGISTER (R306): an RKEY that names no region of the owner is out of range. -/
def State.regionDeregister (s : State) (owner rkey : Nat) : CtlRes :=
  match s.region (rkey % 65536) with
  | some r => if r.inst = owner ∧ r.gen = rkey / 65536 then .ok ((s.setRegion (rkey % 65536) none).mirRegion (rkey % 65536)) else .fail s 3
  | none => .fail s 3

end Sys2Proof.Machine
end

