-- ==== Sys2Proof/Machine/LftRx.lean ====
section
/-! DEFINITION. The transport's receive side: checks of an arriving packet, placement, the retired edge, acknowledgements, reads, NAKs, the
connection exchange and the timers (spec/09 R308 to R331). -/

namespace Sys2Proof.Machine

/-! ## Answers (R314, R330, R331) -/

/-- Record a violation of a partner with the QP and the PSN. -/
def State.lftViol (s : State) (p : LftPkt) (status reason : Nat) : State := s.violate 2 0 7 status reason (p.destQpn % 65536) p.psn

/-- Answer a packet with a NAK: over the QP's own paths when the packet comes from its peer, else to where the packet came from. -/
def State.lftNak (s : State) (port : Nat) (p : LftPkt) (code : Nat) : State :=
  let b := withPayload (lftBlank 5 p.psn) (natLe 1 code ++ [0, 0, 0])
  let raw := if s.lftQuiet || decide (32 ≤ port) then s else
    s.sendFrame port (s.classQueue port (p.tclass / 32))
      (.lft { b with src := p.dst, dst := p.src, tclass := p.tclass, sport := lftSport p.destQpn 0, destQpn := p.srcQpn,
                     srcQpn := p.destQpn % 65536, txTime := s.time.now })
  match s.qp p.destQpn with
  | some q => if q.a.peerQpn == p.srcQpn && q.a.paths.any fun x => x.peer == p.src then s.lftTry p.destQpn b else raw
  | none => raw

/-- NAK NO_QP, at most one per QP every 100 µs; the rest are counted. -/
def State.nakNoQp (s : State) (port : Nat) (p : LftPkt) : State :=
  if s.time.now < SMap.get (fun _ => 0) s.lft.nakAt p.destQpn then s.incFld R.lftNoQp
  else ({ s with lft.nakAt := SMap.set (fun _ => 0) s.lft.nakAt p.destQpn (s.time.now + 100000) }).lftNak port p 1

/-! ## Regions (R305, R319, Table 9.8) -/

/-- The base of the region an extent lies in, or the NAK code. -/
def State.regionCheck (s : State) (q : Qp) (rkey raddr len : Nat) (write : Bool) : Except Nat Nat :=
  match s.region (rkey % 65536 + (if 128 ≤ q.owner then 65536 else 0)) with
  | none => .error 2
  | some r =>
    if 16383 < rkey % 65536 ∨ r.gen ≠ rkey / 65536 ∨ r.inst ≠ q.owner then .error 2
    else if r.len < raddr + len then .error 3
    else if (write ∧ !r.write) ∨ (!write ∧ !r.read) ∨ s.inFwSpan (r.base + raddr) len ∨ s.inRegion (r.base + raddr) len ∨ s.workTop < r.base + raddr + len then .error 4
    else .ok r.base
/-- Answer with a region's NAK; one the Rind caused is logged as blocked. -/
def State.regionNak (s : State) (port : Nat) (p : LftPkt) (code : Nat) : State :=
  let s := match s.region (p.rkey % 65536 + p.destQpn / 65536 * 65536) with
    | some r => if code = 4 ∧ s.inFwSpan (r.base + p.raddr) p.msgLen then s.rindBlock 13 4 else s
    | none => s
  s.lftNak port p code

/-! ## Acknowledgements (R318, R322) -/

/-- The SACK bitmap above the edge. -/
def Qp.sackBits (q : Qp) : Nat := ((List.range 64).map fun i => if q.marks.contains (psnAdd q.edge (1 + i)) then 2 ^ i else 0).sum
/-- Send an ACK of the edge, once the twin confirms what it covers. -/
def State.lftAck (s : State) (n : Nat) : State :=
  match s.qp n with
  | none => s
  | some q => (s.setQp n (some { q with since := 0, ackFrom := none })).commit 3 (.ack n q.edge q.sackBits)
/-- A duplicate: counted, and acknowledged at once, at most once per µs. -/
def State.lftDup (s : State) (n : Nat) (ack : Bool) : State :=
  let s := s.incFld R.lftDup
  match s.qp n with
  | none => s
  | some q =>
    if ack && (match q.dupAck with | some t => decide (t + 1000 ≤ s.time.now) | none => true) then
      (s.setQp n (some { q with dupAck := some s.time.now })).lftAck n
    else s

/-! ## Reads at the responder (R320) -/

/-- Execute a read: its NAK code, or its responses sent. -/
def State.readExec (s : State) (port n : Nat) (p : LftPkt) : State × Bool :=
  match s.qp n with
  | none => (s, false)
  | some q =>
    match s.regionCheck q p.rkey p.raddr p.msgLen false with
    | .error c => (s.regionNak port p c, false)
    | .ok base =>
      let s := s.hbmSeen (base + p.raddr) p.msgLen
      if s.hbmBad (base + p.raddr) p.msgLen then (s.lftNak port p 6, false)
      else
        let m := mtuBytes q.mtu
        let k := packetsOf p.msgLen q.mtu
        ((List.range k).foldl (fun t i =>
          t.lftTry n (withPayload { lftBlank 3 (psnAdd p.psn i) with
            flags := b2n (i + 1 == k), msgPsn := p.psn, msgLen := p.msgLen, msgOffset := i * m }
            (t.hbmBytes (base + p.raddr + i * m) (min m (p.msgLen - i * m))))) s, true)

/-! ## The retired edge (R319) -/

/-- The packet that stands for a message record. -/
def LftMsg.pkt (m : LftMsg) (n : Nat) : LftPkt :=
  { lftBlank 2 m.psn with destQpn := n, msgPsn := m.psn, msgLen := m.len, raddr := m.raddr, rkey := m.rkey }
/-- The edge passes a message. -/
def Qp.retire (q : Qp) (m : LftMsg) : Qp :=
  { q with edge := psnAdd m.psn (m.n - 1), marks := q.marks.filter (fun x => m.n ≤ psnDiff x m.psn), msgs := q.msgs.filter (fun x => x.psn != m.psn) }
/-- A notify completion of a message has been posted. -/
def State.wasNotified (s : State) (n psn : Nat) : Bool := s.lft.notified.any fun x => x.1 == n && x.2 == psn

/-- Advance the edge over complete messages in order. -/
def State.lftEdge (s : State) (port n : Nat) : Nat → State
  | 0 => s
  | k + 1 =>
    match s.qp n with
    | none => s
    | some q =>
      match q.msgs.find? fun m => m.psn == psnAdd q.edge 1 with
      | none => s
      | some m =>
        if q.st ≠ .ready then s
        else if m.read then
          let r := s.readExec port n { m.pkt n with src := (q.a.paths.head?.map (·.peer)).getD 0, srcQpn := q.a.peerQpn }
          if r.2 then ((r.1.modQp n fun q => q.retire m).mirQp n).lftEdge port n k
          else r.1.modQp n fun q => { q with msgs := q.msgs.filter fun x => x.psn != m.psn }
        else if m.placed ≠ m.len then s
        else if !m.notify then (((s.modQp n fun q => q.retire m).mirQp n).lftAck n).lftEdge port n k
        else
          let s := if m.asked then s else
            (s.modQp n fun q => { q with msgs := q.msgs.map fun x => if x.psn == m.psn then { x with asked := true } else x }).commit 3
              (.notify q.owner q.notifyRing n m.len m.psn)
          if s.wasNotified n m.psn then
            let s := { s with lft.notified := s.lft.notified.filter fun x => !(x.1 == n && x.2 == m.psn) }
            (((s.modQp n fun q => { q.retire m with count := (q.count + 1) % 2 ^ 32 }).mirQp n).lftAck n).lftEdge port n k
          else s

/-- Take up a notify completion that has been posted: the edge advances; one of a queue pair that has left READY counts all the same (R325). -/
def State.lftTake (s : State) (x : Nat × Nat) : State :=
  match s.qp x.1 with
  | some q =>
    if q.st = .ready then s.lftEdge 0 x.1 4097
    else { s.setQp x.1 (some { q with count := (q.count + 1) % 2 ^ 32 }) with lft.notified := s.lft.notified.erase x }
  | none => s
/-- Take up the notify completions that have been posted. -/
def State.lftNotified (s : State) : State := (s.lft.notified.foldl State.lftTake s).lftSettle none

/-! ## Arrivals at a READY queue pair -/

/-- A WRITE or READ_RESP packet is consistent (R309). -/
def lftConsistent (q : Qp) (p : LftPkt) : Bool :=
  let m := mtuBytes q.mtu
  p.msgOffset % m == 0 && p.psn == psnAdd p.msgPsn (p.msgOffset / m) && decide (1 ≤ p.msgLen) && decide (p.msgLen ≤ 2 ^ 31) &&
  decide (p.msgOffset < p.msgLen) && p.payloadLen == min m (p.msgLen - p.msgOffset) && p.payload.length == p.payloadLen

/-- Where a PSN falls at a receiver: 0 a duplicate at or before the edge, 1 marked, 2 beyond the window, 3 new (R318). -/
def Qp.fall (q : Qp) (psn : Nat) : Nat :=
  if !psnAfter psn q.edge then 0 else if q.marks.contains psn then 1 else if 4096 < psnDiff psn q.edge then 2 else 3
/-- A PSN beyond the window. -/
def State.outWindow (s : State) (p : LftPkt) : State := (s.incFld R.lftOutWindow).lftViol p 0xFF 5
/-- An inconsistent packet. -/
def State.lftProtocol (s : State) (port : Nat) (p : LftPkt) (reason : Nat) : State := (s.lftNak port p 7).lftViol p 7 reason

/-- Count a placed packet in its message. -/
def Qp.place (q : Qp) (p : LftPkt) : Qp :=
  let m : LftMsg := { psn := p.msgPsn, n := packetsOf p.msgLen q.mtu, len := p.msgLen, raddr := p.raddr, rkey := p.rkey, read := false,
                      notify := bitAt p.flags 1, placed := 0, asked := false }
  let l := if q.msgs.any fun x => x.psn == p.msgPsn then q.msgs else q.msgs ++ [m]
  { q with marks := q.marks ++ [p.psn], since := q.since + 1, msgs := l.map fun x => if x.psn == p.msgPsn then { x with placed := x.placed + p.payloadLen } else x }

/-- 16 packets have been marked since the last ACK (R322). -/
def State.ackFull (s : State) (n : Nat) : State :=
  match s.qp n with
  | some q => if 16 ≤ q.since then s.lftAck n else s
  | none => s

/-- A WRITE packet (R318, R319, R322). -/
def State.lftWriteIn (s : State) (port at_ : Nat) (q : Qp) (p : LftPkt) : State :=
  let n := p.destQpn
  if !lftConsistent q p then s.lftProtocol port p 5
  else match q.fall p.psn with
    | 0 => s.lftDup n true
    | 1 => s.lftDup n false
    | 2 => s.outWindow p
    | _ =>
      match s.regionCheck q p.rkey p.raddr p.msgLen true with
      | .error c => (s.modQp n fun q => { q with marks := q.marks ++ [p.psn], since := q.since + 1, ackFrom := q.ackFrom <|> some at_ }).regionNak port p c
      | .ok base =>
        let a := base + p.raddr + p.msgOffset
        let s := s.hbmMerged a p.payloadLen
        if s.hbmMergeBad a p.payloadLen then s.lftNak port p 6
        else
          let s := (s.hbmPut a p.payload).modQp n fun q => { q.place p with ackFrom := q.ackFrom <|> some at_ }
          (s.lftEdge port n 4097).ackFull n

/-- A READ_REQ packet (R318, R320). Its responses acknowledge it; one that waits behind a gap is an unacknowledged arrival (R322). -/
def State.lftReadReqIn (s : State) (port at_ : Nat) (q : Qp) (p : LftPkt) : State :=
  let n := p.destQpn
  if p.psn ≠ p.msgPsn ∨ p.msgLen = 0 ∨ 2 ^ 31 < p.msgLen then s.lftProtocol port p 5
  else match q.fall p.psn with
    | 0 => ((s.incFld R.lftDup).readExec port n p).1
    | 1 => s.lftDup n false
    | 2 => s.outWindow p
    | _ =>
      let m : LftMsg := { psn := p.psn, n := packetsOf p.msgLen q.mtu, len := p.msgLen, raddr := p.raddr, rkey := p.rkey, read := true,
                          notify := false, placed := 0, asked := false }
      let s := (s.modQp n fun q => { q with marks := q.marks ++ [p.psn], msgs := q.msgs ++ [m] }).lftEdge port n 4097
      match s.qp n with
      | some q =>
        if q.msgs.any fun x => x.psn == p.psn then
          (s.setQp n (some { q with since := q.since + 1, ackFrom := q.ackFrom <|> some at_ })).ackFull n
        else s
      | none => s

/-- The acknowledged edge advances over the PSNs of reads whose responses are placed. -/
def Qp.advAck (q : Qp) : Nat → Qp
  | 0 => q
  | k + 1 =>
    let p := psnAdd q.acked 1
    if p = q.sent then q
    else match q.reqAt p with
      | some (r, _) => if r.op = 2 ∧ r.got.contains (psnDiff p r.psn) then { q with acked := p, sack := q.sack / 2 }.advAck k else q
      | none => q
/-- Progress resets the retry timer (R323). -/
def Qp.progress (q : Qp) (old now : Nat) : Qp :=
  if q.acked = old then (if q.outstanding then q else { q with armed := none, k := 0 })
  else { q with k := 0, armed := if q.outstanding then some now else none }

/-- A READ_RESP packet: placed in the local buffer of the read it answers. -/
def State.lftReadRespIn (s : State) (port at_ : Nat) (q : Qp) (p : LftPkt) : State :=
  let n := p.destQpn
  if !lftConsistent q p then s.lftProtocol port p 5
  else match q.reqAt p.psn with
    | some (r, i) =>
      let k := psnDiff p.psn r.psn
      if r.op = 2 ∧ psnAfter q.sent p.psn ∧ r.psn = p.msgPsn ∧ r.b.len = p.msgLen then
        if r.got.contains k then s.lftDup n (!psnAfter p.psn q.acked)
        else
          let a := r.b.laddr + p.msgOffset
          let s := if r.inl.isNone then s.hbmMerged a p.payloadLen else s
          if r.inl.isNone ∧ s.hbmMergeBad a p.payloadLen then s.lftFail n i 0xB
          else
            let s := if r.inl.isNone then s.hbmPut a p.payload else s
            let r := { r with got := r.got ++ [k], inl := r.inl.map fun d => d.take p.msgOffset ++ p.payload ++ d.drop (p.msgOffset + p.payloadLen) }
            let q' := { q with reqs := q.reqs.set i r }
            s.setQp n (some ((q'.advAck (psnDiff q'.sent q'.acked)).progress q.acked at_))
      else if !psnAfter p.psn q.acked then s.lftDup n true
      else (s.lftFail n 0 0xA).lftViol p 0xFF 7
    | none =>
      if !psnAfter p.psn q.acked then s.lftDup n true
      else if 4096 < psnDiff p.psn q.acked then s.outWindow p
      else (s.lftFail n 0 0xA).lftViol p 0xFF 7

/-- An ACK packet (R322, R323). -/
def State.lftAckIn (s : State) (at_ : Nat) (q : Qp) (p : LftPkt) : State :=
  let n := p.destQpn
  if psnAfter p.psn (psnAdd q.sent (2 ^ 32 - 1)) then (s.lftFail n 0 0xA).lftViol p 0xFF 5
  else if psnAfter q.acked p.psn then s
  else
    let q' := { q with acked := p.psn, sack := beNat (p.payload.take 8) }
    s.setQp n (some ((q'.advAck (psnDiff q'.sent q'.acked)).progress q.acked at_))

/-- The status of a NAK code (Tables 9.7 and 9.8). -/
def nakStatus (c : Nat) : Option Nat :=
  match c with
  | 1 => some 5 | 2 => some 6 | 3 => some 7 | 4 => some 8 | 5 => some 0xD | 6 => some 9 | 7 => some 0xA | _ => none

/-- A NAK packet (R330). -/
def State.lftNakIn (s : State) (q : Qp) (p : LftPkt) : State :=
  let n := p.destQpn
  match nakStatus ((p.payload[0]?.getD 0).toNat) with
  | none => (s.lftFail n 0 0xA).lftViol p 0xFF 1
  | some st =>
    match q.reqAt p.psn with
    | some (_, i) => s.lftFail n i st
    | none => s.lftError n fun _ => 0xF

/-- A HELLO (6) or HELLO_ACK (7) of the peer (R311, R312). -/
def State.lftHelloIn (s : State) (port : Nat) (q : Qp) (p : LftPkt) : State :=
  let n := p.destQpn
  let mtu := (p.payload[0]?.getD 255).toNat
  if 3 < mtu then s.lftProtocol port p 1
  else match q.st with
    | .hello =>
      if q.a.enc ∧ bitAt (p.payload[1]?.getD 0).toNat 0 = false then s.lftFail n 0 0xD
      else
        let s := s.setQp n (some { q with
          st := .ready, peerPsn := p.psn, edge := psnAdd p.psn (2 ^ 32 - 1), mtu := min q.a.mtu mtu, marks := [], msgs := [], k := 0,
          armed := none })
        (if p.opcode = 6 then s.lftHello n 7 else s).mirQp n
    | .ready =>
      if p.opcode = 7 then s
      else if p.psn = q.peerPsn then s.lftHello n 7
      else (s.lftError n fun _ => 0xE).nakNoQp port p
    | _ => s

/-! ## Arrival (R308, R312 to R314, R321, R32, R33, R331) -/

/-- Open a packet: its payload in clear, or none on a tag or epoch failure (R313). A queue pair in HELLO reads the plaintext HELLO of a peer without
ENC, whose CAPS it then refuses (R312). -/
def State.openPkt (s : State) (q : Qp) (code : Nat) (p : LftPkt) : Option LftPkt :=
  if q.a.enc = false then (if bitAt p.flags 2 then none else some p)
  else if bitAt p.flags 2 = false then
    (if q.st = .hello ∧ 6 ≤ code ∧ bitAt (p.payload[1]?.getD 0).toNat 0 = false then some p else none)
  else
    let slot := if p.epoch = q.rxEpoch then some q.a.rxSlot else if (p.epoch + 1) % 65536 = q.rxEpoch then q.rxOld else none
    match slot with
    | none => none
    | some k => match s.key k with
      | none => none
      | some key =>
        if key.xts then none else (gcmDec key.k1 (lftNonce p) (lftHeader p) p.payload p.tag).map fun d => { p with payload := d }

/-- A packet for a resident queue pair, received at a time (R32). -/
def State.lftHandle (s : State) (port at_ code : Nat) (p : LftPkt) : State :=
  let n := p.destQpn
  match s.qp n with
  | none => if code = 6 then s else s.nakNoQp port p
  | some q =>
    if p.srcQpn ≠ q.a.peerQpn ∨ !(q.a.paths.any fun x => x.peer == p.src) then s.lftViol p 0xFF 6
    else match s.openPkt q code p with
      | none => (s.incFld R.lftTagFail).lftViol p 0xFF 11
      | some p =>
        let s := s.touchQp n
        match s.qp n with
        | none => s
        | some q =>
          let s := match q.st with
            | .reset => if code = 6 then s else s.nakNoQp port p
            | .error => s.nakNoQp port p
            | .hello =>
              if code = 6 ∨ code = 7 then s.lftHelloIn port q { p with opcode := code }
              else if code = 5 ∧ (p.payload[0]?.getD 0).toNat = 5 then s.lftFail n 0 0xD
              else s.nakNoQp port p
            | .ready =>
              match code with
              | 1 => s.lftWriteIn port at_ q p
              | 2 => s.lftReadReqIn port at_ q p
              | 3 => s.lftReadRespIn port at_ q p
              | 4 => s.lftAckIn at_ q p
              | 5 => s.lftNakIn q p
              | _ => s.lftHelloIn port q { p with opcode := code }
          s.lftSettle (some n)

/-- A packet arrives. A packet whose own OPCODE is reserved is answered as such. -/
def State.lftArrive (s : State) (port code : Nat) (p : LftPkt) (t : Nat) : State :=
  let s := s.advance t
  if s.fld R.twinState = 5 ∨ s.fld R.twinState = 6 then s
  else if 32 ≤ port then (s.incFld R.twinViol).violate 4 0 8 0xFF 1 0 0
  else if !p.csumOk then s.incFld R.lftBadCsum
  else if p.txTime + 2000000 < s.time.now then s.incFld R.lftStale
  else if s.time.now + 1000 < p.txTime then s.lftViol p 0xFF 5
  else if p.verMajor ≠ 1 then (if code = 6 then (s.lftNak port p 5).lftViol p 5 3 else s.lftViol p 0xFF 3)
  else if p.opcode = 0 ∨ 7 < p.opcode then s.lftProtocol port p 1
  else
    let p := if s.twin.addrs.contains p.dst then { p with destQpn := p.destQpn + 65536 } else p
    match s.qp p.destQpn with
    | none => s.lftHandle port s.time.now code p
    | some q =>
      let s := if p.destQpn = s.fld R.twinBkQpn ∧ q.owner = 64 ∧ code = 1 then { s with twin.lastBackup := s.time.now }.setFld R.twinBkAlive 1 else s
      if q.resident then s.lftHandle port s.time.now code p
      else if 512 ≤ s.lft.miss.length then s.incFld R.lftMissDrop
      else { s with lft.miss := s.lft.miss ++ [(p.destQpn, port, s.time.now, { p with opcode := code })] }

/-- The packets held for a resident queue pair are handled in order of arrival, each as received when it came (R32). -/
def State.lftHeld (s : State) (n : Nat) : State :=
  let mine := s.lft.miss.filter fun m => m.1 == n
  let s := { s with lft.miss := s.lft.miss.filter fun m => m.1 != n }
  mine.foldl (fun s m => s.lftHandle m.2.1 m.2.2.1 m.2.2.2.opcode m.2.2.2) s
/-- A context has loaded. -/
def State.lftLoaded (s : State) (n t : Nat) : State :=
  let s := (s.advance t).loadQp n
  match s.qp n with
  | none => s
  | some q => if q.resident then (s.lftHeld n).lftSettle none else s

/-! ## Timers (R322 to R324) -/

/-- The retry limit of a queue pair. -/
def State.retryLimit (s : State) (q : Qp) : Nat :=
  if q.a.retryLimit ≠ 0 then q.a.retryLimit else if s.fld R.lftRetry ≠ 0 then s.fld R.lftRetry else 7
/-- The timeout after k expiries, in ns. -/
def retryTimeout (k : Nat) : Nat := min (16000 * 2 ^ k) 4000000

/-- The retry timer of a queue pair expires, once the arrivals held for it have been handled (R324; log entry 171). -/
def State.lftRetry (s : State) (n t : Nat) : State :=
  let s := s.advance t
  let due : Bool := match s.qp n with
    | some q => (match q.armed with | some a => decide (a + retryTimeout q.k ≤ s.time.now) | none => false)
    | none => false
  let s := if due then s.loadQp n else s
  let s := if due && (match s.qp n with | some q => q.resident | none => false) then s.lftHeld n else s
  match s.qp n with
  | none => s
  | some q0 =>
    match q0.armed with
    | none => s
    | some a =>
      if s.time.now < a + retryTimeout q0.k then s
      else
        if s.fld R.ftState = 0 then s.setQp n (some { q0 with armed := some s.time.now })
        else if s.retryLimit q0 ≤ q0.k then
          let i := match q0.reqAt (psnAdd q0.acked 1) with | some (_, i) => i | none => 0
          (s.lftFail n i 4).lftSettle none
        else
          let s := s.setQp n (some { q0 with k := q0.k + 1, armed := some s.time.now, again := if q0.st = .hello then [] else q0.resend })
          (if q0.st = .hello then s.lftHello n 6 else s).lftSettle none

/-- 2 µs have passed since an unacknowledged arrival. -/
def State.lftAckDelay (s : State) (n t : Nat) : State :=
  let s := s.advance t
  match s.qp n with
  | some q =>
    match q.ackFrom with
    | some f => if q.st = .ready ∧ f + 2000 ≤ s.time.now then s.lftAck n else s
    | none => s
  | none => s

end Sys2Proof.Machine
end

