-- ==== Sys2Proof/Machine/Block.lean ====
section
/-! DEFINITION. The block service: volumes and their layout, drives, the write cache, operations on members, and how operations start, end and
fail (spec/13; spec/20 R550; spec/19 R534). -/

namespace Sys2Proof.Machine

/-! ## Volumes (R384, R385) -/

/-- A volume. -/
def State.vol (s : State) (n : Nat) : Option Volume := SMap.get (fun _ => none) s.blk.vols n
/-- Replace a volume. -/
def State.setVol (s : State) (n : Nat) (v : Option Volume) : State := { s with blk.vols := SMap.set (fun _ => none) s.blk.vols n v }

/-- Blocks of a member. -/
def memberBlocks : VolMember → Nat
  | .drive _ _ _ n => n
  | .remote _ _ _ n => n
/-- The capacity of a volume in blocks. -/
def volCapacity (a : VolAttr) : Nat :=
  if a.layout = 0 then (a.members.map memberBlocks).sum
  else match a.members with
    | [] => 0
    | m :: _ => a.members.length * a.stripe * (memberBlocks m / a.stripe)
/-- Where a block of a CONCAT volume lies, from member `i` on: member, member block, and blocks left in the member. -/
def concatPlace : List VolMember → Nat → Nat → Option (Nat × Nat × Nat)
  | [], _, _ => none
  | m :: ms, i, v => if v < memberBlocks m then some (i, v, memberBlocks m - v) else concatPlace ms (i + 1) (v - memberBlocks m)
/-- Where a volume block lies: member, member block, and how many blocks follow there in sequence. -/
def volPlace (a : VolAttr) (v : Nat) : Option (Nat × Nat × Nat) :=
  if a.layout = 0 then concatPlace a.members 0 v
  else if a.members.isEmpty then none
  else some ((v / a.stripe) % a.members.length, (v / a.stripe / a.members.length) * a.stripe + v % a.stripe, a.stripe - v % a.stripe)

/-- A part of a range that lies in sequence on one member: member, member block, volume block, blocks. -/
abbrev Piece := Nat × Nat × Nat × Nat
/-- Split a range into pieces no longer than each member takes. -/
def volPieces (a : VolAttr) (lim : Nat → Nat) (lba n : Nat) : Nat → List Piece
  | 0 => []
  | k + 1 =>
    if n = 0 then []
    else match volPlace a lba with
      | none => []
      | some (m, b, run) =>
        let c := min n (min run (max 1 (lim m)))
        (m, b, lba, c) :: volPieces a lim (lba + c) (n - c) k

/-- Every drive namespace a volume lies on: port and NSID. -/
def volDrives (a : VolAttr) : List (Nat × Nat) :=
  (a.members.filterMap fun m => match m with | .drive p n _ _ => some (p, n) | .remote _ _ _ _ => none).eraseDups

/-! ## Drives (R389 to R393) -/

/-- A storage port's drive. -/
def State.drive (s : State) (k : Nat) : Drive := s.blk.drives[k % 8]'(Nat.mod_lt _ (by decide))
/-- Change a storage port's drive. -/
def State.modDrive (s : State) (k : Nat) (f : Drive → Drive) : State :=
  { s with blk.drives := s.blk.drives.set (k % 8) (f (s.drive k)) (Nat.mod_lt _ (by decide)) }
/-- A namespace of a drive. -/
def State.nsOf (s : State) (k nsid : Nat) : Option NsInfo :=
  match (s.drive k).info with
  | some d => d.ns.find? fun n => n.nsid == nsid
  | none => none
/-- A port's own path works. -/
def State.pathOk (s : State) (k : Nat) : Bool :=
  s.flag (R.storLinkUp k) && s.fld (R.storUnsupported k) == 0 && s.fld (R.storPathFailed k) == 0
/-- How commands reach a drive: on its port (false), relayed through the twin (true), or not at all (R392). -/
def State.drivePath (s : State) (k : Nat) : Option Bool :=
  if s.pathOk k then some false
  else if s.flag R.twinLinkUp && (s.fld R.twinState == 1 || s.fld R.twinState == 4) then some true else none

/-- A free command identifier of a drive. -/
def Drive.freeCid (d : Drive) : Nat :=
  (((List.range (d.cmds.length + 1)).map fun i => (d.nextCid + i) % 65536).find? fun c => !d.cmds.any fun x => x.cid == c).getD d.nextCid
/-- The drive's eight I/O queues of 1,024 entries, one of each kept free as NVMe asks, have room (Table 13.3). -/
def Drive.queueRoom (d : Drive) : Bool := decide ((d.cmds.filter fun c => c.sent && !c.relayed).length < 8 * 1023)
/-- The words of a command that leave for a drive. -/
def State.nvmeOut (s : State) (k : Nat) (c : NvmeCmd) : State :=
  s.emit (.nvme k c.cid c.relayed c.opcode c.nsid c.lba c.nlb c.fua (if c.write then c.buf else []))
/-- Issue a command on a drive; it waits when the drive's queues are full. -/
def State.nvmeSend (s : State) (k sub opcode nsid lba nlb : Nat) (fua write relay : Bool) (buf : List Byte) : State :=
  let d := s.drive k
  let cid := d.freeCid
  let c : NvmeCmd := { cid := cid, sub := sub, opcode := opcode, nsid := nsid, lba := lba, nlb := nlb, buf := buf, write := write, fua := fua,
                       aborted := false, relayed := relay, sent := relay || d.queueRoom }
  let s := s.modDrive k fun d => { d with cmds := d.cmds ++ [c], nextCid := (cid + 1) % 65536 }
  let s := if relay then s.setFld (R.storRelayed k) 1 else s
  if c.sent then s.nvmeOut k c else s
/-- An entry of a drive's queues is free: the first command that waits is sent. -/
def State.nvmeNext (s : State) (k : Nat) : State :=
  match (s.drive k).cmds.find? fun c => !c.sent with
  | some c =>
    if (s.drive k).queueRoom then
      (s.modDrive k fun d => { d with cmds := d.cmds.map fun x => if x == c then { x with sent := true } else x }).nvmeOut k c
    else s
  | none => s

/-- A storage write window of port k: enabled with any NSID but 0 (R550). -/
def State.storWins (s : State) (k : Nat) : List (Nat × Nat × Nat) :=
  (List.range 4).map fun w => ((s.csr.get (R.rindStor k w)).toNat, s.csr.get64 (R.rindStor k w + 8), s.csr.get64 (R.rindStor k w + 16))
/-- A drive range lies in one window. -/
def State.storOk (s : State) (k nsid lba n : Nat) : Bool :=
  (s.storWins k).any fun w => (w.1 == nsid || w.1 == 0xFFFFFFFF) && w.1 != 0 && decide (w.2.1 ≤ lba) && decide (lba + n ≤ w.2.2 + 1)

/-! ## Reservations (R391) -/

/-- Register this device's key on a namespace, and acquire the reservation where it is the volume's home. -/
def State.reserve (s : State) (k nsid : Nat) (home : Bool) : State :=
  match s.drivePath k with
  | none => s
  | some relay =>
    let s := s.nvmeSend k 0 0x0D nsid 0 0 false true relay (natLe 8 (s.csr.get64 R.devSerial))
    if home then s.nvmeSend k 0 0x11 nsid 0 0 false true relay (natLe 8 (s.csr.get64 R.devSerial)) else s

/-! ## The write cache and failed ranges (R403, R404, R410) -/

/-- The cached copy of a block. -/
def State.cached (s : State) (vol lba : Nat) : Option CBlk := s.blk.cache.find? fun c => c.vol == vol && c.lba == lba
/-- The 4 KiB line a block of a volume lies in. -/
def lineOf (bs lba : Nat) : Nat := lba * bs / 4096
/-- The cache lines in use, or the dirty ones. -/
def State.lines (s : State) (dirty : Bool) : List (Nat × Nat) :=
  ((s.blk.cache.filter fun c => c.dirty || !dirty).map fun c => (c.vol, lineOf c.data.length c.lba)).eraseDups
/-- DIRTY_LINES and RANGES follow the cache and the lists. -/
def State.showBlk (s : State) : State :=
  (s.setFld R.dirtyLines (min (s.lines true).length (2 ^ 22 - 1))).setFld R.failedRanges s.blk.failed.length
/-- The twin's mirror of blocks of the write cache follows (Table 17.2); a block that is no longer dirty here leaves it. -/
def State.mirLines (s : State) (l : List CBlk) : State := l.foldl (fun s c => s.mirror (.line c)) s
/-- Blocks that this device's cache need not keep any longer leave the twin's mirror. -/
def State.unmirror (s : State) (l : List CBlk) : State := s.mirLines ((l.filter (·.dirty)).map fun c => { c with dirty := false })
/-- The cached blocks of a range. -/
def State.cachedIn (s : State) (vol lba n : Nat) : List CBlk :=
  s.blk.cache.filter fun c => c.vol == vol && decide (lba ≤ c.lba) && decide (c.lba < lba + n)
/-- Drop cached blocks, here and in the mirror. -/
def State.dropBlocks (s : State) (l : List CBlk) : State := { s with blk.cache := s.blk.cache.filter fun c => !l.contains c }.unmirror l
/-- Drop the cached blocks of a range. -/
def State.dropCached (s : State) (vol lba n : Nat) : State := s.dropBlocks (s.cachedIn vol lba n)
/-- Blocks of a byte list. -/
def blocksOf (bs : Nat) (d : List Byte) (lba n : Nat) : List (Nat × List Byte) := (List.range n).map fun i => (lba + i, slice d (i * bs) bs)
/-- Put blocks into the cache. -/
def State.putCached (s : State) (vol : Nat) (bl : List (Nat × List Byte)) (dirty acc : Bool) (inst ring : Nat) : State :=
  let keep := s.blk.cache.filter fun c => !(c.vol == vol && bl.any fun b => b.1 == c.lba)
  { s with blk.cache := keep ++ bl.map fun b => ({ vol := vol, lba := b.1, data := b.2, dirty := dirty, acc := acc, inst := inst, ring := ring } : CBlk) }
/-- A range touches a failed one. -/
def State.touchesFailed (s : State) (vol lba n : Nat) : Bool :=
  s.blk.failed.any fun f => f.1 == vol && decide (f.2.1 < lba + n) && decide (lba < f.2.1 + f.2.2)

/-! ## Operations and their parts -/

/-- Change an operation. -/
def State.modOp (s : State) (id : Nat) (f : BlkOp → BlkOp) : State :=
  { s with blk.ops := s.blk.ops.map fun o => if o.id == id then f o else o }
/-- An operation has failed in a part: its first failure stands. -/
def State.opFail (s : State) (id st : Nat) (why : Nat × Nat) : State :=
  s.modOp id fun o => if o.fail.isNone then { o with fail := some st, why := why } else o
/-- A part of an operation begins: its identifier. -/
def State.newSub (s : State) (id lba n : Nat) (write : Bool) : State × Nat :=
  let k := s.blk.next + 1
  ({ s with blk.next := k, blk.parts := s.blk.parts ++ [({ id := k, op := id, lba := lba, n := n, write := write } : BlkSub)] }.modOp id
    fun o => { o with subs := o.subs + 1 }, k)

/-- The two keys of an encrypted volume. -/
def State.volKeys (s : State) (a : VolAttr) : Option KeySlot :=
  if a.enc = 1 then (match s.key a.slot with | some k => if k.xts then some k else none | none => none) else none
/-- Blocks as they stand on the members (R403). -/
def State.volSeal (s : State) (a : VolAttr) (lba : Nat) (d : List Byte) : List Byte :=
  match s.volKeys a with | some k => xts true k.k1 k.k2 a.bs lba d | none => d
/-- Blocks as the requester sees them. -/
def State.volOpen (s : State) (a : VolAttr) (lba : Nat) (d : List Byte) : List Byte :=
  match s.volKeys a with | some k => xts false k.k1 k.k2 a.bs lba d | none => d

/-- What a part does to its member. -/
inductive MemOp where
  | read | write | zeroes | dealloc
  deriving DecidableEq, Repr

/-- The most blocks one part may have on a member: MDTS and the 16-bit count of a drive, the length of an LFT request. -/
def State.partLimit (s : State) (a : VolAttr) (o : MemOp) (m : Nat) : Nat :=
  match a.members[m]? with
  | some (.drive p _ _ _) =>
    let mdts := match (s.drive p).info with | some d => d.mdts | none => 0
    if (o = .read ∨ o = .write) ∧ mdts ≠ 0 then min 65536 (mdts / a.bs) else 65536
  | some (.remote _ _ _ _) => 2 ^ 31 / a.bs
  | none => 1

/-- Send one part of an operation to its member. `d` is the data as the members hold it. -/
def State.partSend (s : State) (id : Nat) (a : VolAttr) (o : MemOp) (fua : Bool) (p : Piece) (d : List Byte) : State :=
  let n := p.2.2.2
  match a.members[p.1]? with
  | none => s.opFail id 0x12 (0, 0)
  | some (.drive k nsid first _) =>
    let lba := first + p.2.1
    if o ≠ .read ∧ s.storOk k nsid lba n = false then (s.rindBlock 14 0x15).opFail id 0x15 (0, 0)
    else match s.drivePath k with
      | none => s.opFail id 0x12 (0, 0)
      | some relay =>
        let dz := match s.nsOf k nsid with | some x => x.dzero | none => false
        let opcode := match o with | .read => 0x02 | .write => 0x01 | .zeroes => 0x08 | .dealloc => if dz then 0x09 else 0x08
        let r := s.newSub id p.2.2.1 n (o != .read)
        r.1.nvmeSend k r.2 opcode nsid lba n fua (o != .read) relay (match o with | .read => List.replicate (n * a.bs) 0 | .write => d | _ => [])
  | some (.remote qpn rkey off _) =>
    let r := s.newSub id p.2.2.1 n (o != .read)
    let b : LftBody := { rsvOp := false, notify := false, wait := false, rsv := false, qpn := qpn, len := n * a.bs, laddr := 0, raddr := off + p.2.1 * a.bs,
                         rkey := rkey, tag := r.2, waitQpn := 0, waitCount := 0 }
    let data := match o with | .write => d | _ => List.replicate (n * a.bs) 0
    let owner := match r.1.qp qpn with | some q => q.owner | none => 64
    r.1.lftPost owner (if o = .read then 2 else 1) b none 16 (some data)

/-- Send a range of an operation to the members. -/
def State.rangeSend (s : State) (id : Nat) (a : VolAttr) (o : MemOp) (fua : Bool) (lba n : Nat) (d : List Byte) : State :=
  (volPieces a (s.partLimit a o) lba n n).foldl (fun s p => s.partSend id a o fua p (slice d ((p.2.2.1 - lba) * a.bs) (p.2.2.2 * a.bs))) s

/-- A part has ended: on success what it read enters its operation; a failure is the operation's. -/
def State.partDone (s : State) (sub : Nat) (fail : Option Nat) (why : Nat × Nat) (d : List Byte) : State :=
  match s.blk.parts.find? fun p => p.id == sub with
  | none => s
  | some p =>
    let s := { s with blk.parts := s.blk.parts.filter fun x => x.id != sub }
    match s.blk.ops.find? fun o => o.id == p.op with
    | none => s
    | some o =>
      let s := s.modOp p.op fun o => { o with subs := o.subs - 1 }
      match fail with
      | some st => s.opFail p.op st why
      | none =>
        match o.a with
        | some a => if p.write then s else s.modOp p.op fun o => { o with got := o.got ++ blocksOf a.bs (s.volOpen a p.lba d) p.lba p.n }
        | none => s

/-! ## Completion (Table 13.7, R399) -/

/-- Complete a command of a requester. -/
def State.blkReply (s : State) (o : BlkOwner) (tag st result cls : Nat) : State :=
  match o with
  | .ring w => s.commit cls (.ring w st result 0)
  | .acc port q gen =>
    s.commit (if cls = 4 then 5 else cls) (.acc .block port q gen (natLe 2 tag ++ natLe 1 st ++ [0] ++ natLe 2 gen ++ [0, 0] ++ natLe 4 result ++ [0, 0, 0, 0]))
  | .destage _ => s
  | .ckpt => s
/-- An operation ends with a status. -/
def State.opEnd (s : State) (o : BlkOp) (st : Nat) (cls : Nat) : State :=
  let s := { s with blk.ops := s.blk.ops.filter fun x => x.id != o.id }
  match o.owner with
  | .ckpt => { s with blk.finished := s.blk.finished ++ [(o.id, st, o.got)] }
  | w =>
    let s := s.mirror (.cmdEnd o.id)
    if cls = 1 ∧ o.got.isEmpty then s.commit 1 (.write o) else s.blkReply w o.b.tag st 0 cls

/-- The requester of an owner: whether an accelerator, the instance or port, and the ring or queue. -/
def BlkOwner.who : BlkOwner → Bool × Nat × Nat
  | .ring w => (false, w.inst, w.ring)
  | .acc p q _ => (true, p, q)
  | .destage _ => (false, 64, 0)
  | .ckpt => (false, 64, 1)

/-! ## Destage (R404, R408, R410) -/

/-- A maximal run of dirty blocks that one ring wrote, taken from the front of a list in LBA order. -/
def takeRun : List CBlk → List CBlk
  | [] => []
  | [c] => [c]
  | c :: e :: r => if e.lba = c.lba + 1 ∧ e.acc = c.acc ∧ e.inst = c.inst ∧ e.ring = c.ring then c :: takeRun (e :: r) else [c]
/-- Insert a block in LBA order. -/
def insertBlk (c : CBlk) : List CBlk → List CBlk
  | [] => [c]
  | x :: xs => if c.lba ≤ x.lba then c :: x :: xs else x :: insertBlk c xs
/-- A block is being destaged already with the data it holds. -/
def State.destaging (s : State) (c : CBlk) : Bool :=
  s.blk.ops.any fun o => (match o.owner with | .destage _ => true | _ => false) && o.b.vol == c.vol && o.got.any fun g => g == (c.lba, c.data)

/-- Start the destage of a list of blocks in LBA order, a run at a time and a part at a time. -/
def State.destageRuns (s : State) (a : VolAttr) (vol : Nat) (l : List CBlk) : Nat → State
  | 0 => s
  | k + 1 =>
    match l with
    | [] => s
    | c :: _ =>
      let run := takeRun l
      let data := run.flatMap (·.data)
      let s := (volPieces a (s.partLimit a .write) c.lba run.length run.length).foldl (fun s p =>
        let id := s.blk.next + 1
        let d := slice data ((p.2.2.1 - c.lba) * a.bs) (p.2.2.2 * a.bs)
        let b : BlkBody := { fua := false, bufHbm := false, rsv := false, tag := 0, vol := vol, abortTag := 0, lba := p.2.2.1, nlb := p.2.2.2,
                             bufLen := 0, bufAddr := 0, action := 0, port := 0, data := some d, dmaOk := true }
        let o : BlkOp := { id := id, owner := .destage false, op := 2, b := b, a := some a, started := true, subs := 0,
                           got := blocksOf a.bs d p.2.2.1 p.2.2.2, fail := none, phase := 0, why := (0, 0) }
        let s := { s with blk.next := id, blk.ops := s.blk.ops ++ [o] }
        s.partSend id a .write false p (s.volSeal a p.2.2.1 d)) s
      s.destageRuns a vol (l.drop run.length) k

/-- Destage the dirty blocks of a range. -/
def State.destage (s : State) (vol lba n : Nat) : State :=
  match (if s.fld R.twinState = 5 then none else s.vol vol : Option Volume) with
  | none => s
  | some v =>
    let l := (s.blk.cache.filter fun c => c.vol == vol && c.dirty && decide (lba ≤ c.lba) && decide (c.lba < lba + n) && !s.destaging c).foldr insertBlk []
    s.destageRuns v.a vol l l.length

/-- The newest index of a requester's Block Error Log, plus one. -/
def State.belNext (s : State) (acc : Bool) (inst : Nat) : Nat :=
  match (s.blk.bel.filter fun e => e.acc == acc && e.inst == inst).getLast? with
  | some e => (e.index + 1) % 65536
  | none => 0
/-- Append a Block Error Log entry; a requester's log keeps its newest 256. -/
def State.belAdd (s : State) (acc : Bool) (inst ring lba nlb vol : Nat) (why : Nat × Nat) : State :=
  let i := s.belNext acc inst
  let e : BelE := { acc := acc, inst := inst, index := i, time := s.time.now, lba := lba, nlb := nlb, vol := vol, ring := ring,
                    status := why.1, src := why.2 }
  let mine := s.blk.bel.filter fun x => x.acc == acc && x.inst == inst
  let rest := if 256 ≤ mine.length then (match mine with | m :: _ => s.blk.bel.erase m | [] => s.blk.bel) else s.blk.bel
  ({ s with blk.bel := rest ++ [e], deferred := s.deferred ++ [{ acc := acc, inst := inst, ring := ring, index := i }] } : State).mirror (.belog e)

/-- A destage ends: written blocks are clean; a failure is retried once, then its blocks are lost. -/
def State.destageEnd (s : State) (o : BlkOp) (retry : Bool) : State :=
  let s := { s with blk.ops := s.blk.ops.filter fun x => x.id != o.id }
  match o.fail, o.a with
  | none, _ =>
    let hit := s.blk.cache.filter fun c => c.dirty && c.vol == o.b.vol && o.got.any fun g => g == (c.lba, c.data)
    ({ s with blk.cache := s.blk.cache.map fun (c : CBlk) => if hit.contains c then { c with dirty := false } else c }.unmirror hit).showBlk
  | some _, none => s
  | some _, some a =>
    if !retry then
      let o := { o with owner := .destage true, fail := none, subs := 0 }
      let d := o.b.data.getD []
      ({ s with blk.ops := s.blk.ops ++ [o] }).rangeSend o.id a .write false o.b.lba o.b.nlb (s.volSeal a o.b.lba d)
    else
      let hit := s.blk.cache.filter fun c => c.vol == o.b.vol && o.got.any fun g => g == (c.lba, c.data)
      match hit with
      | [] => s
      | c :: _ =>
        let s := (s.belAdd c.acc c.inst c.ring o.b.lba o.b.nlb o.b.vol o.why).dropBlocks hit
        let s := if 4096 ≤ s.blk.failed.length then
            (match s.vol o.b.vol with
             | some v => (s.setVol o.b.vol (some { v with failed := true })).mirror (.volume o.b.vol (some { v with failed := true }))
             | none => s)
          else { s with blk.failed := s.blk.failed ++ [(o.b.vol, o.b.lba, o.b.nlb)] }.mirror (.failedRange o.b.vol o.b.lba o.b.nlb true)
        { s with blk.ops := s.blk.ops.map fun (f : BlkOp) =>
            if f.op == 3 && f.b.vol == o.b.vol && f.fail.isNone && f.got.any (fun g => o.got.contains g) then { f with fail := some 0x11 } else f }.showBlk

/-! ## Starting (R400, R403, R405, R534) -/

/-- A write-type operation. -/
def writeOp (op : Nat) : Bool := op == 2 || op == 4 || op == 5
/-- An earlier operation of the same ring that must end first. -/
def BlkOp.blocks (e o : BlkOp) : Bool :=
  e.owner.who == o.owner.who && e.b.vol == o.b.vol && (writeOp e.op || writeOp o.op) && (e.op == 1 || writeOp e.op) && (o.op == 1 || writeOp o.op) &&
  decide (e.b.lba < o.b.lba + o.b.nlb) && decide (o.b.lba < e.b.lba + e.b.nlb)
/-- Cached WRITEs that have not completed: the twin has not confirmed their mirror copy (R403). -/
def State.heldWrites (s : State) : List BlkOp :=
  if s.held then s.twin.held.filterMap fun h => match h.2 with | .write o => some o | _ => none else []
/-- Writes go through to the members (R405, R496). -/
def State.through (s : State) (a : VolAttr) (b : BlkBody) : Bool := b.fua || a.writeThrough == 1 || s.flag R.btSolo
/-- Bytes an operation moves for its requester. -/
def BlkOp.moves (o : BlkOp) : Nat := match o.a with | some a => if o.op = 1 ∨ o.op = 2 then o.b.nlb * a.bs else 0 | none => 0
/-- The block ceiling of an instance is not negative. -/
def State.blkCeilOk (s : State) (n : Nat) : Bool :=
  64 ≤ n || s.blkCeilOf n == 0 ||
    decide (0 ≤ ((s.net.blkCeil[n % 64]'(Nat.mod_lt _ (by decide))).refill (s.blkCeilOf n * 8) 65536 (s.time.now * u16)).lvl)
/-- Charge the block ceiling of an instance. -/
def State.blkCeilCharge (s : State) (n bytes : Nat) : State :=
  if 64 ≤ n ∨ s.blkCeilOf n = 0 then s
  else
    let b := ((s.net.blkCeil[n % 64]'(Nat.mod_lt _ (by decide))).refill (s.blkCeilOf n * 8) 65536 (s.time.now * u16)).charge bytes
    { s with net.blkCeil := s.net.blkCeil.set (n % 64) b (Nat.mod_lt _ (by decide)) }
/-- The instance whose ceiling an operation counts against; 64 for none. -/
def BlkOwner.inst : BlkOwner → Nat
  | .ring w => w.inst
  | _ => 64

/-- Cache lines an operation's blocks would add. -/
def State.newLines (s : State) (o : BlkOp) (bs : Nat) : Nat :=
  let used := s.lines false
  (((List.range o.b.nlb).map fun i => (o.b.vol, lineOf bs (o.b.lba + i))).eraseDups.filter fun l => !used.contains l).length
/-- Free lines, clean ones counted: a clean line may be given up. -/
def State.freeLines (s : State) : Nat := 2097152 - (s.lines true).length
/-- Give up clean blocks so that the lines in use fit. -/
def State.giveUpClean (s : State) (need : Nat) : State :=
  if (s.lines false).length + need ≤ 2097152 then s else { s with blk.cache := s.blk.cache.filter (·.dirty) }

/-- An operation may start now. -/
def State.canStart (s : State) (o : BlkOp) : Bool :=
  !o.started && !((s.blk.ops.takeWhile fun e => e.id != o.id).any fun e => e.blocks o) &&
  !(s.heldWrites.any fun e => decide (e.id < o.id) && e.blocks o) && s.blkCeilOk o.owner.inst &&
  (match o.a with
   | some a => if o.op = 2 ∧ !s.through a o.b then decide (s.newLines o a.bs ≤ s.freeLines) else true
   | none => true)

/-- The uncached runs of a range: first block and count. -/
def uncached (has : Nat → Bool) (lba : Nat) : Nat → List (Nat × Nat)
  | 0 => []
  | n + 1 =>
    let rest := uncached has (lba + 1) n
    if has lba then rest
    else match rest with
      | (b, c) :: r => if b = lba + 1 then (lba, c + 1) :: r else (lba, 1) :: rest
      | [] => [(lba, 1)]

/-- The data of a WRITE: what the read of its buffer answered, or the working-partition bytes. -/
def State.writeData (s : State) (o : BlkOp) (n : Nat) : Option (List Byte) :=
  if o.b.bufHbm then (if s.hbmBad o.b.bufAddr n then none else some (s.hbmBytes o.b.bufAddr n))
  else match o.b.data with
    | some d => if d.length = n then some d else none
    | none => none

/-- Start an operation. -/
def State.opStart (s : State) (o : BlkOp) : State :=
  let s := (s.modOp o.id fun o => { o with started := true }).blkCeilCharge o.owner.inst o.moves
  let s := s.tally o.owner.inst (if writeOp o.op then 5 else 4) o.moves
  match o.a with
  | none => s
  | some a =>
    let w := o.owner.who
    match o.op with
    | 1 =>
      if s.touchesFailed o.b.vol o.b.lba o.b.nlb then s.opFail o.id 0x10 (0, 0)
      else
        let hit := (List.range o.b.nlb).filterMap fun i => (s.cached o.b.vol (o.b.lba + i)).map fun c => (c.lba, c.data)
        let s := s.modOp o.id fun o => { o with got := hit }
        (uncached (fun v => (s.cached o.b.vol v).isSome) o.b.lba o.b.nlb).foldl (fun s r => s.rangeSend o.id a .read false r.1 r.2 []) s
    | 2 =>
      let s := if o.b.bufHbm then s.hbmSeen o.b.bufAddr (o.b.nlb * a.bs) else s
      match s.writeData o (o.b.nlb * a.bs) with
      | none => s.opFail o.id 0x14 (0, 0)
      | some d =>
        let bl := blocksOf a.bs d o.b.lba o.b.nlb
        if s.through a o.b then
          let s := (s.modOp o.id fun o => { o with got := bl }).dropCached o.b.vol o.b.lba o.b.nlb
          (s.rangeSend o.id a .write true o.b.lba o.b.nlb (s.volSeal a o.b.lba d)).showBlk
        else
          let s := (s.giveUpClean (s.newLines o a.bs)).putCached o.b.vol bl true w.1 w.2.1 w.2.2
          (s.mirLines (s.cachedIn o.b.vol o.b.lba o.b.nlb)).showBlk
    | 3 =>
      let s := s.destage o.b.vol 0 (volCapacity a)
      let cover := (s.blk.cache.filter fun c => c.vol == o.b.vol && c.dirty).map fun c => (c.lba, c.data)
      s.modOp o.id fun o => { o with got := cover, phase := 1 }
    | 4 =>
      let s := (s.dropCached o.b.vol o.b.lba o.b.nlb).showBlk
      if a.enc = 1 then s.rangeSend o.id a .write o.b.fua o.b.lba o.b.nlb (s.volSeal a o.b.lba (List.replicate (o.b.nlb * a.bs) 0))
      else s.rangeSend o.id a .zeroes o.b.fua o.b.lba o.b.nlb []
    | 5 =>
      let s := (s.dropCached o.b.vol o.b.lba o.b.nlb).showBlk
      if a.enc = 1 then s.rangeSend o.id a .write false o.b.lba o.b.nlb (s.volSeal a o.b.lba (List.replicate (o.b.nlb * a.bs) 0))
      else s.rangeSend o.id a .dealloc false o.b.lba o.b.nlb []
    | _ => s

/-! ## Ending -/

/-- Place what a READ has assembled in its buffer. -/
def State.readPlace (s : State) (o : BlkOp) (a : VolAttr) : State × Bool :=
  let d := (List.range o.b.nlb).flatMap fun i => match o.got.find? fun g => g.1 == o.b.lba + i with | some g => g.2 | none => List.replicate a.bs 0
  if o.b.bufHbm then
    let t := s.hbmMerged o.b.bufAddr d.length
    if s.hbmMergeBad o.b.bufAddr d.length then (t, false) else (t.hbmPut o.b.bufAddr d, true)
  else if !o.b.dmaOk then (s, false)
  else match o.owner with
    | .ring w =>
      let live := (s.ring w.inst w.ring).gen = w.gen ∧ (64 ≤ w.inst ∨ s.flag (R.lhqiReady w.inst))
      if live then (s.emit (.hostWrite w.inst o.b.bufAddr d), true) else (s, false)
    | .acc p _ _ => (s.emit (.accelWrite (p % 8) o.b.bufAddr d), true)
    | _ => (s, true)

/-- NVMe Flush on every local namespace of a volume (R406). -/
def State.flushDrives (s : State) (o : BlkOp) (a : VolAttr) : State :=
  (volDrives a).foldl (fun s x =>
    match s.drivePath x.1 with
    | none => s.opFail o.id 0x12 (0, 0)
    | some relay => let r := s.newSub o.id 0 0 true; r.1.nvmeSend x.1 r.2 0x00 x.2 0 0 false true relay []) s

/-- A block covered by a FLUSH still waits to be destaged. -/
def State.unflushed (s : State) (o : BlkOp) : Bool :=
  s.blk.cache.any fun c => c.vol == o.b.vol && c.dirty && o.got.any fun g => g == (c.lba, c.data)

/-- An operation whose parts have ended goes on or ends; none when it must wait. -/
def State.opStep (s : State) (o : BlkOp) : Option State :=
  if !o.started ∨ o.subs ≠ 0 then none
  else
    match o.owner, o.a with
    | .destage r, _ => some (s.destageEnd o r)
    | _, none => none
    | _, some a =>
      match o.op with
      | 1 =>
        match o.fail with
        | some st => some (s.opEnd o st 4)
        | none => if o.owner = .ckpt then some (s.opEnd o 0 4) else let r := s.readPlace o a; some (r.1.opEnd o (if r.2 then 0 else 0x14) 4)
      | 2 =>
        match o.fail with
        | some st => some (s.opEnd o st 4)
        | none =>
          if o.owner = .ckpt then some (s.opEnd o 0 4)
          else if !o.got.isEmpty then
            let w := o.owner.who
            let s := (s.giveUpClean (s.newLines o a.bs)).putCached o.b.vol o.got false w.1 w.2.1 w.2.2
            some ((s.failClear o.b.vol o.b.lba o.b.nlb).showBlk.opEnd o 0 1)
          else some (s.opEnd o 0 1)
      | 3 =>
        match o.fail with
        | some st => some (s.opEnd o st 4)
        | none =>
          if o.phase = 1 then
            if s.unflushed o then none else some ((s.modOp o.id fun o => { o with phase := 2 }).flushDrives o a)
          else some (s.opEnd o 0 4)
      | 4 | 5 =>
        match o.fail with
        | some st => some (s.opEnd o st 4)
        | none => some ((s.failClear o.b.vol o.b.lba o.b.nlb).showBlk.opEnd o 0 4)
      | _ => none

/-- Take up what the transport has finished for the block service. -/
def State.lftTaken (s : State) : State :=
  let mine := s.lft.finished.filter fun f => f.1 == 16
  let s := { s with lft.finished := s.lft.finished.filter fun f => f.1 != 16 }
  mine.foldl (fun s f => s.partDone f.2.1 (if f.2.2.1 = 0 then none else some 0x12) (f.2.2.1, 1) f.2.2.2) s

/-- A quarter of the cache is dirty: destage runs continuously (R404). -/
def State.destageAll (s : State) : State :=
  if 524288 ≤ (s.lines true).length then
    s.blk.vols.foldl (fun s v => match v.2 with | some x => s.destage v.1 0 (volCapacity x.a) | none => s) s
  else s
/-- Each operation starts, goes on or ends as far as it can. -/
def State.blkPass (s : State) : State :=
  let s := s.lftTaken.destageAll
  let s := (s.blk.ops.map (·.id)).foldl (fun s id =>
    match s.blk.ops.find? fun o => o.id == id with
    | some o => if s.canStart o then s.opStart o else s
    | none => s) s
  (s.blk.ops.map (·.id)).foldl (fun s id =>
    match s.blk.ops.find? fun o => o.id == id with
    | some o => (s.opStep o).getD s
    | none => s) s
/-- Passes of the block service and the transport, again and again. -/
def State.blkPasses (s : State) : Nat → State
  | 0 => s
  | k + 1 => (s.blkPass.lftSettle none).blkPasses k
/-- The block service stands still: the device is FENCED (R494), or Steward 4 is stopped or in a Graft gap (Table 20.6). -/
def State.blkStill (s : State) : Bool := s.fld R.twinState == 5 || s.stewardGone 4
/-- Let the block service do all it can now; while it stands still its work and its completions wait. -/
def State.blkRun (s : State) : State := if s.blkStill then s else s.blkPasses (2 * s.blk.ops.length + 4)

end Sys2Proof.Machine
end

