-- ==== Sys2Proof/Machine/BlkRows.lean ====
section
/-! DEFINITION. The commands of the block service: their checks, abort, sanitise and format, the drives' events, and the control operations on
volumes (spec/13 R384 to R414; spec/18 Table 18.8). -/

namespace Sys2Proof.Machine

/-! ## Checks (R395, Table 13.6) -/

/-- A field the operation does not use is nonzero. -/
def blkUnused (op : Nat) (b : BlkBody) : Bool :=
  (b.fua && op != 2 && op != 4) || (op != 1 && op != 2 && (b.bufHbm || b.bufLen != 0 || b.bufAddr != 0)) ||
  ((op == 6 || op == 7) && b.vol != 0) || (op != 6 && b.abortTag != 0) ||
  (op != 1 && op != 2 && op != 4 && op != 5 && (b.lba != 0 || b.nlb != 0)) || (op != 7 && op != 8 && (b.action != 0 || b.port != 0))

/-- The namespace an index of FORMAT names. -/
def State.nsAt (s : State) (k i : Nat) : Option NsInfo :=
  match (s.drive k).info with
  | some d => d.ns[i]?
  | none => none

/-- BAD_FIELD. -/
def State.blkBadField (s : State) (op : Nat) (b : BlkBody) : Bool :=
  b.rsv || blkUnused op b || (op == 6 && b.abortTag == b.tag) || ((op == 1 || op == 2) && b.bufAddr % 64 != 0) ||
  ((op == 7 || op == 8) && decide (7 < b.port)) || (op == 7 && b.action != 1 && b.action != 2 && b.action != 4) ||
  (op == 8 && (s.nsAt b.port b.vol).isNone)

/-- A tag whose completion the requester has not consumed (R398). -/
def State.tagPosted (s : State) (o : BlkOwner) (tag : Nat) : Bool :=
  let w := o.who
  s.blk.tags.any fun u => u.acc == w.1 && u.inst == w.2.1 && u.ring == w.2.2 && u.tag == tag &&
    decide ((if w.1 then (s.accQ .block w.2.1 w.2.2).released else (s.ring w.2.1 w.2.2).released) ≤ u.index)
/-- A tag whose completion awaits the twin or a free slot. -/
def State.tagHeld (s : State) (o : BlkOwner) (tag : Nat) : Bool :=
  let w := o.who
  s.twin.held.any fun h => match h.2.plain with
    | .ring x _ _ _ => !w.1 && x.inst == w.2.1 && x.ring == w.2.2 && x.tag == tag
    | .acc k p q _ body => w.1 && k == .block && p == w.2.1 && q == w.2.2 && leNat (body.take 2) == tag
    | _ => false
/-- The operation of a ring that holds a tag. -/
def State.tagOp (s : State) (o : BlkOwner) (tag : Nat) : Option BlkOp := s.blk.ops.find? fun x => x.owner.who == o.who && x.b.tag == tag

/-- The attachment of a requester to a volume (R388). -/
def State.attachOf (s : State) (o : BlkOwner) (vol : Nat) : Option Attach :=
  s.blk.atts.find? fun a => a.vol == vol && a.acc == o.who.1 && a.index == o.who.2.1
/-- A volume this device serves. -/
def State.served (s : State) (v : Volume) : Bool := v.a.home == s.fld R.twinSide || v.taken

/-- Two journal records are of one operation. -/
def JournalRec.same (x y : JournalRec) : Bool := x.port == y.port && x.op == y.op && x.nsid == y.nsid && x.serial == y.serial
/-- The journal records that stand: this device's, and those its twin mirrored (R413). -/
def State.journals (s : State) : List JournalRec :=
  s.twin.mirror.foldl (fun l m => match m.2 with
    | .journal j => (l.filter fun x => !x.same j) ++ [j]
    | _ => l) s.blk.journal
/-- A drive or namespace is under sanitise or format (R412). -/
def State.sanitizing (s : State) (k nsid : Nat) : Bool :=
  s.journals.any fun j => !j.ended && j.port == k && (j.op == 7 || j.nsid == nsid)

/-- The extent of a buffer is one its requester may use. -/
def State.blkBufOk (s : State) (o : BlkOwner) (b : BlkBody) (n : Nat) : Bool :=
  if b.bufHbm then
    (match o with
     | .ring w => s.sliceOk w.inst b.bufAddr n && !s.inFwSpan b.bufAddr n
     | _ => decide (b.bufAddr + n ≤ s.workTop) && !s.inFwSpan b.bufAddr n && !s.inRegion b.bufAddr n)
  else match o with
    | .ring w => s.hostOk w.inst b.bufAddr n
    | .acc p _ _ => s.accOk p b.bufAddr n
    | _ => true

/-- The first failed check, in the order of Table 13.6. -/
def State.blkCheck (s : State) (o : BlkOwner) (op : Nat) (b : BlkBody) : Option Nat :=
  if op = 0 ∨ 8 < op then some 1
  else if s.blkBadField op b then some 2
  else if (s.tagOp o b.tag).isSome ∨ s.tagPosted o b.tag ∨ s.tagHeld o b.tag then some 3
  else if (op = 7 ∨ op = 8) ∧ (o.who.1 ∨ o.who.2.1 ≠ 0) then some 4
  else if 6 ≤ op then none
  else match s.attachOf o b.vol, s.vol b.vol with
    | some t, some v =>
      let bytes := b.nlb * v.a.bs
      if !s.served v then some 5
      else if t.ro ∧ writeOp op then some 6
      else if (op ≠ 3 ∧ b.nlb = 0) ∨ ((op = 1 ∨ op = 2) ∧ b.bufLen = 0) then some 7
      else if volCapacity v.a < b.lba + b.nlb then some 8
      else if (op = 1 ∨ op = 2) ∧ (2 ^ 26 < bytes ∨ b.bufLen < bytes) then some 9
      else if (op = 1 ∨ op = 2) ∧ !s.blkBufOk o b bytes then some 0xA
      else if (volDrives v.a).any fun d => s.sanitizing d.1 d.2 then some 0xB
      else if v.failed then some 0xC
      else none
    | _, _ => some 5

/-- The REASON of a status that is a violation. -/
def blkReason (st : Nat) : Option Nat :=
  match st with
  | 1 => some 1 | 2 => some 2 | 3 => some 12 | 4 => some 6 | 7 => some 5 | 0xA => some 10 | _ => none

/-! ## Abort (R411, Table 13.8) -/

/-- ABORT: act on the target, and answer the state, the status and ABORT_HIT. -/
def State.blkAbort (s : State) (o : BlkOwner) (target : Nat) : State × Nat × Bool :=
  match s.tagOp o target with
  | some x =>
    if x.op = 3 ∨ 6 ≤ x.op then (s, 0xF, false)
    else if !x.started ∨ x.op = 1 ∨ x.op = 2 then (s.opEnd x 0xD 4, 0, true)
    else (s, 0xF, false)
  | none =>
    match s.heldWrites.find? fun x => x.owner.who == o.who && x.b.tag == target with
    | some x =>
      let s := { s with twin.held := s.twin.held.filter fun h => h.2 != Commit.write x }
      ((s.unmirror (s.cachedIn x.b.vol x.b.lba x.b.nlb)).blkReply x.owner target 0xD 0 4, 0, true)
    | none => if s.tagPosted o target ∨ s.tagHeld o target then (s, 0, false) else (s, 0xE, false)

/-! ## Sanitise and format (R412, R413) -/

/-- STOR SANITIZING follows the journal. -/
def State.showSan (s : State) (k : Nat) : State := s.setFld (R.storSanitizing k) (b2n (s.journals.any fun j => !j.ended && j.port == k))
/-- Write a journal record: it replaces the operation's earlier one; sixteen slots are kept, the oldest ended one given up first. -/
def State.journalPut (s : State) (j : JournalRec) : State :=
  let seq := (s.blk.journal.map (·.seq)).foldl max 0 + 1
  let rest := s.blk.journal.filter fun x => !x.same j
  let rest := if 16 ≤ rest.length then (match rest.find? (·.ended) with | some x => rest.erase x | none => rest.drop 1) else rest
  let j := { j with seq := seq }
  ({ s with blk.journal := rest ++ [j], boot.queue := s.boot.queue ++ [FlashOp.journal j] }.showSan j.port).mirror (.journal j)

/-- Drop what the cache holds of every volume on a drive, or on one namespace of it. -/
def State.dropDrive (s : State) (k : Nat) (nsid : Option Nat) : State :=
  (s.blk.vols.foldl (fun s v => match v.2 with
    | some x => if (volDrives x.a).any (fun d => d.1 == k && (match nsid with | some n => d.2 == n | none => true)) then
        s.dropBlocks (s.blk.cache.filter fun c => c.vol == v.1) else s
    | none => s) s).showBlk
/-- A journal record of the twin: this device journals it in its own flash, and drops what it caches of the volumes concerned (R412, R413). -/
def State.journalPeer (s : State) (j : JournalRec) : State :=
  let s := { s with boot.queue := s.boot.queue ++ [FlashOp.journal j] }.showSan j.port
  if j.ended then s else s.dropDrive j.port (if j.op = 7 then none else some j.nsid)

/-- Take a SANITIZE (7) or FORMAT (8) that has passed its checks. -/
def State.blkErase (s : State) (o : BlkOwner) (op : Nat) (b : BlkBody) : State :=
  let k := b.port
  let ns := s.nsAt k b.vol
  let nsid := if op = 8 then (match ns with | some n => n.nsid | none => 0) else 0xFFFFFFFF
  let ok := if op = 8 then (match ns with | some n => s.storOk k n.nsid 0 n.blocks | none => false)
    else (s.storWins k).any fun w => w.1 == 0xFFFFFFFF && w.2.1 == 0 && w.2.2 == 2 ^ 64 - 1
  if !ok then (s.rindBlock 14 0x15).blkReply o b.tag 0x15 0 4
  else match s.drivePath k with
    | none => s.blkReply o b.tag 0x12 0 4
    | some relay =>
      let id := s.blk.next + 1
      let x : BlkOp := { id := id, owner := o, op := op, b := b, a := none, started := true, subs := 0, got := [], fail := none, phase := 0,
                         why := (0, 0) }
      let s := { s with blk.next := id, blk.ops := s.blk.ops ++ [x] }.mirror (.cmd x)
      let s := s.dropDrive k (if op = 8 then some nsid else none)
      let serial := match (s.drive k).info with | some d => d.serial | none => 0
      let s := s.journalPut { serial := serial, port := k, op := op, action := b.action, nsid := nsid, progress := 0, seq := 0, ended := false }
      let r := s.newSub id 0 0 true
      r.1.nvmeSend k r.2 (if op = 7 then 0x184 else 0x180) nsid b.action 0 false true relay []

/-- A sanitise or format of a port ends: its journal record and its command. -/
def State.eraseEnd (s : State) (k op st : Nat) : State :=
  let js := s.blk.journal.filter fun j => j.port == k && j.op == op && !j.ended
  let s := js.foldl (fun s j => s.journalPut { j with progress := 16, ended := true }) s
  (s.blk.ops.filter fun o => o.op == op && o.b.port == k && o.subs == 0).foldl (fun s o => s.opEnd o st 7) s

/-- SANITIZE_PROGRESS: a sixteenth is journalled and mirrored; the sixteenth of them ends the operation. -/
def execSanitizeProgress (port : Fin 8) (sixteenths t : Nat) (s : State) : Out :=
  let s := s.advance t
  match s.blk.journal.find? fun j => j.port == port.val && j.op == 7 && !j.ended with
  | none => .next s
  | some j =>
    if 16 ≤ sixteenths then .next (s.eraseEnd port.val 7 0)
    else .next (s.journalPut { j with progress := max j.progress sixteenths })

/-! ## Commands (R394, R399, R400) -/

/-- Run a command that has been taken. -/
def State.blkCommand (s : State) (o : BlkOwner) (op : Nat) (b : BlkBody) (ix : Nat) : State :=
  match s.blkCheck o op b with
  | some st =>
    let w := o.who
    let s := match blkReason st with
      | some reason => if w.1 then s.violate 1 w.2.1 3 st reason w.2.2 ix else s.violInst w.2.1 st reason w.2.2 ix
      | none => s
    s.blkReply o b.tag st (if st = 3 then 4 else 0) 4
  | none =>
    if op = 6 then
      let r := s.blkAbort o b.abortTag
      (r.1.blkReply o b.tag r.2.1 (if r.2.2 then 8 else 0) 4).blkRun
    else if 7 ≤ op then s.blkErase o op b
    else
      let id := s.blk.next + 1
      let a := match s.vol b.vol with | some v => some v.a | none => none
      let x : BlkOp := { id := id, owner := o, op := op, b := b, a := a, started := false, subs := 0, got := [], fail := none, phase := 0,
                         why := (0, 0) }
      ({ s with blk.next := id, blk.ops := s.blk.ops ++ [x] }.mirror (.cmd x)).blkRun

/-- The entry at an index of a block queue: its OP and its body, with what the transfers of its buffer answer (Table 13.5). -/
def blkEntry (w : AccWin) (q i : Nat) (b : BlkBody) : Nat × BlkBody :=
  let o := winEntryOff .block q i
  let f := w.fld (o + 1) 1
  (w.fld o 1,
   { b with fua := bitAt f 0, bufHbm := bitAt f 1, rsv := decide (4 ≤ f) || w.fld (o + 34) 30 != 0, tag := w.fld (o + 2) 2,
            vol := w.fld (o + 4) 2, abortTag := w.fld (o + 6) 2, lba := w.fld (o + 8) 8, nlb := w.fld (o + 16) 4,
            bufLen := w.fld (o + 20) 4, bufAddr := w.fld (o + 24) 8, action := w.fld (o + 32) 1, port := w.fld (o + 33) 1 })

/-- Commands of a requester in execution. -/
def State.inExec (s : State) (o : BlkOwner) : Nat := ((s.blk.ops ++ s.heldWrites).filter fun x => x.owner.who == o.who).length
/-- Completions of an accelerator queue not yet written. -/
def State.accOwed (s : State) (k : WinKind) (port q : Nat) : Nat :=
  (s.twin.held.filter fun h => match h.2.plain with | .acc k' p q' _ _ => k' == k && p == port && q' == q | _ => false).length

/-- Take a command of an operation from a ring or a queue, and run it. A queue whose next entry holds another operation is left; an entry
with a reserved OP is taken as a READ. -/
def State.blkTake (s : State) (op : Nat) (src : BlkSrc) (b : BlkBody) (t : Nat) : State :=
  let s := s.advance t
  match src with
  | .ring i r =>
    if 1024 ≤ s.inExec (.ring { inst := i.val, ring := r.val, tag := 0, gen := 0, ix := 0 }) then s
    else match s.take i.val r.val 1 b.tag with
      | none => s
      | some (u, w) => (u.mirRing i.val r.val).blkCommand (.ring w) op b (u.descIx i.val r.val)
  | .accel p q =>
    let x := s.accQ .block p.val q.val
    let w := s.win .block p.val
    let o : BlkOwner := .acc p.val q.val w.gen
    if x.st ≠ 1 ∨ x.tail ≤ x.taken ∨ x.cqN ≤ x.posted - x.released + s.inExec o + s.accOwed .block p.val q.val ∨
      s.fld R.twinState = 5 ∨ s.fld R.twinState = 6 then s
    else
      let i := x.taken % x.sqN
      let e := blkEntry w q.val i b
      let reserved := decide (e.1 = 0) || decide (8 < e.1)
      if e.1 ≠ op ∧ !(reserved ∧ op = 1) then s
      else
        let s := (s.modAccQ .block p.val q.val fun x => { x with taken := x.taken + 1 }).mirQueue .block p.val q.val
        s.blkCommand o e.1 e.2 i

/-- BLK_READ. -/
def execBlkRead (src : BlkSrc) (b : BlkBody) (t : Nat) (s : State) : Out := .next (s.blkTake 1 src b t)
/-- BLK_WRITE. -/
def execBlkWrite (src : BlkSrc) (b : BlkBody) (t : Nat) (s : State) : Out := .next (s.blkTake 2 src b t)
/-- BLK_FLUSH. -/
def execBlkFlush (src : BlkSrc) (b : BlkBody) (t : Nat) (s : State) : Out := .next (s.blkTake 3 src b t)
/-- BLK_WRITE_ZEROES. -/
def execBlkWriteZeroes (src : BlkSrc) (b : BlkBody) (t : Nat) (s : State) : Out := .next (s.blkTake 4 src b t)
/-- BLK_DEALLOCATE. -/
def execBlkDeallocate (src : BlkSrc) (b : BlkBody) (t : Nat) (s : State) : Out := .next (s.blkTake 5 src b t)
/-- BLK_ABORT. -/
def execBlkAbort (src : BlkSrc) (b : BlkBody) (t : Nat) (s : State) : Out := .next (s.blkTake 6 src b t)
/-- BLK_SANITIZE. -/
def execBlkSanitize (src : BlkSrc) (b : BlkBody) (t : Nat) (s : State) : Out := .next (s.blkTake 7 src b t)
/-- BLK_FORMAT. -/
def execBlkFormat (src : BlkSrc) (b : BlkBody) (t : Nat) (s : State) : Out := .next (s.blkTake 8 src b t)
/-- DESTAGE: the dirty blocks of a range are written to their members. -/
def execDestage (vol lba nlb t : Nat) (s : State) : Out := .next ((s.advance t).destage vol lba nlb).blkRun

/-! ## Drives (R389 to R393) -/

/-- A command of a drive ends for its part. -/
def State.cmdEnd (s : State) (c : NvmeCmd) (status : Nat) : State :=
  let st := if status = 0 then none else if status = 0x83 then some 0x13 else if c.opcode = 0x02 then some 0x10 else some 0x11
  if c.sub = 0 then s else s.partDone c.sub st (status, 0) c.buf
/-- A command whose path failed. -/
def State.cmdLost (s : State) (c : NvmeCmd) : State := if c.sub = 0 then s else s.partDone c.sub (some 0x12) (0, 0) []

/-- Issue again commands taken off a drive, on the path there is; without one they are lost. -/
def State.cmdAgain (s : State) (k : Nat) (l : List NvmeCmd) : State :=
  l.foldl (fun s c => match s.drivePath k with
    | some relay => s.nvmeSend k c.sub c.opcode c.nsid c.lba c.nlb c.fua c.write relay c.buf
    | none => s.cmdLost c) s
/-- The path of a port fails: its commands are relayed, or fail (R392). -/
def State.pathFail (s : State) (k : Nat) : State :=
  let s := s.setFld (R.storPathFailed k) 1
  let l := (s.drive k).cmds.filter fun c => !c.relayed
  (s.modDrive k fun d => { d with cmds := d.cmds.filter (·.relayed) }).cmdAgain k l
/-- A controller reset: the command named is lost, the others are issued again; a reset that fails, or the third in 60 s, fails the path
(R390, Table 13.4). -/
def State.ctrlReset (s : State) (k : Nat) (lost : Option Nat) (ok : Bool) : State :=
  let s := s.emit (.nvmeReset k)
  let now := s.time.now
  let s := s.modDrive k fun d => { d with resets := now :: d.resets.filter fun x => now < x + 60000000000 }
  let all := (s.drive k).cmds.filter fun c => !c.relayed
  let gone := all.filter fun c => some c.cid == lost
  let s := s.modDrive k fun d => { d with cmds := d.cmds.filter fun c => !gone.contains c }
  let s := gone.foldl (fun s c => s.cmdLost c) s
  if !ok ∨ 3 ≤ (s.drive k).resets.length then s.pathFail k
  else
    let again := (s.drive k).cmds.filter fun c => !c.relayed
    (s.modDrive k fun d => { d with cmds := d.cmds.filter (·.relayed) }).cmdAgain k again

/-- A violation of a drive. -/
def State.driveViol (s : State) (k cid reason : Nat) : State := s.violate 3 k 9 0xFF reason k cid

/-- After a drive's answer: a format whose command ended is over, a sanitise whose command failed too. -/
def State.eraseCheck (s : State) (k : Nat) : State :=
  (s.blk.ops.filter fun o => 7 ≤ o.op && o.b.port == k && o.subs == 0).foldl (fun s o =>
    match o.fail with
    | some st => s.eraseEnd k o.op st
    | none => if o.op = 8 then s.eraseEnd k 8 0 else s) s

/-- NVME_COMPLETION. -/
def execNvmeCompletion (port : Fin 8) (cid status : Nat) (phaseOk : Bool) (t : Nat) (s : State) : Out :=
  let s := s.advance t
  let k := port.val
  match (s.drive k).cmds.find? fun c => c.cid == cid with
  | none => .next (s.driveViol k cid 6)
  | some c =>
    if !phaseOk then .next ((s.driveViol k cid 7).ctrlReset k none true).blkRun
    else
      let s := s.modDrive k fun d => { d with cmds := d.cmds.erase c }
      let s := if status = 0x83 then s.emit (.toSteward 5 cid 0x13 k) else s
      let s := if c.sub = 0 ∧ c.opcode = 0x11 then s.setFld (R.storResHolder k) (b2n (status == 0)) else s
      let bytes := c.nlb * (match s.nsOf k c.nsid with | some x => x.bs | none => 0)
      let s := if status = 0 ∧ (c.opcode = 1 ∨ c.opcode = 2) then s.portBytesAdd ((if c.opcode = 1 then 40 else 32) + k) bytes else s
      .next (((s.nvmeNext k).cmdEnd c status).eraseCheck k).blkRun

/-- NVME_COMMAND_TIMEOUT: counted, and an NVMe Abort sent. -/
def execNvmeCommandTimeout (port : Fin 8) (cid t : Nat) (s : State) : Out :=
  let s := s.advance t
  let k := port.val
  match (s.drive k).cmds.find? fun c => c.cid == cid with
  | none => .next s
  | some c =>
    let s := s.modDrive k fun d => { d with cmds := d.cmds.map fun x => if x.cid == cid then { x with aborted := true } else x }
    .next ((s.incFld (R.storTimeout k)).emit (.nvme k cid c.relayed 0x108 0 cid 0 false []))

/-- NVME_ABORT_TIMEOUT: the controller is reset, and the command is lost. -/
def execNvmeAbortTimeout (port : Fin 8) (cid : Nat) (resetOk : Bool) (t : Nat) (s : State) : Out :=
  let s := s.advance t
  let k := port.val
  match (s.drive k).cmds.find? fun c => c.cid == cid && c.aborted with
  | none => .next s
  | some _ => .next ((s.ctrlReset k (some cid) resetOk).eraseCheck k).blkRun

/-- STORAGE_LINK_DOWN: the path fails. -/
def execStorageLinkDown (port : Fin 8) (t : Nat) (s : State) : Out :=
  let s := (s.advance t).setFld (R.storLinkUp port.val) 0
  .next ((s.pathFail port.val).eraseCheck port.val).blkRun

/-- The drive has every capability Table 13.3 requires. -/
def driveSupported (d : DriveInfo) : Bool := d.multiPort && d.reservations && d.ns.all fun n => n.bs == 512 || n.bs == 4096

/-- STORAGE_LINK_UP: the drive is brought up: keys are registered, reservations acquired for volumes of this side, and an unfinished format
of the drive is issued again (R390, R391, R414, R493). -/
def execStorageLinkUp (port : Fin 8) (d : DriveInfo) (t : Nat) (s : State) : Out :=
  let k := port.val
  let s := (s.advance t).setFld (R.storLinkUp k) 1
  let s := (s.setFld (R.storRate k) d.rate).setFld (R.storDegraded k) (b2n (decide (d.rate < 5) || decide (d.width < 2)))
  let s := (s.setFld (R.storPathFailed k) 0).setFld (R.storRelayed k) 0
  if !driveSupported d then .next ((s.setFld (R.storUnsupported k) 1).emit (.toSteward 5 0 1 k))
  else
    let s := (s.setFld (R.storUnsupported k) 0).modDrive k fun x => { x with info := some d }
    let s := s.reserve k 1 false
    let s := s.blk.vols.foldl (fun s v => match v.2 with
      | some x => (volDrives x.a).foldl (fun s n => if n.1 = k then s.reserve k n.2 (s.served x) else s) s
      | none => s) s
    let s := (s.blk.journal.filter fun j => !j.ended && j.op == 8 && j.serial == d.serial && !s.blk.ops.any fun o => o.op == 8 && o.b.port == k).foldl
      (fun s j => s.nvmeSend k 0 0x180 j.nsid j.action 0 false true false []) s
    .next (s.showSan k).blkRun

/-- STORAGE_AER_CORRECTABLE. -/
def execStorageAerCorrectable (port : Fin 8) (s : State) : Out := .next (s.incFld (R.storAer port.val))

/-- DRIVE_DMA: bytes a drive writes enter the command's buffer; an access outside an outstanding command's PRPs is blocked. -/
def execDriveDma (port : Fin 8) (cid off len : Nat) (write : Bool) (data : List Byte) (t : Nat) (s : State) : Out :=
  let s := s.advance t
  let k := port.val
  match (s.drive k).cmds.find? fun c => c.cid == cid with
  | none => .next ((s.driveViol k cid 10).ctrlReset k none true).blkRun
  | some c =>
    if c.buf.length < off + len ∨ (write ∧ c.write) ∨ (write ∧ data.length ≠ len) then
      .next (((s.driveViol k cid 10).ctrlReset k (some cid) true).eraseCheck k).blkRun
    else if write then
      .next (s.modDrive k fun d => { d with cmds := d.cmds.map fun x =>
        if x.cid == cid then { x with buf := x.buf.take off ++ data ++ x.buf.drop (off + len) } else x })
    else .next s

/-! ## Volumes (R384 to R388) -/

/-- The packed length of Table 13.1. -/
def volParamLen (a : VolAttr) : Nat := 16 + 24 * a.members.length + 6

/-- An attribute is out of range. -/
def State.volBad (s : State) (a : VolAttr) : Bool :=
  decide (4095 < a.vol) || (a.bs != 512 && a.bs != 4096) || decide (1 < a.layout) ||
  (a.layout == 1 && !((List.range 14).any fun i => a.stripe == 8 * 2 ^ i)) || a.members.isEmpty || decide (8 < a.members.length) ||
  decide (1 < a.home) || decide (1 < a.writeThrough) || decide (1 < a.enc) || decide (4095 < a.slot) || (s.vol a.vol).isSome ||
  (a.layout == 1 && a.members.any fun m => some (memberBlocks m) != a.members.head?.map memberBlocks) ||
  (a.members.any fun m => match m with
    | .drive p _ _ n => decide (7 < p) || n == 0
    | .remote q _ _ n => decide (65535 < q) || n == 0) ||
  (a.enc == 1 && (match s.key a.slot with | some k => !k.xts | none => true))

/-- The local extents of a volume: port, NSID, first LBA, blocks. -/
def volExtents (a : VolAttr) : List (Nat × Nat × Nat × Nat) :=
  a.members.filterMap fun m => match m with | .drive p n l b => some (p, n, l, b) | .remote _ _ _ _ => none
/-- Two extents overlap. -/
def extOverlap (x y : Nat × Nat × Nat × Nat) : Bool :=
  x.1 == y.1 && x.2.1 == y.2.1 && decide (x.2.2.1 < y.2.2.1 + y.2.2.2) && decide (y.2.2.1 < x.2.2.1 + x.2.2.2)
/-- The extents of every volume. -/
def State.allExtents (s : State) : List (Nat × Nat × Nat × Nat) := s.blk.vols.flatMap fun v => match v.2 with | some x => volExtents x.a | none => []

/-- VOL_CREATE (R386). -/
def State.volCreate (s : State) (a : VolAttr) : CtlRes :=
  let ex := volExtents a
  let leaves := ex.any fun x => match s.nsOf x.1 x.2.1 with | some n => decide (n.blocks < x.2.2.1 + x.2.2.2) || n.bs != a.bs | none => true
  let overlaps := (ex.any fun x => s.allExtents.any (extOverlap x)) || (ex.zipIdx.any fun x => ex.zipIdx.any fun y => x.2 != y.2 && extOverlap x.1 y.1)
  let conflict := s.blk.vols.any fun v => match v.2 with
    | some x => x.a.home != a.home && (volDrives x.a).any fun d => (volDrives a).contains d
    | none => false
  if s.volBad a then .fail s 0xE1
  else if 4096 ≤ (s.blk.vols.filter fun v => v.2.isSome).length then .fail s 0xD0
  else if leaves ∨ overlaps then .fail s 0xD1
  else if conflict then .fail s 0xD2
  else if ex.any fun x => !s.storOk x.1 x.2.1 x.2.2.1 x.2.2.2 then .fail s 0xD3
  else
    let v : Volume := { a := a, failed := false, taken := false }
    let s := (s.setVol a.vol (some v)).mirror (.volume a.vol (some v))
    .ok ((volDrives a).foldl (fun s d => s.reserve d.1 d.2 (a.home == s.fld R.twinSide)) s)

/-- VOL_DESTROY: the volume, its attachments, its cached blocks and its failed ranges go. -/
def State.volDestroy (s : State) (n : Nat) : CtlRes :=
  match s.vol n with
  | none => .fail s 0xD7
  | some _ =>
    let s := s.dropBlocks (s.blk.cache.filter fun c => c.vol == n)
    let s := { s.setVol n none with blk.atts := s.blk.atts.filter (fun a => a.vol != n), blk.failed := s.blk.failed.filter (fun f => f.1 != n) }
    .ok (s.showBlk.sweepKeys.mirror (.volume n none))

/-- VOL_ATTACH (R388). -/
def State.volAttach (s : State) (vol kind index : Nat) (ro : Bool) : CtlRes :=
  if (s.vol vol).isNone then .fail s 0xD7
  else if 1 < kind ∨ (kind = 0 ∧ 63 < index) ∨ (kind = 1 ∧ 7 < index) then .fail s 0xE1
  else
    let rest := s.blk.atts.filter fun a => !(a.vol == vol && a.acc == (kind == 1) && a.index == index)
    let a : Attach := { vol := vol, acc := kind == 1, index := index, ro := ro }
    .ok ({ s with blk.atts := rest ++ [a] }.mirror (.attach a true))
/-- VOL_DETACH. -/
def State.volDetach (s : State) (vol kind index : Nat) : CtlRes :=
  match s.blk.atts.find? fun a => a.vol == vol && a.acc == (kind == 1) && a.index == index with
  | some a => .ok ({ s with blk.atts := s.blk.atts.erase a }.mirror (.attach a false))
  | none => .fail s 0xD7

/-- VOL_CREATE. -/
def execVolCreate (i : InstId) (r : Fin 64) (h : CtlHdr) (v : VolAttr) (s : State) : Out :=
  .next (s.control i r h true (volParamLen v) 0 2 fun s => s.volCreate v)
/-- VOL_DESTROY. -/
def execVolDestroy (i : InstId) (r : Fin 64) (h : CtlHdr) (vol : Nat) (s : State) : Out :=
  .next (s.control i r h true 2 0 2 fun s => s.volDestroy vol)
/-- VOL_ATTACH. -/
def execVolAttach (i : InstId) (r : Fin 64) (h : CtlHdr) (vol kind index : Nat) (ro : Bool) (s : State) : Out :=
  .next (s.control i r h true 5 0 2 fun s => s.volAttach vol kind index ro)
/-- VOL_DETACH. -/
def execVolDetach (i : InstId) (r : Fin 64) (h : CtlHdr) (vol kind index : Nat) (s : State) : Out :=
  .next (s.control i r h true 5 0 2 fun s => s.volDetach vol kind index)

end Sys2Proof.Machine
end

