-- ==== Sys2Proof/Machine/Sample.lean ====
section
/-! DEFINITION. The merge and the sampling of a decode step (spec/14 R420, R429, R430). -/

namespace Sys2Proof.Machine

/-- A candidate: token and FP32 logit. -/
abbrev Cand := Nat × Nat

/-- FP32. -/
def fp32 : FpFmt := ⟨24, 8, true, 4, 0x7FC00000, 0x7F7FFFFF⟩
/-- The number an FP32 encoding orders by; both zeros are equal. -/
def fp32Key (x : Nat) : Int := if bitAt x 31 then -((x % 2 ^ 31 : Nat) : Int) else (x % 2 ^ 31 : Nat)
/-- An FP32 encoding is a NaN or +∞. -/
def fp32BadLogit (x : Nat) : Bool := decide (0x7F800000 < x % 2 ^ 31) || x == 0x7F800000
/-- A finite datum as a signed significand and its exponent. -/
def fpParts : FpVal → Int × Int
  | .fin neg m e => (if neg then -(m : Int) else m, e)
  | _ => (0, 0)
/-- The exact difference of two FP32 data, rounded to nearest even. -/
def fp32Sub (a b : Nat) : Nat :=
  let x := fpParts (fpDecode fp32 a)
  let y := fpParts (fpDecode fp32 b)
  let e := min x.2 y.2
  (convRev fp32 (x.1 * 2 ^ (x.2 - e).toNat - y.1 * 2 ^ (y.2 - e).toNat) e 0 false 0).1
/-- The product of two non-negative FP32 data, the first possibly +∞, rounded to nearest even. -/
def fp32Mul (a b : Nat) : Nat :=
  if a = 0x7F800000 then a
  else
    let x := fpParts (fpDecode fp32 a)
    let y := fpParts (fpDecode fp32 b)
    (convRev fp32 (x.1 * y.1) (x.2 + y.2) 0 false 0).1

/-- The alternating series of exp(−y) for y in [y, y + 1] / 2^P, term by term: bounds of the terms and of the sum, in units of 2^−P. -/
def expSeries (P y : Nat) : Nat → Nat → Nat → Nat → Int → Int → Int × Int
  | 0, _, _, tu, lo, hi => (lo - tu, hi + tu)
  | n + 1, k, tl, tu, lo, hi =>
    let lo' : Int := if k % 2 = 0 then lo + tl else lo - tu
    let hi' : Int := if k % 2 = 0 then hi + tu else hi - tl
    expSeries P y n (k + 1) (tl * y / 2 ^ P / (k + 1)) (tu * (y + 1) / 2 ^ P / (k + 1) + 1) lo' hi'
/-- Bounds of a square, `n` times over. -/
def squareBounds (P : Nat) : Nat → Nat × Nat → Nat × Nat
  | 0, b => b
  | n + 1, b => squareBounds P n (b.1 * b.1 / 2 ^ P, b.2 * b.2 / 2 ^ P + 1)
/-- Bounds of exp(−m × 2^e) in units of 2^−P, for an argument below 64. -/
def expBounds (P m : Nat) (e : Int) : Nat × Nat :=
  let sh : Int := P - 6 + e
  let y := if 0 ≤ sh then m * 2 ^ sh.toNat else m / 2 ^ (-sh).toNat
  let r := expSeries P y (P / 2) 0 (2 ^ P) (2 ^ P) 0 0
  squareBounds P 6 (r.1.toNat, r.2.toNat)
/-- The nearest integer to 2^31 × exp(−m × 2^e): the precision doubles until both bounds round alike. The exponential of a nonzero
rational is irrational, so it is never half way. -/
def weightFrom (m : Nat) (e : Int) : Nat → Nat → Nat
  | 0, P => ((expBounds P m e).1 * 2 ^ 32 / 2 ^ P + 1) / 2
  | n + 1, P =>
    let b := expBounds P m e
    let lo := (b.1 * 2 ^ 32 / 2 ^ P + 1) / 2
    if lo = (b.2 * 2 ^ 32 / 2 ^ P + 1) / 2 then lo else weightFrom m e n (2 * P)
/-- The weight w of a candidate at distance d, an FP32 encoding (R429). -/
def weightOf (d : Nat) : Nat :=
  match fpDecode fp32 d with
  | .fin _ m e => if m = 0 then 2 ^ 31 else if 6 ≤ expOf m e then 0 else weightFrom m e 8 128
  | _ => 0

/-- A candidate comes before another: greater logit, then lower token. -/
def candBefore (a b : Cand) : Bool := decide (fp32Key b.2 < fp32Key a.2) || (fp32Key a.2 == fp32Key b.2 && decide (a.1 ≤ b.1))
/-- Insert a candidate in order. -/
def candInsert (c : Cand) : List Cand → List Cand
  | [] => [c]
  | x :: xs => if candBefore c x then c :: x :: xs else x :: candInsert c xs
/-- The candidates in order. -/
def candSort : List Cand → List Cand
  | [] => []
  | c :: cs => candInsert c (candSort cs)
/-- The shortest prefix whose running sum of weights reaches H. -/
def nucleus (H : Nat) : Nat → List (Cand × Nat) → List (Cand × Nat)
  | _, [] => []
  | acc, c :: cs => if H ≤ acc + c.2 then [c] else c :: nucleus H (acc + c.2) cs
/-- The first candidate whose running sum exceeds the target. -/
def drawAt (target : Nat) : Nat → List (Cand × Nat) → Option Nat
  | _, [] => none
  | acc, c :: cs => if target < acc + c.2 then some c.1.1 else drawAt target (acc + c.2) cs

/-- The sampling key of a seed (R420). -/
def decodeKey (seed : Nat) : Nat := leNat ((sha384 ([0x4C, 0x4D, 0x44, 0x45, 0x43, 0x4F, 0x44, 0x45] ++ natLe 8 seed)).take 8)
/-- The draw r of a position (R420, R429). -/
def decodeDraw (a : SeqAttr) (pos : Nat) : Nat :=
  let w := philox (decodeKey a.seed) (pos % 2 ^ 32) (pos / 2 ^ 32 % 2 ^ 32) (a.tag % 2 ^ 32) (a.tag / 2 ^ 32 % 2 ^ 32)
  w.2.1.toNat * 2 ^ 32 + w.1.toNat

/-- The token of a step from its candidates (R429, R430); none when no candidate is left at all. -/
def sample (a : SeqAttr) (pos : Nat) (cands : List Cand) : Option Nat :=
  let live := cands.filter fun c => c.2 != 0xFF800000
  match candSort live with
  | [] => (cands.map (·.1)).min?
  | c :: cs =>
    let l := if a.topk = 0 then c :: cs else (c :: cs).take a.topk
    if a.invT = 0 then some c.1
    else
      let ws := l.map fun x => (x, weightOf (fp32Mul (fp32Sub c.2 x.2) a.invT))
      let S := (ws.map (·.2)).sum
      if S = 0 then some c.1
      else
        let pre := nucleus ((S * a.topp + 65535) / 65536) 0 ws
        let S2 := (pre.map (·.2)).sum
        some ((drawAt (decodeDraw a pos * S2 / 2 ^ 64) 0 pre).getD c.1)

end Sys2Proof.Machine
end

