-- ==== Sys2Proof/Machine/Dec.lean ====
section
/-! DEFINITION. Decode support: pools and pages, page tables, sequences, their steps, passes and completions (spec/14 R415 to R433). -/

namespace Sys2Proof.Machine

/-! ## Pools (R415, R416) -/

/-- The pools of an instance. -/
def State.pools (s : State) (n : Nat) : Pools := SMap.get (fun _ => Pools.none) s.dec.pools n
/-- A sequence. -/
def State.seq (s : State) (n : Nat) : Option Seq := SMap.get (fun _ => none) s.dec.seqs n
/-- Sequences in existence. -/
def State.allSeqs (s : State) : List (Nat × Seq) := s.dec.seqs.filterMap fun e => e.2.map fun q => (e.1, q)
/-- EXIST and RESIDENT follow the sequences (Table 14.9). -/
def State.showDec (s : State) : State :=
  (s.setFld R.decExist s.allSeqs.length).setFld R.decResident (s.allSeqs.filter fun e => e.2.resident).length
/-- Replace a sequence. -/
def State.setSeq (s : State) (n : Nat) (q : Option Seq) : State := { s with dec.seqs := SMap.set (fun _ => none) s.dec.seqs n q }.showDec
/-- Change a sequence. -/
def State.modSeq (s : State) (n : Nat) (f : Seq → Seq) : State := match s.seq n with | some q => s.setSeq n (some (f q)) | none => s

/-- The member accelerators of a sequence, ascending. -/
def seqMembers (a : SeqAttr) : List Nat := (List.range 8).filter fun i => bitAt a.mask i
/-- The bus address and slots of a member's T0 run. -/
def Pools.run (p : Pools) (k : Nat) : Option (Nat × Nat) := (p.t0.find? fun r => r.1 == k).map fun r => r.2
/-- The T0 slots every member of a sequence has. -/
def Pools.slots (p : Pools) (a : SeqAttr) : Nat := ((seqMembers a).map fun k => ((p.run k).getD (0, 0)).2).min?.getD 0

/-- The T0 slots a sequence uses: its pages, those of the step in progress, its halves, and copies under way (R423, R425). -/
def Seq.slots (q : Seq) : List Nat :=
  (q.pages.filter fun g => g.tier == 1).map (·.loc) ++ q.mapped.map (·.2) ++ q.half
/-- The free T0 slots of a sequence: those no sequence that shares a member uses. -/
def State.freeSlots (s : State) (q : Seq) : List Nat :=
  let used := (s.allSeqs.filter fun e => e.2.inst == q.inst && e.2.a.mask &&& q.a.mask != 0).flatMap fun e => e.2.slots
  (List.range ((s.pools q.inst).slots q.a)).filter fun i => !used.contains i

/-- The first 64 KiB unit and the units of a lower tier's pool: T1 and T2 in units of their address space, T3 in units of the volume. -/
def State.tierSpan (s : State) (n tier : Nat) : Option (Nat × Nat) :=
  let p := s.pools n
  if tier = 2 then p.t1.map fun x => (x.1 / 65536, x.2 / 65536)
  else if tier = 3 then p.t2.map fun x => (x.1 / 65536, x.2 / 65536)
  else if tier = 4 then
    match p.t3.bind s.vol with
    | some v => some (0, volCapacity v.a * v.a.bs / 65536)
    | none => none
  else none
/-- The extents in use in a lower tier of an instance: first unit and units. -/
def State.tierUsed (s : State) (n tier : Nat) : List (Nat × Nat) :=
  (s.allSeqs.filter fun e => e.2.inst == n).flatMap fun e =>
    let m := (seqMembers e.2.a).length
    (e.2.pages.filter fun g => g.tier == tier).map (fun g => (g.loc, m)) ++
    (e.2.pages.filterMap fun g => match g.move with | some x => if x.1 = tier then some (x.2, m) else none | none => none) ++
    (if tier = 2 then e.2.nodes.map fun x => (x.2.2, 1) else [])
/-- Units in use of a lower tier that are not being left. -/
def State.tierBusy (s : State) (n tier : Nat) : Nat :=
  ((s.tierUsed n tier).map (·.2)).sum - ((s.allSeqs.filter fun e => e.2.inst == n).map fun e =>
    (e.2.pages.filter fun g => g.tier == tier && g.move.isSome).length * (seqMembers e.2.a).length).sum
/-- The places in a lower tier where a run of units is free. -/
def State.tierFree (s : State) (n tier m : Nat) : List Nat :=
  match s.tierSpan n tier with
  | none => []
  | some sp =>
    let used := s.tierUsed n tier
    ((List.range (sp.2 + 1 - m)).map fun i => sp.1 + i).filter fun u => !used.any fun x => decide (x.1 < u + m) && decide (u < x.1 + x.2)
/-- A free place, of the device's choice. -/
def State.tierPick (s : State) (n tier m : Nat) : Option Nat := s.pick (s.tierFree n tier m)
/-- The first of some lower tiers with a free page, and its place. -/
def State.firstTier (s : State) (n m : Nat) : List Nat → Option (Nat × Nat)
  | [] => none
  | t :: ts => match s.tierPick n t m with | some l => some (t, l) | none => State.firstTier s n m ts

/-! ## Page tables (R417, R418) -/

/-- The page-number bits that name the node of a level. -/
def nodePrefix (level pn : Nat) : Nat := pn / 2 ^ (13 * (5 - level))
/-- The entry of a node that a page number selects. -/
def nodeIndex (level pn : Nat) : Nat := pn / 2 ^ (13 * (4 - level)) % 8192
/-- A node of a sequence's table. -/
def Seq.node (q : Seq) (level pn : Nat) : Option Nat := (q.nodes.find? fun x => x.1 == level && x.2.1 == nodePrefix level pn).map fun x => x.2.2
/-- Write an entry of a node. -/
def State.putEntry (s : State) (unit i v : Nat) : State := s.hbmStore (unit * 65536 + 8 * i) (natLe 8 v)
/-- The nodes a page number needs exist: a missing one is allocated, cleared, and entered in the level above. False when the T1 pool has no
room. -/
def State.needNodes (s : State) (n pn : Nat) : List Nat → State × Bool
  | [] => (s, true)
  | level :: ls =>
    match s.seq n with
    | none => (s, false)
    | some q =>
      if (q.node level pn).isSome then State.needNodes s n pn ls
      else
        match s.tierPick q.inst 2 1 with
        | none => (s, false)
        | some u =>
          let s := (s.tick.setSeq n (some { q with nodes := q.nodes ++ [(level, nodePrefix level pn, u)] })).hbmPut (u * 65536) (List.replicate 65536 0)
          let s := if level = 1 then s else
            match q.node (level - 1) pn with
            | some up => s.putEntry up (nodeIndex (level - 1) pn) (1 + u % 2 ^ 22 * 2 ^ 16)
            | none => s
          State.needNodes s n pn ls
/-- The level-4 entry of a page (Table 14.2). -/
def SeqPage.entry (g : SeqPage) : Nat := g.tier + b2n g.move.isSome * 8 + b2n g.dirty * 16 + g.loc * 256
/-- Put a page, and its entry in the page table. -/
def State.putPage (s : State) (n : Nat) (g : SeqPage) : State :=
  match s.seq n with
  | none => s
  | some q =>
    let s := s.setSeq n (some { q with pages := (q.pages.filter fun x => x.pn < g.pn) ++ [g] ++ (q.pages.filter fun x => g.pn < x.pn) })
    match q.node 4 g.pn with
    | some u => s.putEntry u (nodeIndex 4 g.pn) g.entry
    | none => s

/-! ## Completions of sequences (R422) -/

/-- Decode is stopped (R494, R499). -/
def State.decStopped (s : State) : Bool := s.fld R.twinState == 5 || s.fld R.twinState == 6
/-- The twin has confirmed a record, or none is needed (R489). -/
def State.confirmed (s : State) (need : Nat) : Bool :=
  !s.held || ((s.fld R.twinState == 1 || s.fld R.twinState == 4) && !s.twin.unconf.any fun m => m.seq == need)
/-- The bytes of a sequence's completion (Table 14.5). -/
def seqBody (n st kind last gen pass w8 : Nat) : List Byte :=
  natLe 2 n ++ natLe 1 st ++ natLe 1 (kind * 2 + last * 8) ++ natLe 2 gen ++ natLe 2 pass ++ natLe 8 w8
/-- A completion of a sequence is due at every member; a newer GRANT replaces one that was not posted. -/
def State.seqDue (s : State) (n kind : Nat) (body : List Byte) : State :=
  let s := s.mirror (.other 5)
  s.modSeq n fun q => { q with
    held := (q.held.filter fun h => !(kind == 0 && h.kind == 0)) ++
      (seqMembers q.a).map fun m => ({ member := m, kind := kind, body := body, need := s.twin.seq } : SeqCpl) }
/-- Post the completions of a sequence that can be posted, in their order for each member. -/
def State.seqPost (s : State) (n : Nat) : State :=
  match s.seq n with
  | none => s
  | some q =>
    if s.decStopped then s
    else
      let r := q.held.foldl (fun (x : State × List SeqCpl) h =>
        if !(x.2.any fun y => y.member == h.member) && (x.1.accQ .decode h.member (n % 4)).canPost .decode && x.1.confirmed h.need then
          let t := x.1.putAcc .decode h.member (n % 4) h.body
          (if h.kind = 1 then (t.incFld R.decSteps).tally q.inst 7 1 else t, x.2)
        else (x.1, x.2 ++ [h])) (s, [])
      r.1.modSeq n fun q => { q with held := r.2 }

/-- A sequence ends: END is due with a status. -/
def State.seqEnd (s : State) (n st : Nat) : State :=
  match s.seq n with
  | none => s
  | some q => ((s.setSeq n (some { q with st := .ended, want := false })).seqDue n 2 (seqBody n st 2 0 q.gen 0 q.pos)).seqPost n

/-! ## Placement (R428) -/

/-- The tiers a page leaving `tier` may go to: from T0 the first of T1 to T3 with a free page; a demotion only to the next lower tier the instance
has (R428). -/
def State.lowerTiers (s : State) (inst tier : Nat) : List Nat :=
  if tier = 1 then [2, 3, 4] else ([3, 4].filter fun t => decide (tier < t) && (s.tierSpan inst t).isSome).take 1
/-- A copy of a page to a lower tier begins; none when no tier has room. -/
def State.moveStart (s : State) (n : Nat) (g : SeqPage) : Option State :=
  match s.seq n with
  | none => none
  | some q =>
    match s.firstTier q.inst (seqMembers q.a).length (s.lowerTiers q.inst g.tier) with
    | none => none
    | some x => some (s.tick.putPage n { g with move := some x })
/-- The resident pages of a sequence that stay: those in T0 that no copy takes away. -/
def Seq.resid (q : Seq) : List SeqPage := q.pages.filter fun g => g.tier == 1 && g.move.isNone
/-- Give a page a free T0 slot, if there is one. -/
def State.placeT0 (s : State) (n pn : Nat) : Option State :=
  match s.seq n with
  | none => none
  | some q =>
    match s.pick (s.freeSlots q) with
    | none => none
    | some i => some (s.tick.putPage n { pn := pn, tier := 1, loc := i, move := none, dirty := true, used := s.dec.clock })

/-- Allocate pages for a range of page numbers at CREATE: the newest W0 in T0, older ones in the first of T1 to T3 with a free page. -/
def State.allocFrom (s : State) (n pn last : Nat) : Nat → State × Bool
  | 0 => (s, true)
  | k + 1 =>
    match s.seq n with
    | none => (s, false)
    | some q =>
      let r := s.needNodes n pn [1, 2, 3, 4]
      if !r.2 then (r.1, false)
      else
        let s := r.1
        let placed := if last < pn + q.a.w0 then s.placeT0 n pn
          else (s.firstTier q.inst (seqMembers q.a).length [2, 3, 4]).map fun x =>
            s.tick.putPage n { pn := pn, tier := x.1, loc := x.2, move := none, dirty := false, used := s.dec.clock }
        match placed with
        | none => (s, false)
        | some s => if pn = last then (s, true) else State.allocFrom s n (pn + 1) last k

/-- Allocate the page of position POS − 1, whose keys and values the step writes (Table 14.7): the oldest resident page leaves when W0 stay, or when T0 has no slot for the new one, which then waits for
that copy. A page that no tier can hold ends the sequence with CAPACITY. -/
def State.allocTail (s : State) (n : Nat) : State :=
  match s.seq n with
  | none => s
  | some q =>
    let pn := (q.pos - 1) / 2 ^ q.a.shift
    if 2 ^ 52 ≤ pn then s.seqEnd n 0x0A
    else
      let r := s.needNodes n pn [1, 2, 3, 4]
      if !r.2 then r.1.seqEnd n 0x0A
      else
        let s := r.1
        let leave := fun (s : State) => (match q.resid with | g :: _ => s.moveStart n g | [] => none : Option State)
        match s.placeT0 n pn with
        | some t => if q.a.w0 ≤ q.resid.length then (match leave t with | some u => u | none => s.seqEnd n 0x0A) else t
        | none =>
          if q.pages.any fun g => g.tier == 1 && g.move.isSome then s.modSeq n fun q => { q with want := true }
          else match leave s with
            | some u => u.modSeq n fun q => { q with want := true }
            | none => s.seqEnd n 0x0A

/-! ## Steps and passes (R423 to R427) -/

/-- The passes of a step. -/
def Seq.passes (q : Seq) : Nat := if q.a.stream = 0 then 1 else max 1 ((q.stream.length + q.a.stream - 1) / q.a.stream)
/-- The pages of a stream chunk. -/
def Seq.chunk (q : Seq) (p : Nat) : List Nat := slice q.stream (p * q.a.stream) q.a.stream
/-- The slot of page j of a chunk. -/
def Seq.halfSlot (q : Seq) (p j : Nat) : Nat := (q.half[p % 2 * q.a.stream + j]?).getD 0
/-- Every member has reported a pass done. -/
def Seq.allDone (q : Seq) (p : Nat) : Bool := (seqMembers q.a).all fun m => q.done.contains (m, p)
/-- A sequence is this device's to serve (HOME; R433). -/
def State.serves (s : State) (q : Seq) : Bool := q.a.home == s.fld R.twinSide || q.taken

/-- Allocate the stream halves; false when T0 has no room for them. -/
def State.needHalf (s : State) (n : Nat) : Nat → State × Bool
  | 0 => (s, true)
  | k + 1 =>
    match s.seq n with
    | none => (s, false)
    | some q =>
      match s.pick (s.freeSlots q) with
      | none => (s, false)
      | some i => State.needHalf (s.tick.setSeq n (some { q with half := q.half ++ [i] })) n k

/-- Lay out a step: which pages are streamed and which are resident, and the loads of its first two chunks. -/
def State.seqLay (s : State) (n : Nat) : State :=
  match s.seq n with
  | none => s
  | some q =>
    let stream := (q.pages.filter fun g => g.tier != 1).map (·.pn)
    let mapped := (q.pages.filter fun g => g.tier == 1).map fun g => (g.pn, g.loc)
    let lost := q.pages.any fun g => g.tier == 3 && (s.pools q.inst).t2.isNone
    if lost then s.seqEnd n 0x0B
    else if !stream.isEmpty ∧ q.a.stream = 0 then s.seqEnd n 0x0A
    else
      let s := s.setSeq n (some { q with stream := stream, mapped := mapped, laid := true, next := 0, loaded := 0, loading := [], done := [], cands := [] })
      if stream.isEmpty then s
      else
        let r := s.needHalf n (2 * q.a.stream - q.half.length)
        if r.2 then r.1.modSeq n fun q => { q with loading := if q.passes = 1 then [0] else [0, 1] } else r.1.seqEnd n 0x0A

/-- Write a sequence's slot map in each member: the pass's chunk, and on the last pass every resident page, in page order: streamed pages
are older than resident ones (R423). -/
def State.slotMap (s : State) (n p : Nat) : State :=
  match s.seq n with
  | none => s
  | some q =>
    let ch := (q.chunk p).zipIdx.map fun x => (x.1, q.halfSlot p x.2)
    let all := if p + 1 = q.passes then ch ++ q.mapped else ch
    let l := all.flatMap fun x => natLe 4 x.2
    let d := l ++ natLe 4 0xFFFFFFFF
    (seqMembers q.a).foldl (fun s m =>
      if s.accOk m q.a.slotmap d.length then s.emit (.accelWrite m q.a.slotmap d) else s.rindBlock 4 0) s

/-- Grant the next pass when R422 and R426 let it be granted. -/
def State.seqGrant (s : State) (n : Nat) : State :=
  match s.seq n with
  | none => s
  | some q =>
    if q.st ≠ .granted ∨ q.want ∨ !q.resident ∨ !s.serves q ∨ s.decStopped ∨ !q.laid then s
    else if q.passes ≤ q.next ∨ (!q.stream.isEmpty ∧ q.loaded ≤ q.next) ∨ (q.next ≠ 0 ∧ !q.allDone (q.next - 1)) ∨
      (q.held.any fun h => h.kind == 1) then s
    else
      let last := b2n (q.next + 1 == q.passes)
      let s := s.slotMap n q.next
      ((s.modSeq n fun q => { q with next := q.next + 1, used := s.dec.clock }).seqDue n 0 (seqBody n 0 0 last q.gen q.next q.pos)).seqPost n

/-- Another sequence waits for a resident context (R29). -/
def State.seqWaiting (s : State) : Bool := s.allSeqs.any fun e => !e.2.resident && e.2.st != .ended
/-- SEQ_RES of an instance, in effect; zero is uncapped (R533). -/
def State.seqRes (s : State) (n : Nat) : Nat := bits (s.quota.get (R.instKey n + 0x48)).toNat 16 15
/-- Resident sequences of an instance. -/
def State.seqResident (s : State) (n : Nat) : Nat := (s.allSeqs.filter fun e => e.2.resident && e.2.inst == n).length
/-- A resident context may be taken for a sequence of an instance without an eviction. -/
def State.seqRoom (s : State) (n : Nat) : Bool :=
  decide ((s.allSeqs.filter fun e => e.2.resident).length < 16384) && (s.seqRes n == 0 || decide (s.seqResident n < s.seqRes n))
/-- The contexts that could be taken for sequences of an instance without an eviction. -/
def State.seqFree (s : State) (n : Nat) : Nat :=
  min (16384 - (s.allSeqs.filter fun e => e.2.resident).length) (if s.seqRes n = 0 then 16384 else s.seqRes n - s.seqResident n)
/-- The sequences that wait for a context, could take one an instance's sequence takes, and come before it: those that gave theirs up earlier, then by
number (round-robin per step, R29; log entry 172). -/
def State.seqAhead (s : State) (n : Nat) (q : Seq) : Nat :=
  (s.allSeqs.filter fun e => !e.2.resident && e.2.st != .ended && e.1 != n &&
    (e.2.waitFrom < q.waitFrom || (e.2.waitFrom == q.waitFrom && e.1 < n)) && (e.2.inst == q.inst || s.seqFree e.2.inst != 0)).length
/-- A sequence is pinned: a step of it is under way, a chunk loads or a page moves, or a completion of it is not posted (R31). -/
def Seq.pinned (q : Seq) : Bool :=
  q.st == .merging || q.next != 0 || !q.loading.isEmpty || (q.pages.any fun g => g.move.isSome) || !q.held.isEmpty
/-- The least recently used unpinned resident sequence: of one instance, or of all. -/
def State.seqVictim (s : State) (inst : Option Nat) : Option Nat :=
  ((s.allSeqs.filter fun e => e.2.resident && !e.2.pinned && (inst.isNone || inst == some e.2.inst)).foldl
    (fun (b : Option (Nat × Nat)) e => match b with
      | some x => if e.2.used < x.2 then some (e.1, e.2.used) else b
      | none => some (e.1, e.2.used)) none).map (·.1)

/-- The step in turn of a sequence with a context begins: its new page is allocated, and with that placed it is laid out and pass 0 granted. -/
def State.seqTurn (s : State) (n : Nat) : State :=
  match s.seq n with
  | none => s
  | some q =>
    if q.st ≠ .granted ∨ q.laid ∨ q.want ∨ !q.resident ∨ !s.serves q then s
    else
      let s := if q.alloc then (s.modSeq n fun q => { q with alloc := false }).allocTail n else s
      match s.seq n with
      | none => s
      | some q => if q.st ≠ .granted ∨ q.want then s else (s.seqLay n).seqGrant n

/-- The next step comes: when others wait for a context and this one is not pinned, it gives its own up and waits for its turn (R29). -/
def State.seqStep (s : State) (n : Nat) : State :=
  let s := { s with dec.clock := s.dec.clock + 1 }
  let s := s.modSeq n fun q => { q with laid := false, next := 0, mapped := [] }
  match s.seq n with
  | none => s
  | some q =>
    if s.seqWaiting ∧ q.pinned = false then s.modSeq n fun q => { q with resident := false, waitFrom := s.dec.clock } else s.seqTurn n

end Sys2Proof.Machine
end

