-- ==== Sys2Proof/Machine/DecRows.lean ====
section
/-! DEFINITION. Decode support: the decode window's entries, loads, moves and demotions, and the control operations (spec/14; Table 18.8). -/

namespace Sys2Proof.Machine

/-! ## Entries (R421, R424, R427) -/

/-- A decode submission entry (Table 14.4). -/
structure DecEntry where
  op : Nat
  rsv : Bool
  seq : Nat
  pos : Nat
  pass : Nat
  count : Nat
  addr : Nat
  deriving DecidableEq, Repr

/-- Read an entry. -/
def decEntry (w : AccWin) (q i : Nat) : DecEntry :=
  let o := winEntryOff .decode q i
  { op := w.fld o 1, rsv := w.fld (o + 1) 1 != 0 || w.fld (o + 24) 40 != 0, seq := w.fld (o + 2) 2, pos := w.fld (o + 4) 8,
    pass := w.fld (o + 12) 2, count := w.fld (o + 14) 2, addr := w.fld (o + 16) 8 }

/-- The status of an entry before its candidates are looked at (Table 14.6, Table 14.7). -/
def State.decStatus (s : State) (port : Nat) (e : DecEntry) (dma : Bool) : Nat :=
  if e.op ≠ 1 ∧ e.op ≠ 2 then 1
  else if e.rsv ∨ (e.op = 1 ∧ (e.count = 0 ∨ 256 < e.count ∨ e.addr % 8 ≠ 0)) ∨ (e.op = 2 ∧ (e.count ≠ 0 ∨ e.addr ≠ 0)) then 2
  else
    match s.seq e.seq with
    | none => 3
    | some q =>
      if !s.serves q then 3
      else if !bitAt q.a.mask port then 4
      else if q.st = .ended then 9
      else if e.pos ≠ q.pos ∨ q.next = 0 ∨ e.pass ≠ q.next - 1 ∨
        (e.op = 1 ∧ (q.next ≠ q.passes ∨ q.cands.any fun c => c.1 == port)) ∨ (e.op = 2 ∧ q.done.contains (port, e.pass)) then 5
      else if e.op = 1 ∧ s.accOk port e.addr (8 * e.count) = false then 6
      else if e.op = 1 ∧ dma then 7 else 0

/-- The REASON of a status that is a violation. -/
def decReason (st : Nat) : Option Nat :=
  if st = 1 then some 1 else if st = 2 then some 5 else if st = 3 ∨ st = 4 then some 6 else if st = 5 then some 7
  else if st = 6 then some 10 else if st = 7 ∨ st = 8 then some 5 else none

/-- Every member has posted its candidates: sample, and mirror the outcome (R427, R429, R432). With no candidate left at all the token is a
free value. -/
def State.decMerge (s : State) (n : Nat) : State :=
  match s.seq n with
  | none => s
  | some q =>
    if q.st = .granted ∧ (seqMembers q.a).all (fun m => q.cands.any fun c => c.1 == m) then
      let tok := (sample q.a q.pos (q.cands.flatMap (·.2))).getD s.freeWord.toNat
      let s := s.tick.modSeq n fun q => { q with st := .merging, token := tok }
      let s := s.mirror (.seq n (s.seq n))
      s.modSeq n fun q => { q with need := s.twin.seq }
    else s

/-- Take the next entry of a queue when its OP is a row's; an entry with a reserved OP is taken as CANDIDATES. -/
def State.decTake (s : State) (op port q : Nat) (cands : Option (List Cand)) : State :=
  let x := s.accQ .decode port q
  let w := s.win .decode port
  if x.st ≠ 1 ∨ x.tail ≤ x.taken ∨ x.cqN ≤ x.posted - x.released + s.accOwed .decode port q ∨ s.decStopped then s
  else
    let i := x.taken % x.sqN
    let e := decEntry w q i
    if e.op ≠ op ∧ (e.op = 1 ∨ e.op = 2 ∨ op = 2) then s
    else
      let s := (s.modAccQ .decode port q fun x => { x with taken := x.taken + 1 }).mirQueue .decode port q
      let st := s.decStatus port e (cands.isNone || (cands.getD []).length != e.count)
      let gen := match s.seq e.seq with | some y => y.gen | none => 0
      let others := match s.seq e.seq with | some y => y.cands.flatMap fun (c : Nat × List Cand) => c.2.map fun (d : Cand) => d.1 | none => []
      let kept := (cands.getD []).filter fun c => !fp32BadLogit c.2 && !others.contains c.1
      let st' := if st = 0 ∧ e.op = 1 ∧ kept.length ≠ e.count then 8 else st
      let s := match decReason st' with
        | some reason => (s.violate 1 port 4 st' reason q i).incFld R.decViol
        | none => s
      let s := s.commit 5 (.acc .decode port q w.gen (seqBody e.seq st' 0 0 gen 0xFFFF e.pos))
      if st ≠ 0 then s
      else if e.op = 1 then (s.modSeq e.seq fun y => { y with cands := y.cands ++ [(port, kept)], used := s.dec.clock }).decMerge e.seq
      else
        let s := s.modSeq e.seq fun y => { y with done := y.done ++ [(port, e.pass)], used := s.dec.clock }
        let s := s.modSeq e.seq fun y =>
          if y.allDone e.pass ∧ !y.stream.isEmpty ∧ e.pass + 2 < y.passes then { y with loading := y.loading ++ [e.pass + 2] } else y
        s.seqGrant e.seq

/-- DEC_CANDIDATES; `cands` is what the read of CAND_ADDR returned, none when it failed. -/
def execDecCandidates (port : Fin 8) (q : Fin 4) (cands : Option (List (Nat × Nat))) (t : Nat) (s : State) : Out :=
  .next ((s.advance t).decTake 1 port.val q.val cands)
/-- DEC_PASS_DONE. -/
def execDecPassDone (port : Fin 8) (q : Fin 4) (t : Nat) (s : State) : Out := .next ((s.advance t).decTake 2 port.val q.val none)

/-! ## Chunks, tokens, held completions and contexts (R422, R426, R432, R29) -/

/-- Count pages in units of 1,024: the remainder, and the state with the field advanced. -/
def State.countPages (s : State) (f : Fld) (acc n : Nat) : State × Nat := (s.incFld f ((acc + n) / 1024), (acc + n) % 1024)
/-- A page as its tier holds it; T2 and T3 are given by the host's or the block service's answer. -/
def State.pageData (s : State) (m : Nat) (g : SeqPage) (d : List Byte) : List Byte :=
  if g.tier = 2 then s.hbmGet (g.loc * 65536) (65536 * m) else d
/-- Report what the read of a page in T1 meets. -/
def State.pageSeen (s : State) (m : Nat) (g : SeqPage) : State := if g.tier = 2 then (s.hbmSeen (g.loc * 65536) (65536 * m)).tick else s
/-- Write the shards of a page into a slot of every member. -/
def State.fillSlot (s : State) (q : Seq) (slot : Nat) (d : List Byte) : State :=
  (seqMembers q.a).zipIdx.foldl (fun s x =>
    match (s.pools q.inst).run x.1 with
    | none => s
    | some run =>
      let a := run.1 + slot * 65536
      if s.accOk x.1 a 65536 then s.emit (.accelWrite x.1 a (slice d (x.2 * 65536) 65536)) else s.rindBlock 4 0) s

/-- CHUNK_LOADED: the oldest chunk being loaded is in its half; `data` holds, in page order, what was read of pages in T2 and T3. -/
def execChunkLoaded (seq : Nat) (data : List (List Byte)) (t : Nat) (s : State) : Out :=
  let s := s.advance t
  match s.seq seq with
  | none => .next s
  | some q =>
    match q.loading with
    | [] => .next s
    | c :: rest =>
      if s.decStopped then .next s
      else
        let pages := (q.chunk c).filterMap fun pn => q.pages.find? fun g => g.pn == pn
        let s := pages.zipIdx.foldl (fun s x => (s.fillSlot q (q.halfSlot c x.2) (s.pageData (seqMembers q.a).length x.1 ((data[x.2]?).getD []))).pageSeen (seqMembers q.a).length x.1) s
        let r := s.countPages R.decStreamed s.dec.streamed pages.length
        let s := { r.1 with dec.streamed := r.2 }
        let s := s.modSeq seq fun y => { y with
          loading := rest, loaded := max y.loaded (c + 1),
          pages := y.pages.map fun g => if pages.any fun x => x.pn == g.pn then { g with used := s.dec.clock } else g }
        .next (s.seqGrant seq)

/-- TOKEN_POST: the sampled token goes to every member once the twin has confirmed it; the sequence then ends or takes its next step. -/
def execTokenPost (seq t : Nat) (s : State) : Out :=
  let s := s.advance t
  match s.seq seq with
  | none => .next s
  | some q =>
    if q.st ≠ .merging ∨ s.decStopped ∨ s.confirmed q.need = false then .next s
    else
      let body := natLe 2 seq ++ natLe 1 0 ++ natLe 1 2 ++ natLe 2 q.gen ++ natLe 2 0 ++ natLe 4 q.token ++ natLe 4 q.pos
      let s := (s.seqDue seq 1 body).seqPost seq
      if (q.token = q.a.eos ∧ q.a.eos ≠ 0xFFFFFFFF) ∨ q.pos + 1 = q.a.maxLen then .next (s.seqEnd seq 0)
      else
        .next ((s.modSeq seq fun y => { y with
          st := .granted, pos := q.pos + 1, cands := [], done := [], alloc := decide (q.pos % 2 ^ q.a.shift = 0) }).seqStep seq)

/-- DECODE_HELD_POST: what is held of a sequence is posted where it can be, and a grant that waited for its token follows. -/
def execDecodeHeldPost (seq t : Nat) (s : State) : Out := .next (((s.advance t).seqPost seq).seqGrant seq)

/-- SEQUENCE_CONTEXT_LOADED: a sequence whose turn it is becomes resident, in the place of an unpinned one where the class or the instance's cap is full; its
pending step proceeds. With every context pinned the load waits. -/
def execSequenceContextLoaded (seq t : Nat) (s : State) : Out :=
  let s := s.advance t
  match s.seq seq with
  | none => .next s
  | some q =>
    if q.resident then .next s
    else
      let load := fun (s : State) => ((s.modSeq seq fun y => { y with resident := true, used := s.dec.clock }).incFld R.decCtxLoad).seqTurn seq |>.seqGrant seq
      let free := s.seqFree q.inst
      if max 1 free ≤ s.seqAhead seq q then .next s
      else if 0 < free then .next (load s)
      else
        let own := decide (s.seqRes q.inst ≠ 0) && decide (s.seqRes q.inst ≤ s.seqResident q.inst)
        match s.seqVictim (if own then some q.inst else none) with
        | none => .next s
        | some v => .next (load (s.modSeq v fun y => { y with resident := false, waitFrom := s.dec.clock }))

/-! ## Moves (R428) -/

/-- PAGE_MOVE_END: a copy between tiers ends; `data` is what was read from a source that is not this device's HBM. A page of a DURABLE
sequence that enters T1 is mirrored (R432). -/
def execPageMoveEnd (seq pn : Nat) (data : List Byte) (t : Nat) (s : State) : Out :=
  let s := s.advance t
  match s.seq seq with
  | none => .next s
  | some q =>
    match q.pages.find? fun g => g.pn == pn with
    | none => .next s
    | some g =>
      match g.move with
      | none => .next s
      | some (tier, loc) =>
        let m := (seqMembers q.a).length
        let d := (s.pageData m g data).take (65536 * m)
        let s := s.pageSeen m g
        let s :=
          if tier = 2 then
            let s := s.hbmPut (loc * 65536) d
            if q.a.durable = 1 then s.mirror (.page seq g.pn d) else s
          else if tier = 3 then
            (if s.hostOk q.inst (loc * 65536) (65536 * m) then s.emit (.hostWrite q.inst (loc * 65536) d) else s.rindBlock 4 0)
          else
            match (s.pools q.inst).t3 with
            | none => s
            | some vol =>
              match s.vol vol with
              | none => s
              | some v =>
                let id := s.blk.next + 1
                let b : BlkBody := { fua := false, bufHbm := false, rsv := false, tag := 0, vol := vol, abortTag := 0,
                                     lba := loc * 65536 / v.a.bs, nlb := d.length / v.a.bs, bufLen := d.length, bufAddr := 0, action := 0,
                                     port := 0, data := some d, dmaOk := true }
                let x : BlkOp := { id := id, owner := .ckpt, op := 2, b := b, a := some v.a, started := false, subs := 0, got := [],
                                   fail := none, phase := 0, why := (0, 0) }
                ({ s with blk.next := id, blk.ops := s.blk.ops ++ [x] }).blkRun
        let s := s.putPage seq { g with tier := tier, loc := loc, move := none, dirty := false }
        if q.want then
          match s.placeT0 seq ((q.pos - 1) / 2 ^ q.a.shift) with
          | some u => .next (((u.modSeq seq fun y => { y with want := false }).seqLay seq).seqGrant seq)
          | none => .next s
        else .next s

/-- The least recently read pages of a tier of an instance that no copy takes away: by age, then SEQ, then page number. -/
def State.oldPage (s : State) (n tier : Nat) : Option (Nat × SeqPage) :=
  (s.allSeqs.flatMap fun e => if e.2.inst = n then (e.2.pages.filter fun g => g.tier == tier && g.move.isNone).map (fun g => (e.1, g)) else []).foldl
    (fun b x => match b with
      | some y => if x.2.used < y.2.used then some x else b
      | none => some x) none
/-- Demote pages of a tier until one eighth is free. -/
def State.demote (s : State) (n tier units : Nat) : Nat → State × Nat
  | 0 => (s, 0)
  | k + 1 =>
    if units ≤ 8 * (units - s.tierBusy n tier) then (s, 0)
    else
      match s.oldPage n tier with
      | none => (s, 0)
      | some x =>
        match s.moveStart x.1 x.2 with
        | none => (s, 0)
        | some t => let r := State.demote t n tier units k; (r.1, r.2 + 1)

/-- TIER_DEMOTION of the pool of T1 (2) or T2 (3) of an instance (R428). -/
def execTierDemotion (i : InstId) (tier t : Nat) (s : State) : Out :=
  let s := s.advance t
  match s.tierSpan i.val tier with
  | none => .next s
  | some sp =>
    if s.decStopped ∨ (tier ≠ 2 ∧ tier ≠ 3) ∨ sp.2 ≤ 16 * (sp.2 - s.tierBusy i.val tier) then .next s
    else
      let r := s.demote i.val tier sp.2 sp.2
      let c := r.1.countPages R.decDemoted r.1.dec.demoted r.2
      .next { c.1 with dec.demoted := c.2 }

/-! ## Control operations -/

/-- The packed length of POOL_DEFINE. -/
def poolParamLen (p : PoolDef) : Nat :=
  match p with
  | .t0 runs => 8 + 24 * runs.length
  | .t1 _ _ => 24
  | .t2 _ _ => 24
  | .t3 _ => 4
  | .reserved _ => 2

/-- Extents overlap. -/
def extentsMeet (a n b m : Nat) : Bool := decide (a < b + m) && decide (b < a + n)

/-- POOL_DEFINE (R415): a pool extentsMeet or duplicates no other (Table 18.9). -/
def State.poolDefine (s : State) (inst : Nat) (d : PoolDef) : CtlRes :=
  if 63 < inst then .fail s 0xE1
  else
    let p := s.pools inst
    let put := fun (p : Pools) => CtlRes.ok ({ s with dec.pools := SMap.set (fun _ => Pools.none) s.dec.pools inst p }.mirror (.other 6))
    match d with
    | .reserved _ => .fail s 0xE1
    | .t0 runs =>
      if runs.isEmpty ∨ (runs.any fun r => decide (7 < r.1) || r.2.2 == 0) then .fail s 0xE1
      else if !p.t0.isEmpty ∨ (runs.map (·.1)).eraseDups.length ≠ runs.length ∨
        (s.dec.pools.any fun e => e.2.t0.any fun x => runs.any fun r => r.1 == x.1 && extentsMeet r.2.1 (r.2.2 * 65536) x.2.1 (x.2.2 * 65536)) then
        .fail s 0xD5
      else put { p with t0 := runs }
    | .t1 b n =>
      if n = 0 ∨ b % 65536 ≠ 0 ∨ n % 65536 ≠ 0 ∨ s.sliceOk inst b n = false then .fail s 0xE1
      else if p.t1.isSome ∨ (s.dec.pools.any fun e => e.2.t1.any fun x => extentsMeet b n x.1 x.2) then .fail s 0xD5
      else put { p with t1 := some (b, n) }
    | .t2 b n =>
      if n = 0 ∨ b % 65536 ≠ 0 ∨ n % 65536 ≠ 0 ∨ covered (s.dmaWins inst) b n = false then .fail s 0xE1
      else if p.t2.isSome then .fail s 0xD5
      else put { p with t2 := some (b, n) }
    | .t3 v =>
      if (s.vol v).isNone ∨ !(s.blk.atts.any fun a => a.vol == v && !a.acc && a.index == inst && !a.ro) then .fail s 0xD7
      else if p.t3.isSome ∨ (s.dec.pools.any fun e => e.2.t3 == some v) then .fail s 0xD5
      else put { p with t3 := some v }

/-- POOL_DEFINE. -/
def execPoolDefine (i : InstId) (r : Fin 64) (h : CtlHdr) (inst : Nat) (p : PoolDef) (s : State) : Out :=
  .next (s.control i r h true (poolParamLen p) 0 4 fun s => s.poolDefine inst p)

/-- An attribute is out of range (Table 14.3). -/
def seqBad (a : SeqAttr) : Bool :=
  a.mask == 0 || decide (255 < a.mask) || decide (1 < a.home) || decide (12 < a.shift) || a.initLen == 0 || decide (2 ^ 63 < a.initLen) ||
  decide (a.maxLen ≤ a.initLen) || decide (2 ^ 64 ≤ a.maxLen) || decide (0x7F800000 ≤ a.invT) || decide (2048 < a.topk) || a.topp == 0 ||
  decide (65536 < a.topp) || decide (a.w0 < 2) || decide (4096 < a.w0) || decide (1024 < a.stream) || decide (1 < a.durable)

/-- Begin to serve a sequence: place its pages and grant pass 0 of its first step (Table 14.7). A prompt beyond every tier ends it. -/
def State.seqBegin (s : State) (n : Nat) : State :=
  match s.seq n with
  | none => s
  | some q =>
    if !s.serves q then s
    else
      let last := (q.a.initLen - 1) / 2 ^ q.a.shift
      let cap := (s.pools q.inst).slots q.a + (([2, 3, 4].map fun t => ((s.tierSpan q.inst t).getD (0, 0)).2).sum)
      if cap ≤ last then s.seqEnd n 0x0A
      else
        let r := s.allocFrom n 0 last (last + 1)
        if r.2 then r.1.seqTurn n else r.1.seqEnd n 0x0A

/-- SEQ_CREATE (R419). -/
def State.seqCreate (s : State) (inst : Nat) (a : SeqAttr) : CtlRes :=
  let p := s.pools inst
  let ms := seqMembers a
  if seqBad a then .fail s 0xE1
  else if p.t1.isNone ∨ ms.any (fun m => (p.run m).isNone) then .fail s 0xD5
  else if ms.any (fun m => (p.run m).any fun r => !s.accOk m r.1 (r.2 * 65536)) ∨
    p.t1.any (fun x => s.inFwSpan x.1 x.2) ∨
    p.t2.any (fun x => !inOne s.hdmaWins x.1 x.2) then .fail s 0xD3
  else
    let free := (List.range 65536).filter fun n => (s.seq n).isNone
    match s.pick free with
    | none => .fail s 0xD4
    | some n =>
      let q : Seq := { inst := inst, a := a, gen := 0, st := .granted, pos := a.initLen, stream := [], mapped := [], laid := false, next := 0,
                       loaded := 0, loading := [], done := [], cands := [], token := 0, need := 0, pages := [], nodes := [], half := [],
                       held := [], alloc := false, want := false, resident := s.seqRoom inst, waitFrom := s.dec.clock, used := s.dec.clock, taken := false }
      .val ((s.tick.setSeq n (some q)).mirror (.seq n (some q)) |>.seqBegin n) n

/-- SEQ_CREATE. -/
def execSeqCreate (i : InstId) (r : Fin 64) (h : CtlHdr) (a : SeqAttr) (s : State) : Out :=
  .next (s.control i r h false 73 0 4 fun s => s.seqCreate i.val a)

/-- Destroy a sequence: its pages, nodes and held completions go. -/
def State.seqDrop (s : State) (n : Nat) : State := (s.setSeq n none).mirror (.seq n none)
/-- SEQ_DESTROY: by the instance that owns the pools. -/
def State.seqDestroy (s : State) (inst seq : Nat) : CtlRes :=
  match s.seq seq with
  | none => .fail s 0xD7
  | some q => if q.inst = inst then .ok (s.seqDrop seq) else .fail s 0xD7
/-- SEQ_DESTROY. -/
def execSeqDestroy (i : InstId) (r : Fin 64) (h : CtlHdr) (seq : Nat) (s : State) : Out :=
  .next (s.control i r h false 2 0 4 fun s => s.seqDestroy i.val seq)

end Sys2Proof.Machine
end

