-- ==== Sys2Proof/Machine/Ckpt.lean ====
section
/-! DEFINITION. Resident state and checkpoint: the definition, arming, the snapshot, the harvest, the manifest and the restore (spec/15 R434 to
R460; spec/23 Table 23.2), and what divergence and fencing stop (spec/17 R494, R499). -/

namespace Sys2Proof.Machine

/-! ## Fencing and divergence (R494, R499) -/

/-- A twin record of this device (Table 17.1). -/
def State.twinRec (s : State) (kind cls seq len : Nat) : TwinRec :=
  { verMajor := 1, verMinor := 0, kind := kind, cls := cls, seq := seq, confirmed := s.twin.applied, side := s.fld R.twinSide,
    state := s.fld R.twinState, serial := s.serial, len := len, rsv := false,
    fault := s.fld R.ftState == 4 }
/-- A twin record's header as it is sent. -/
def twinBytes (r : TwinRec) : List Byte :=
  natBe 1 r.verMajor ++ natBe 1 r.verMinor ++ natBe 1 r.kind ++ natBe 1 r.cls ++ natBe 4 r.seq ++ natBe 4 r.confirmed ++ natBe 1 r.side ++
  natBe 1 r.state ++ natBe 2 0 ++ natBe 8 r.serial ++ natBe 4 r.len ++ natBe 4 0
/-- Write 64 bytes on the backup path: the firmware QP of TWIN_CFG.BK_QPN (R491). Where in the twin they land the spec does not say. -/
def State.backupSend (s : State) (r : TwinRec) : State :=
  let b : LftBody := { rsvOp := false, notify := false, wait := false, rsv := false, qpn := s.fld R.twinBkQpn, len := 64, laddr := 0,
                       raddr := s.freeWord.toNat, rkey := s.tick.freeWord.toNat, tag := 0, waitQpn := 0, waitCount := 0 }
  ((s.tick.tick.emit (.twin true r)).lftPost 64 1 b none 18 (some (twinBytes r ++ List.replicate 32 0))).lftSettle none
/-- The device enters FENCED: what it serves stops, and its schedule with it. -/
def State.fence (s : State) : State := (s.setFld R.twinState 5).stopSchedule
/-- The device sends YIELD on the backup path and enters FENCED (R491, R492). -/
def State.yield (s : State) : State := (s.backupSend (s.twinRec 5 0 0 0)).fence

/-- A held commitment of block, LFT or decode work, with the failure status of its chapter; none for another. -/
def State.failHeld (s : State) (c : Commit) : Option Commit :=
  match c.plain with
  | .ring w _ _ _ =>
    let typ := (s.ring w.inst w.ring).typ
    if typ = 1 then some (.ring w 0x12 0 0) else if typ = 2 then some (.ring w 0xF 0 0) else none
  | .acc .block p q g b => some (.acc .block p q g (b.take 2 ++ [0x12] ++ b.drop 3))
  | .acc .decode p q g b => some (.acc .decode p q g (b.take 2 ++ [0x0C] ++ b.drop 3))
  | _ => none

/-- Divergence: group faults on every resident group, block, LFT and decode work completes with the failure statuses of its chapter, and
FLAG_REPLACE is set. -/
def State.diverge (s : State) : State :=
  if s.fld R.twinState ≠ 1 ∧ s.fld R.twinState ≠ 4 then s
  else
    let s := (s.setFld R.twinState 6).setFld R.flagReplace 1
    let groups := match s.beat.running with
      | some im => (im.residency[s.beat.season % im.residency.length]?.getD []).filter (· != 0xFFFF)
      | none => []
    let s := groups.foldl (fun s g => s.groupFault g) s
    let held := s.twin.held
    let s := { s with twin.held := [] }
    let s := held.foldl (fun s h => match s.failHeld h.2 with | some c => s.doCommit c | none => s) s
    let s := { s with blk.parts := [] }
    let s := s.blk.ops.foldl (fun s o => s.opEnd o 0x12 4) s
    (s.lft.qps.map (·.1)).foldl (fun s n => s.lftError n fun _ => 0xF) s

/-! ## The definition (R434 to R437) -/

/-- CKPT_STAT.STATE is IDLE. -/
def State.ckptIdle (s : State) : Bool := s.fld R.ckptState == 0

/-- A write to RS_REGIONn_BASE or RS_REGIONn_LEN (R436). -/
def State.rsWrite (s : State) (n : Nat) (len : Bool) (v : Word) : State :=
  if s.ckptIdle ∧ s.nosched ∧ s.ckpt.defn.isNone then s.setFld (if len then R.rsLen n else R.rsBase n) (bits v.toNat 0 18)
  else s.setFld R.ckptRegErr 1
/-- RS_REGION_WRITE. -/
def execRsRegionWrite (n : Fin 4) (len : Bool) (v : Word) (s : State) : Out := .next (s.rsWrite n.val len v)

/-- A control operation of this chapter: its statuses, those that are violations recorded with the instance (Table 15.6). -/
def State.ckptCtl (s : State) (i : InstId) (r : Fin 64) (h : CtlHdr) (plen : Nat) (body : State → Work → CtlRes) : State :=
  s.controlW i r h true plen 0 4 fun t w =>
    let res := body t w
    let reason := if res.status = 2 then some 5 else if res.status = 7 then some 7 else if res.status = 0x15 then some 11 else none
    match reason with
    | some k => if res.later then res else { res with s := res.s.violInst i.val res.status k r.val (res.s.descIx i.val r.val) }
    | none => res

/-- Some two of a list agree. -/
def repeats (l : List Nat) : Bool := l.eraseDups.length != l.length
/-- A definition's fields are out of range, or R437 refuses it. -/
def State.rsBad (s : State) (d : RsDef) : Bool :=
  decide (63 < d.orchardId) || decide (511 < d.rank) || d.shards.isEmpty || decide (4096 < d.shards.length) || decide (8 < d.bindings.length) ||
  (d.shards.any fun x =>
    decide (3 < x.stack) || x.off % 65536 != 0 || x.len % 65536 != 0 || x.len == 0 || decide (x.off < s.fld (R.rsBase x.stack) * mib) ||
    decide ((s.fld (R.rsBase x.stack) + s.fld (R.rsLen x.stack)) * mib < x.off + x.len)) ||
  repeats (d.shards.map (·.id)) || repeats (d.bindings.map (·.group)) ||
  (d.bindings.any fun b => decide (1023 < b.group) || b.addr % 64 != 0 || decide (s.workTop < b.addr + 64)) ||
  d.shards.zipIdx.any fun x => d.shards.zipIdx.any fun y =>
    decide (x.2 < y.2) && x.1.stack == y.1.stack && extentsMeet x.1.off x.1.len y.1.off y.1.len
/-- A region breaks R435. -/
def State.regionBad (s : State) (k : Nat) : Bool :=
  let b := s.fld (R.rsBase k)
  let n := s.fld (R.rsLen k)
  let w := s.fld R.hbmWorkMib
  n != 0 && (decide (w < b + n) || decide (36864 - w < n) ||
    extentsMeet ((k * w + b) * mib) (n * mib) (s.fld R.hostwinBase * 2 ^ 28) (s.fld R.hostwinLen * 2 ^ 28) ||
    s.inFwSpan ((k * w + b) * mib) (n * mib))

/-- RS_DEFINE (R437). -/
def State.rsDefine (s : State) (d : RsDef) : CtlRes :=
  if !s.ckptIdle ∨ !s.nosched then .fail s 1
  else if s.rsBad d then .fail s 2
  else if (List.range 4).any s.regionBad then .fail s 4
  else .ok { s with ckpt.defn := some d }
/-- RS_DEFINE. -/
def execRsDefine (i : InstId) (r : Fin 64) (h : CtlHdr) (d : RsDef) (s : State) : Out :=
  .next (s.ckptCtl i r h (32 + 24 * d.shards.length + 24 * d.bindings.length) fun s _ => s.rsDefine d)

/-- The key of a byte of a stack's working partition. -/
def State.regionKey (_s : State) (x : Shard) (o : Nat) : Nat := stackKey x.stack (x.off + o)
/-- SHARD_LOAD (R437): a Bunch mover copies a working-partition buffer into a shard. -/
def State.shardLoad (s : State) (n id src off len : Nat) : CtlRes :=
  if !s.ckptIdle then .fail s 1
  else
    match s.ckpt.defn.bind fun d => d.shards.find? fun x => x.id == id with
    | none => .fail s 2
    | some x =>
      if len = 0 ∨ x.len < off + len ∨ !s.sliceOk n src len ∨ s.inFwSpan src len then .fail s 2
      else
        let t := (s.hbmSeen src len).eccReads 256 (s.mergeEdges 256 (.hbm (s.regionKey x off), len))
        if s.hbmBad src len ∨ s.hbm.mergeFails 64 (s.regionKey x off) len then .fail t 0x0B
        else .ok (t.hbmWrite (s.regionKey x off) (s.hbmBytes src len))
/-- SHARD_LOAD. -/
def execShardLoad (i : InstId) (r : Fin 64) (h : CtlHdr) (shard src off len : Nat) (s : State) : Out :=
  .next (s.ckptCtl i r h 32 fun s _ => s.shardLoad i.val shard src off len)

/-! ## Targets and stored lengths (R449, R450) -/

/-- HALF_BYTES of a target. -/
def targetHalf : CkptTarget → Nat
  | .volume _ h => h
  | .remote _ _ h => h
/-- Bytes of a full chunk and of a stored one. -/
def chunkBytes : Nat := 2 ^ 24
/-- Chunks of a shard. -/
def shardChunks (x : Shard) : Nat := (x.len + chunkBytes - 1) / chunkBytes
/-- The stored length of a shard. -/
def shardStored (x : Shard) : Nat := x.len + 16 * shardChunks x
/-- Round up to 4 KiB. -/
def up4k (n : Nat) : Nat := (n + 4095) / 4096 * 4096
/-- Where each shard is stored in the half. -/
def shardOffs (l : List Shard) : List Nat := (l.foldl (fun (a : List Nat × Nat) x => (a.1 ++ [a.2], a.2 + up4k (shardStored x))) ([], 0)).1
/-- The half a definition needs. -/
def halfNeed (l : List Shard) : Nat := (l.map fun x => up4k (shardStored x)).sum
/-- The target offset of a SEQ's manifest slot, and of its data half. -/
def slotOff (seq : Nat) : Nat := seq % 2 * 2 ^ 20
/-- The data half. -/
def halfOff (seq half : Nat) : Nat := 2 ^ 21 + seq % 2 * half

/-- A volume has a member under sanitise or format. -/
def State.volSanitizing (s : State) (a : VolAttr) : Bool := (volDrives a).any fun d => s.sanitizing d.1 d.2
/-- A target is absent, too small, or under sanitise (R444, R449, Table 23.2). -/
def State.targetBad (s : State) (l : List Shard) (t : CkptTarget) : Bool :=
  targetHalf t % 4096 != 0 || decide (targetHalf t < halfNeed l) ||
  match t with
  | .volume v h =>
    (match s.vol v with
     | some x => decide (volCapacity x.a * x.a.bs < 2 ^ 21 + 2 * h) || !s.served x || s.volSanitizing x.a ||
         !(s.blk.atts.any fun a => a.vol == v && !a.acc && a.index == 0 && !a.ro)
     | none => true)
  | .remote q _ _ => (match s.qp q with | some x => x.st != .ready | none => true)

/-! ## Arming and ending (R444, R459) -/

/-- A checkpoint ends with a status: the key slot is released. -/
def State.ckptEnd (s : State) (st : Nat) : State :=
  (({ s with ckpt.run := none }.setFld R.ckptState 0).setFld R.ckptLast st).sweepKeys

/-- A key slot can serve instance 0's checkpoint: it holds a GCM key of instance 0. -/
def State.ckptKey (s : State) (slot : Nat) : Bool := match s.key slot with | some k => !k.xts && k.owner == 0 | none => false
/-- The running image's place is the definition's. -/
def State.rosterOk (s : State) (d : RsDef) : Bool :=
  match s.beat.running with | some im => im.orchardId == d.orchardId && im.rank == d.rank | none => false

/-- CKPT_ARM; `found` are the SEQs of the valid manifests in the target. -/
def State.ckptArm (s : State) (seq : Nat) (t : CkptTarget) (slot : Nat) (found : List Nat) : CtlRes :=
  if !s.ckptIdle then .fail s 1
  else if s.fld R.hbmSpare = 0 then .fail s 3
  else if s.targetBad ((s.ckpt.defn.map (·.shards)).getD []) t then .fail s 5
  else if !s.ckptKey slot then .fail s 6
  else if 2 ^ 40 ≤ seq ∨ s.ckpt.armed.any (fun a => decide (seq ≤ a)) ∨ found.any (fun q => decide (seq ≤ q)) then .fail s 7
  else
    match s.ckpt.defn with
    | none => .fail s 8
    | some d =>
      if !s.rosterOk d then .fail s 8
      else
        let s := (List.range 4).foldl (fun s k =>
          ((s.setFld (R.copySrc k) (s.fld (R.rsBase k))).setFld (R.copyDst k) 0).setFld (R.copyLen k) (s.fld (R.rsLen k))) s
        let run : CkptRun := { seq := seq, target := t, keySlot := slot, started := [], snapTime := 0, season := 0, imageId := 0, nextSteps := [],
                               part := false, chunks := [], flight := [], bytes := 0, manifest := none, peer := none, told := none }
        .ok (({ s with ckpt.armed := some seq, ckpt.run := some run }.setFld R.ckptState 1).setFld R.ckptProg 0)
/-- CKPT_ARM. -/
def execCkptArm (i : InstId) (r : Fin 64) (h : CtlHdr) (seq : Nat) (target : CkptTarget) (keySlot : Nat) (found : List Nat) (s : State) : Out :=
  .next (s.ckptCtl i r h 26 fun s _ => s.ckptArm seq target keySlot found)

/-- CKPT_ABORT: refused while copies, a manifest write or a restore runs. -/
def State.ckptAbort (s : State) : CtlRes :=
  let st := s.fld R.ckptState
  if st = 1 ∨ st = 3 then .ok (s.ckptEnd 0x0E) else if st = 0 then .ok s else .fail s 1
/-- CKPT_ABORT. -/
def execCkptAbort (i : InstId) (r : Fin 64) (h : CtlHdr) (s : State) : Out := .next (s.ckptCtl i r h 0 fun s _ => s.ckptAbort)

/-! ## The snapshot (R445 to R448) -/

/-- A core's HBM fence overlaps a working-partition extent. -/
def Core.fences (c : Core) (a n : Nat) : Bool :=
  decide (c.ctl.fenceLo.toNat * mib < a + n) && decide (a < c.ctl.fenceHi.toNat * mib) && n != 0
/-- A core is at work: it is in neither RESET nor HALTED, or its mover is busy. -/
def Core.atWork (c : Core) : Bool := (c.run.state != .reset && c.run.state != .halted) || c.ports.dma.held.isSome
/-- Some core at work has a fence that overlaps an extent (R446). -/
def State.fencedWork (s : State) (a n : Nat) : Bool :=
  (List.range 256).any fun u => (s.core (coreUnit u)).fences a n && (s.core (coreUnit u)).atWork
/-- Some core at work has a fence that overlaps a stack's resident region. -/
def State.unquiet (s : State) (k : Nat) : Bool :=
  s.fencedWork ((k * s.fld R.hbmWorkMib + s.fld (R.rsBase k)) * mib) (s.fld (R.rsLen k) * mib)

/-- SNAPSHOT of a die's event: the stacks it names get START when every one of them is quiet. True when the event is a beat miss. -/
def State.snapDie (s : State) (die mask : Nat) (slotStart : Nat) : State × Bool :=
  match s.ckpt.run, s.ckpt.defn with
  | some r, some d =>
    if s.fld R.ckptState ≠ 1 ∧ !(s.fld R.ckptState = 2 ∧ r.snapTime = slotStart) then (s, false)
    else if !s.rosterOk d then (s.ckptEnd 8, false)
    else
      let named := (List.range 2).filterMap fun i => if bitAt mask i then some (2 * die + i) else none
      if named.any s.unquiet then (s.ckptEnd 9, true)
      else
        let refused := named.any fun k => (s.copyRefusal k).isSome
        let s := named.foldl (fun s k =>
          let n : Fin 4 := ⟨k % 4, by omega⟩
          let ok := (s.copyRefusal k).isNone
          let s := s.copyStart n
          if ok then
            { s with ckpt.run := s.ckpt.run.map fun (r : CkptRun) => { r with started := r.started ++ [k] } }
          else s) s
        let next := d.bindings.map fun b => (b.group, (leNat (s.hbmGet b.addr 4) + 1) % 2 ^ 32)
        ({ s with ckpt.run := s.ckpt.run.map fun (r : CkptRun) =>
            { r with snapTime := slotStart, season := s.beat.season % 2 ^ 32, imageId := s.imageId, nextSteps := next } }, refused)
  | _, _ => (s, false)

/-- The events of the SNAPSHOT slot are done: with every nonempty region started the checkpoint is COPYING; otherwise it ends with PARTIAL at
the end of the slot (R447). -/
def State.snapClose (s : State) : State :=
  match s.ckpt.run with
  | some r =>
    if s.fld R.ckptState ≠ 1 ∨ r.started.isEmpty then s
    else if (List.range 4).all fun k => s.fld (R.rsLen k) == 0 || r.started.contains k then s.setFld R.ckptState 2
    else { s with ckpt.run := some { r with part := true } }
  | none => s
/-- The slot has ended. -/
def State.snapLate (s : State) : State :=
  match s.ckpt.run with
  | some r => if r.part then s.ckptEnd 0x0A else s
  | none => s

/-! ## Harvest (R449 to R453) -/

/-- The definition's shards in manifest order. -/
def State.shards (s : State) : List Shard := (s.ckpt.defn.map (·.shards)).getD []
/-- The key of byte `o` of a shard in its stack's spare partition. -/
def State.spareKey (s : State) (x : Shard) (o : Nat) : Nat := stackKey x.stack (s.workBytes + (x.off - s.fld (R.rsBase x.stack) * mib) + o)
/-- Plaintext of a shard as the snapshot holds it. -/
def State.spareBytes (s : State) (x : Shard) (o n : Nat) : List Byte := s.hbm.bytes.bytes (s.spareKey x o) n
/-- The IV of a chunk (R450). -/
def chunkIv (id seq c : Nat) : List Byte := natLe 4 id ++ natLe 5 seq ++ natLe 3 c
/-- A chunk as it is stored: ciphertext and tag. -/
def State.sealChunk (s : State) (key : BitVec 256) (seq : Nat) (x : Shard) (c : Nat) : List Byte :=
  let iv := chunkIv x.id seq c
  let e := gcmEnc key iv (iv ++ List.replicate 4 0) (s.spareBytes x (c * chunkBytes) (min chunkBytes (x.len - c * chunkBytes)))
  e.1 ++ e.2
/-- The bytes a chunk's write carries: from the 4 KiB boundary at or below its start, which holds the end of the chunk before it, to the one
at or below its end; the last chunk's are padded with zeros. First byte in the stored shard, and bytes. -/
def State.chunkWrite (s : State) (key : BitVec 256) (seq : Nat) (x : Shard) (c : Nat) : Nat × List Byte :=
  let full := chunkBytes + 16
  let a := c * full / 4096 * 4096
  let prev := if c = 0 then [] else (s.sealChunk key seq x (c - 1)).drop (full - (c * full - a))
  let all := prev ++ s.sealChunk key seq x c
  if c + 1 = shardChunks x then (a, all ++ List.replicate (up4k all.length - all.length) 0) else (a, all.take ((c + 1) * full / 4096 * 4096 - a))

/-- Write bytes durably at an offset of the target: the number of the write. A volume that is gone or under sanitise fails it at once. -/
def State.targetWrite (s : State) (t : CkptTarget) (off : Nat) (d : List Byte) : State × Nat :=
  let id := s.blk.next + 1
  let s := { s with blk.next := id }
  match t with
  | .volume v _ =>
    (match s.vol v with
     | some x =>
       if s.volSanitizing x.a then ({ s with blk.finished := s.blk.finished ++ [(id, 0xB, [])] }, id)
       else
         let b : BlkBody := { fua := true, bufHbm := false, rsv := false, tag := 0, vol := v, abortTag := 0, lba := off / x.a.bs,
                              nlb := d.length / x.a.bs, bufLen := d.length, bufAddr := 0, action := 0, port := 0, data := some d, dmaOk := true }
         let o : BlkOp := { id := id, owner := .ckpt, op := 2, b := b, a := some x.a, started := false, subs := 0, got := [], fail := none,
                            phase := 0, why := (0, 0) }
         ({ s with blk.ops := s.blk.ops ++ [o] }.blkRun, id)
     | none => ({ s with blk.finished := s.blk.finished ++ [(id, 5, [])] }, id))
  | .remote q rkey _ =>
    let owner := match s.qp q with | some x => x.owner | none => 64
    let b : LftBody := { rsvOp := false, notify := false, wait := false, rsv := false, qpn := q, len := d.length, laddr := 0, raddr := off, rkey := rkey, tag := id,
                         waitQpn := 0, waitCount := 0 }
    (s.lftPost owner 1 b none 17 (some d), id)
/-- The status of a write that has ended. -/
def State.writeResult (s : State) (id : Nat) : Option Nat :=
  match s.blk.finished.find? fun f => f.1 == id with
  | some f => some f.2.1
  | none => (s.lft.finished.find? fun f => f.1 == 17 && f.2.1 == id).map fun f => f.2.2.1
/-- Results nobody waits for are discarded. -/
def State.dropResults (s : State) : State :=
  let want : List Nat := match s.ckpt.run with | some r => (r.flight.map fun (f : Nat × Nat × Nat × Nat) => f.2.2.2) ++ r.manifest.toList | none => []
  { s with blk.finished := s.blk.finished.filter (fun (f : Nat × Nat × List (Nat × List Byte)) => want.contains f.1),
           lft.finished := s.lft.finished.filter (fun (f : Nat × Nat × Nat × List Byte) => f.1 != 17 || want.contains f.2.1) }

/-- This device writes the target: without REPLICA, on SIDE 0, or without a twin (R452, Table 23.2). -/
def State.ckptWriter (s : State) : Bool :=
  match s.ckpt.defn with
  | some d => !d.replica || s.fld R.twinSide == 0 || s.fld R.twinState == 3
  | none => true
/-- The next chunk of a stack: shard index and chunk. -/
def State.nextChunk (s : State) (r : CkptRun) (k : Nat) : Option (Nat × Nat) :=
  (s.shards.zipIdx.flatMap fun x => if x.1.stack = k then (List.range (shardChunks x.1)).map (fun c => (x.2, c)) else []).find? fun c =>
    !r.chunks.contains c && !r.flight.any fun f => f.2.1 == c.1 && f.2.2.1 == c.2
/-- Start the next chunk of a stack; the harvest pauses in a gap of a Steward (Table 23.2). An uncorrectable spare block ends the checkpoint with
COPY_ERR. -/
def State.harvestNext (s : State) (k : Nat) : State :=
  match s.ckpt.run with
  | none => s
  | some r =>
    if s.fld R.ckptState ≠ 3 ∨ r.flight.any (fun f => f.1 == k) ∨ s.keyHeld (stackKey k 0) ∨ s.gap then s
    else
      match s.nextChunk r k with
      | none => s
      | some (j, c) =>
        match s.shards[j]? with
        | none => s
        | some x =>
          let n := min chunkBytes (x.len - c * chunkBytes)
          if s.hbm.anyBad 64 (s.spareKey x (c * chunkBytes)) n then
            (s.eccReads 256 [(.hbm (s.spareKey x (c * chunkBytes)), n)]).ckptEnd 0x0B
          else
            let s := s.eccReads 256 [(.hbm (s.spareKey x (c * chunkBytes)), n)]
            let key := match s.key r.keySlot with | some k => k.k1 | none => 0
            let w := s.chunkWrite key r.seq x c
            let p := if s.ckptWriter then s.targetWrite r.target (halfOff r.seq (targetHalf r.target) + (shardOffs s.shards)[j]?.getD 0 + w.1) w.2 else (s, 0)
            { p.1 with ckpt.run := p.1.ckpt.run.map fun (r : CkptRun) => { r with flight := r.flight ++ [(k, j, c, p.2)] } }
/-- Start a chunk on every stack that has none under way. -/
def State.harvestAll (s : State) : State := (List.range 4).foldl State.harvestNext s

/-- A started copy has ended: with ERR the checkpoint ends with COPY_ERR; once every one is done the harvest begins (R448). -/
def State.ckptCopied (s : State) : State :=
  match s.ckpt.run with
  | none => s
  | some r =>
    if s.fld R.ckptState ≠ 2 then s
    else if r.started.any fun k => s.fld (R.copyBusy k) == 0 && s.flag (R.copyErr k) then s.ckptEnd 0x0B
    else if r.started.all fun k => s.fld (R.copyBusy k) == 0 then (s.setFld R.ckptState 3).harvestAll
    else s
/-- HBM_COPY_END. -/
def execHbmCopyEnd (n : Fin 4) (uncorr : Nat) (s : State) : Out := .next (s.copyEnd n uncorr).ckptCopied.harvestAll
/-- HBM_COPY_TIMEOUT. -/
def execHbmCopyTimeout (n : Fin 4) (progress : CopyPart) (s : State) : Out := .next (s.copyTimeout n progress).ckptCopied.harvestAll

/-! ## The manifest (R454 to R456) -/

/-- The digest of each shard's plaintext. -/
def State.shardDigests (s : State) : List (List Byte) := s.shards.map fun x => sha384 (s.spareBytes x 0 x.len)
/-- Insert by a key, ascending. -/
def insertBy {α : Type} (k : α → Nat) (x : α) : List α → List α
  | [] => [x]
  | y :: ys => if k x ≤ k y then x :: y :: ys else y :: insertBy k x ys
/-- Order by a key, ascending. -/
def orderBy {α : Type} (k : α → Nat) : List α → List α
  | [] => []
  | x :: xs => insertBy k x (orderBy k xs)
/-- SHAPE_DIGEST of a definition (R456). -/
def shapeDigest (d : RsDef) : List Byte :=
  sha384 (natLe 2 d.orchardId ++ natLe 2 d.rank ++ natLe 1 (b2n d.replica) ++ List.replicate 3 0 ++ natLe 4 d.shards.length ++
    natLe 4 d.bindings.length ++
    ((orderBy (·.id) d.shards).flatMap fun x => natLe 4 x.id ++ natLe 1 x.stack ++ List.replicate 3 0 ++ natLe 8 x.off ++ natLe 8 x.len) ++
    (orderBy id (d.bindings.map (·.group))).flatMap (natLe 2))
/-- The manifest of a checkpoint, signed (Tables 15.3 and 15.4). -/
def State.manifestOf (s : State) (r : CkptRun) (d : RsDef) : List Byte :=
  let len := 128 + 96 * d.shards.length + 16 * d.bindings.length + 96
  let head := natLe 4 0x4E414D4C ++ natLe 1 1 ++ natLe 1 0 ++ natLe 2 0 ++ natLe 8 r.seq ++ natLe 8 s.serial ++ natLe 8 r.imageId ++ natLe 8 r.snapTime ++
    natLe 4 r.season ++ natLe 4 d.shards.length ++ natLe 4 d.bindings.length ++ natLe 4 len ++ natLe 1 (b2n d.replica) ++ List.replicate 7 0 ++
    shapeDigest d ++ List.replicate 16 0
  let recs := ((d.shards.zip (shardOffs d.shards)).zip s.shardDigests).flatMap fun x =>
    natLe 4 x.1.1.id ++ natLe 1 x.1.1.stack ++ List.replicate 3 0 ++ natLe 8 x.1.1.off ++ natLe 8 x.1.1.len ++ natLe 8 x.1.2 ++
    natLe 8 (shardStored x.1.1) ++ x.2 ++ List.replicate 8 0
  let groups := r.nextSteps.flatMap fun g => natLe 2 g.1 ++ natLe 2 0 ++ natLe 4 g.2 ++ natLe 8 0
  let body := head ++ recs ++ groups
  body ++ (Config.ecdsaSign 0 (sha384 body) s.fresh ++ List.replicate 96 0).take 96

/-- Sign and write the manifest: COMMITTING. -/
def State.ckptCommit (s : State) : State :=
  match s.ckpt.run, s.ckpt.defn with
  | some r, some d =>
    let m := s.manifestOf r d
    let p := s.tick.targetWrite r.target (slotOff r.seq) (m ++ List.replicate (up4k m.length - m.length) 0)
    ({ p.1 with ckpt.run := p.1.ckpt.run.map fun (r : CkptRun) => { r with manifest := some p.2 } }).setFld R.ckptState 4
  | _, _ => s

/-- Every chunk is durable: with REPLICA and a twin the digest lists are compared first; a difference is divergence (R452, Table 15.5). -/
def State.ckptHarvested (s : State) : State :=
  match s.ckpt.run, s.ckpt.defn with
  | some r, some d =>
    if s.fld R.ckptState ≠ 3 ∨ !r.flight.isEmpty ∨ (List.range 4).any (fun k => (s.nextChunk r k).isSome) ∨ s.gap then s
    else if !d.replica ∨ s.fld R.twinState = 3 then s.ckptCommit
    else
      if s.fld R.twinSide = 1 then
        match r.told with
        | none =>
          let s := s.mirror (.ckptDigests r.seq s.shardDigests)
          { s with ckpt.run := some { r with told := some s.twin.seq } }
        | some q => if s.confirmed q then s.ckptEnd 0 else s
      else match r.peer with
      | none => s
      | some p => if p = s.shardDigests then s.ckptCommit else (s.ckptEnd 0x0D).diverge
  | _, _ => s

/-- HARVEST_CHUNK_DONE: the write of a stack's chunk has ended; the stack's next chunk starts (R450, R453). -/
def execHarvestChunkDone (stack : Fin 4) (t : Nat) (s : State) : Out :=
  let s := s.advance t
  match s.ckpt.run with
  | none => .next s.dropResults
  | some r =>
    match r.flight.find? fun f => f.1 == stack.val with
    | none => .next s
    | some f =>
      match (if f.2.2.2 = 0 then some 0 else s.writeResult f.2.2.2) with
      | none => .next s
      | some st =>
        if s.fld R.ckptState ≠ 3 then .next s
        else if st ≠ 0 then .next (s.ckptEnd 0x0C).dropResults
        else
          let n := match s.shards[f.2.1]? with | some x => min chunkBytes (x.len - f.2.2.1 * chunkBytes) | none => 0
          let s := { s with ckpt.run := some { r with flight := r.flight.erase f, chunks := r.chunks ++ [(f.2.1, f.2.2.1)], bytes := r.bytes + n } }
          let s := s.setFld R.ckptProg ((r.bytes + n) / mib)
          .next (s.dropResults.harvestNext stack.val).ckptHarvested

/-- After the gap of a Steward the harvest resumes at the first chunk that is not durable, and a manifest is signed and written again
(Table 23.2). -/
def State.ckptBack (s : State) : State :=
  if s.gap then s
  else if s.fld R.ckptState = 4 then s.ckptCommit
  else s.harvestAll.ckptHarvested

/-- MANIFEST_WRITE_DONE: the manifest is durable, or the checkpoint ends with HARVEST_IO (R453). In a gap the write counts for nothing, since it
is made again. -/
def execManifestWriteDone (t : Nat) (s : State) : Out :=
  let s := s.advance t
  match s.ckpt.run with
  | none => .next s
  | some r =>
    match r.manifest.bind s.writeResult with
    | none => .next s
    | some st =>
      if s.gap then .next s else
      if st = 0 then .next ((s.setWord64 R.ckptSeq r.seq).ckptEnd 0).dropResults
      else .next (s.ckptEnd 0x0C).dropResults

/-- The twin is lost before the digests were compared: the survivor is the writer, from the first chunk (Table 23.2). -/
def State.ckptAlone (s : State) : State :=
  match s.ckpt.run, s.ckpt.defn with
  | some r, some d =>
    if s.fld R.ckptState = 3 ∧ d.replica then
      if s.fld R.twinSide = 1 then
        ({ s with ckpt.run := some { r with chunks := [], flight := [], bytes := 0 } }.setFld R.ckptProg 0).harvestAll
      else s.ckptHarvested
    else s
  | _, _ => s

/-! ## Restore (R455 to R458) -/

/-- CKPT_RESTORE is accepted while the function is IDLE and no Beat Table runs. -/
def State.ckptRestore (s : State) (w : Work) (t : CkptTarget) (slot sel : Nat) (chain : List Byte) : CtlRes :=
  if !s.ckptIdle then .fail s 1
  else if 2 < sel ∨ s.ckpt.defn.isNone then .fail s 2
  else if s.targetBad s.shards t then .fail s 5
  else if !s.ckptKey slot then .fail s 6
  else if !s.nosched then .fail s 0x14
  else if (Config.chainKey chain).isNone then .fail s 0x15
  else .wait ({ s with ckpt.restore := some { work := w, target := t, keySlot := slot, slot := sel, chain := chain } }.setFld R.ckptState 5)
/-- CKPT_RESTORE. -/
def execCkptRestore (i : InstId) (r : Fin 64) (h : CtlHdr) (target : CkptTarget) (keySlot slot : Nat) (chain : List Byte) (s : State) : Out :=
  .next (s.ckptCtl i r h (24 + chain.length) fun s w => s.ckptRestore w target keySlot slot chain)

/-- A manifest slot is valid under a signer's key (R455). -/
def manifestOk (key : List Byte) (m : List Byte) : Bool :=
  let n := le m 52 4
  le m 0 4 == 0x4E414D4C && le m 4 1 == 1 && n == 128 + 96 * le m 44 4 + 16 * le m 48 4 + 96 && decide (n ≤ 2 ^ 20) && decide (n ≤ m.length) &&
  le m 6 2 == 0 && le m 56 1 / 2 == 0 && leNat (slice m 57 7) == 0 && leNat (slice m 112 16) == 0 &&
  ((List.range (le m 44 4)).all fun i => leNat (slice m (128 + 96 * i + 5) 3) == 0 && leNat (slice m (128 + 96 * i + 88) 8) == 0) &&
  ((List.range (le m 48 4)).all fun i =>
    let o := 128 + 96 * le m 44 4 + 16 * i
    leNat (slice m (o + 2) 2) == 0 && leNat (slice m (o + 8) 8) == 0) &&
  Config.ecdsaOk key (sha384 (m.take (n - 96))) (slice m (n - 96) 96)
/-- A valid manifest's SEQ parity matches its slot (R449, R480). -/
def parityOk (m : List Byte) (slot : Nat) : Bool := le m 8 8 % 2 == slot
/-- The manifest a restore uses: the named slot, or of the valid ones the higher SEQ. -/
def manifestPick (key : List Byte) (sel : Nat) (a b : Option (List Byte)) : Option (List Byte) :=
  let ok := fun (i : Nat) (m : Option (List Byte)) => match m with | some x => if manifestOk key x && parityOk x i then some x else none | none => none
  if sel = 1 then ok 0 a else if sel = 2 then ok 1 b
  else match ok 0 a, ok 1 b with
    | some x, some y => if le x 8 8 < le y 8 8 then some y else some x
    | some x, none => some x
    | none, y => y

/-- Decrypt a stored shard chunk by chunk; none when a tag fails. -/
def openShard (key : BitVec 256) (id seq : Nat) (len : Nat) (d : List Byte) : Nat → Nat → Option (List Byte)
  | 0, _ => some []
  | k + 1, c =>
    let n := min chunkBytes (len - c * chunkBytes)
    let e := slice d (c * (chunkBytes + 16)) (n + 16)
    let iv := chunkIv id seq c
    match gcmDec key iv (iv ++ List.replicate 4 0) (e.take n) (e.drop n) with
    | none => none
    | some p => (openShard key id seq len d k (c + 1)).map (p ++ ·)
/-- Restore the shards in turn: the state and the status it ends with. -/
def State.restoreShards (s : State) (key : BitVec 256) (m : List Byte) : List (Nat × Option (List Byte)) → State × Nat
  | [] => (s, 0)
  | (i, d) :: rest =>
    let o := 128 + 96 * i
    match d with
    | none => (s, 5)
    | some d =>
      match openShard key (le m o 4) (le m 8 8) (le m (o + 16) 8) d ((le m (o + 16) 8 + chunkBytes - 1) / chunkBytes) 0 with
      | none => (s, 0x12)
      | some p =>
        let s := s.hbmWrite (stackKey (le m (o + 4) 1 % 4) (le m (o + 8) 8)) p
        if sha384 p = slice m (o + 40) 48 then State.restoreShards s key m rest else (s, 0x13)
/-- NEXT_STEP of each listed group takes effect (R457 step 4). -/
def State.restoreSteps (s : State) (m : List Byte) : State :=
  (List.range (le m 48 4)).foldl (fun s i =>
    let o := 128 + 96 * le m 44 4 + 16 * i
    let g := le m o 2
    let n := le m (o + 4) 4
    (s.commitStep g ((n + 2 ^ 32 - 1) % 2 ^ 32)).modGroup g fun r => { r with step := n, expected := Vector.replicate 8 n, redo := [] }) s

/-- RESTORE_DONE: what the two manifest slots hold, each 1 MiB or none when it cannot be read, and the stored bytes of each shard of the
chosen manifest, in its order (R457, R458). A gap of a Steward repeats the restore from its beginning (Table 23.2). -/
def execRestoreDone (a b : Option (List Byte)) (shards : List (Option (List Byte))) (t : Nat) (s : State) : Out :=
  let s := s.advance t
  if s.gap then .next s else
  match s.ckpt.restore, s.ckpt.defn with
  | some r, some d =>
    let res : State × Nat :=
      match Config.chainKey r.chain with
      | none => (s, 0x15)
      | some pk =>
        if a.isNone ∧ b.isNone then (s, 5)
        else
        let wrong := fun (i : Nat) (m : Option (List Byte)) => match m with | some x => manifestOk pk x && !parityOk x i | none => false
        let s := if wrong 0 a || wrong 1 b then s.report 0x0D 0x8000 0 else s
        match manifestPick pk r.slot a b with
          | none => (s, 0x10)
          | some m =>
            if slice m 64 48 ≠ shapeDigest d then (s, 0x11)
            else
              let key := match s.key r.keySlot with | some k => k.k1 | none => 0
              let x := s.restoreShards key m ((List.range (le m 44 4)).map fun i => (i, (shards[i]?).getD none))
              if x.2 = 0 then (x.1.restoreSteps m, 0) else x
    let u := ({ res.1 with ckpt.restore := none }.setFld R.ckptState 0).sweepKeys
    .next (u.commit 4 (.ring r.work res.2 0 0))
  | _, _ => .next s

end Sys2Proof.Machine
end

