-- ==== Sys2Proof/Machine/Complete.lean ====
section
/-! DEFINITION. The completion of core instructions: the accounting of an executed one, its end check and what follows, the end of a repetition,
and the access of a WAITING unit with the HALT_REQ that meets it (spec/03 R115, R120, R125 to R127, R662; spec/04 R139 to R153; spec/22 R580). -/

namespace Sys2Proof.Machine

/-- An operation is a pip pair. -/
def opIsPair : CoreOp → Bool
  | .pair _ _ => true
  | _ => false

/-! ## Completion -/

/-- An operation whose result the residue check covers (R170 and 02, Residue checks). -/
def opArith : CoreOp → Bool
  | .add _ => true | .sub _ => true | .mul _ => true | .mulh _ => true | .mulhu _ => true | .fmul _ => true
  | .esadd _ => true | .esaddD _ => true | .addi _ => true
  | .mac _ => true | .msu _ => true | .ext _ => true | .accadd _ => true
  | .pair p q => pipArith p || pipArith q
  | _ => false
where
  /-- A pip of ADD, SUB, ADDI or ESADD. -/
  pipArith (q : Pip) : Bool := q.op == 0x2 || q.op == 0x3 || q.op == 0x7 || q.op == 0xC

/-- The cost of a taken transfer (Table 4.5). -/
def jumpCost : CoreOp → Nat
  | .br _ => 3
  | .call _ => 3
  | _ => 4

/-- A pip is NOP. -/
def pipIsNop (q : Pip) : Bool := q.op == 0
/-- The pips of an operation that are not NOP. -/
def livePips : CoreOp → Nat
  | .pair p q => b2n (!pipIsNop p) + b2n (!pipIsNop q)
  | _ => 0

/-- The issue slots of an executed operation (Table 22.3). -/
def opSlots (op : CoreOp) : Slots :=
  if opIsPair op then { retire := livePips op, pipEmpty := 2 - livePips op, predOff := 0 } else { retire := 2, pipEmpty := 0, predOff := 0 }

/-- Charge an instruction its cost and its stalls, which the state does not fix (log entry 6). -/
def State.chargeFree (s : State) (u : UnitId) (cost : Nat) (sl : Slots) : State :=
  (s.modCore u fun c => c.charge cost (Config.stallDep s.fresh) (Config.stallMem s.fresh) sl).tick

/-- A residue check fails on the instruction's result: CHK is set and reported, and the result stands (R120). -/
def State.residueFail (s : State) (u : UnitId) : State :=
  (s.modCore u fun c => c.setFlag 2).report 0x01 (s.unitCode u) 0

/-- A unit was put in RESET by its own instruction: nothing more of the instruction happens. -/
def State.gone (s : State) (u : UnitId) : Bool := (s.core u).run.state == .reset

/-- Account for an executed operation: its residue check, its events and its cycles. -/
def State.retire (s : State) (u : UnitId) (residue : Bool) (op : CoreOp) (f : Flow) : State :=
  if s.gone u then s
  else
    let s := if residue && opArith op then s.residueFail u else s
    (s.modCore u fun c => (c.count 0x02 1).count 0x04 (livePips op)).chargeFree u (flowCost (jumpCost op) f) (opSlots op)

/-- Account for an instruction that does not execute. -/
def State.skip (s : State) (u : UnitId) : State :=
  (s.modCore u fun c => c.count 0x03 1).chargeFree u 1 { retire := 0, pipEmpty := 0, predOff := 2 }

/-- The guard of an instruction holds (R89). -/
def Core.guard (c : Core) (x : Issue) : Bool := xor (c.getP x.pred) x.neg

/-- Issue one decoded operation under its guard: executed and accounted for, skipped, faulting or waiting. -/
def State.attempt (s : State) (u : UnitId) (x : Issue) (op : CoreOp) (body : State → BodyOut) : BodyOut :=
  if (s.core u).guard x then
    match body s with
    | .ok t f => .ok (t.retire u x.residue op f) f
    | .exc k bad second => .exc k bad second
    | .wait => .wait
    | .held => .held
  else .ok (s.skip u) .seq

/-- A stepped instruction has ended (R662). -/
def State.stepEnd (s : State) (u : UnitId) : State :=
  let c := s.core u
  if c.run.stepping && c.run.state == .running then s.setCore u (c.halted .step) else s

/-- The addresses the end check of the instruction at `pc` compares (R148, R153). -/
def Core.checked (c : Core) (pc : BitVec 16) : List (BitVec 16) := if c.loops.repPend then [pc - 4, pc] else [pc]

/-- Complete the instruction at `pc`. A stepped HALT ends its STEP: it halts with the reason STEP and sends no message (R118, R662). -/
def State.finish (s : State) (u : UnitId) (pc : BitVec 16) (f : Flow) : State :=
  if s.gone u then s
  else
    let s := s.modCore u fun c => c.complete pc (c.checked pc) f
    if f = .halt ∧ (s.core u).run.stepping = false then s.haltOwn u .halt else s.stepEnd u

/-- A repetition has completed: gN counts down; at 0 the REP ends with its end check; otherwise the answer says whether the next one
follows at once. -/
def State.repNext (s : State) (u : UnitId) (r : BitVec 5) : State × Bool :=
  if s.gone u then (s, false)
  else
    let c := s.core u
    let n := c.getG r - 1
    let d := c.setG r n
    let pc := c.regs.pc
    if n = 0 then ((s.setCore u (Core.follow (d.endCheck [pc, pc + 4]) (pc + 4))).stepEnd u, false)
    else
      let t := (s.setCore u d).stepEnd u
      (t, (t.core u).run.state == .running)

/-! ## The access of a WAITING unit, and HALT_REQ -/

/-- The body of the IN or OUT a unit waits on. -/
def ioBody (u : UnitId) : CoreOp → State → BodyOut
  | .inn f => bodyIn f u
  | .out f => bodyOut f u
  | _ => fun _ => .wait

/-- The port of a waiting access, which IO_TIMEOUT reports (Table 3.11). -/
def waitPort : CoreOp → Word
  | .inn f => f.port.zeroExtend 32
  | .out f => f.port.zeroExtend 32
  | _ => 0

/-- Complete the access a WAITING unit stands on, if its port is ready, and charge the cycles it waited; the answer says whether another
repetition follows at once (R115, R127). -/
def State.ioComplete (s : State) (u : UnitId) (op : CoreOp) (cycles : Nat) : Option (State × Bool) :=
  let c := s.core u
  match ioBody u op (s.modCore u fun c => c.chargeIo cycles) with
  | .ok t f =>
    let t := (t.modCore u fun c => { c with run.state := .running, run.waitOp := none, run.waitRep := none }).retire u false op f
    some (match c.run.waitRep with
      | none => (t.finish u c.regs.pc f, false)
      | some r => t.repNext u r)
  | _ => none

/-- The cycles a unit had waited when a HALT_REQ met it, fewer than its watchdog: the state does not fix them (log entry 6). -/
def State.waited (s : State) (u : UnitId) : Nat := Config.stallIo s.fresh % 2 ^ ((s.core u).iowdExp + 10)

/-- HALT_REQ (Table 3.14): a running unit stops at the instruction boundary. A waiting access whose port is not ready is abandoned, with PC on
it; one whose port is ready completes, and the unit stops at the boundary after it (R127). Either way the cycles it waited are counted
(R580). -/
def State.haltReq (s : State) (u : UnitId) : State :=
  let c := s.core u
  match c.run.state, c.run.waitOp with
  | .running, _ => s.modCore u fun c => c.halted .request
  | .waiting, none => s.modCore u fun c => c.halted .request
  | .waiting, some op =>
    match (s.modCore u fun c => { c with run.stepping := false }).ioComplete u op (s.waited u) with
    | some (t, _) => if (t.core u).run.state = .running then (t.modCore u fun c => c.halted .request).tick else t.tick
    | none => (s.modCore u fun c => (c.chargeIo (s.waited u)).halted .request).tick
  | _, _ => s

end Sys2Proof.Machine
end

