-- ==== Sys2Proof/Machine/Health.lean ====
section
/-! DEFINITION. Health events, suspect units, margin, drain and the repair ladder, known-answer kernels, ageing, and witnessed groups (spec/16). -/

namespace Sys2Proof.Machine

/-- 24 hours in ns. -/
def dayNs : Nat := 86400000000000

/-! ## Units (Table 16.3) -/

/-- The class of a unit code. -/
def unitClass (u : Nat) : Nat := u / 4096 % 16
/-- The core code of an engine's code, and any other code as it is. -/
def coreCode (u : Nat) : Nat := if unitClass u = 1 then u % 4096 / 4 * 4 else u
/-- The die and physical Bunch of a unit inside a Bunch. -/
def unitBunch (u : Nat) : Option (Nat × Nat) := if unitClass u ≤ 2 then some (bits u 11 1, bits u 6 5) else none
/-- The logical core that sits on a physical core. -/
def State.coreAt (s : State) (code : Nat) : Option Nat := (List.range 256).find? fun u => s.unitCode (coreUnit u) == code
/-- The logical Bunch, die × 16 + Bunch, that sits on a physical Bunch. -/
def State.bunchAt (s : State) (d pb : Nat) : Option Nat :=
  (List.range 32).find? fun b => b / 16 == d && bits (s.core (coreUnit (8 * b))).ctl.id.toNat 12 5 == pb
/-- The spare core of a physical Bunch is unused: no logical core sits on it, and it has not failed. -/
def State.spareFree (s : State) (d pb : Nat) : Bool :=
  let code := d * 2048 + pb * 64 + 8 * 4
  (s.coreAt code).isNone && !s.health.failed.contains code

/-! ## The log (R462) -/

/-- Append an entry to the Health Log. -/
def State.healthLog (s : State) (e : HealthEv) : State :=
  let x : HlogE := { time := s.time.now, code := e.code, unit := e.unit, season := s.beat.season % 2 ^ 32, detail := e.detail }
  ({ s with tele.logs := s.tele.logs ++ [TeleLog.health x], health.log := (x :: s.health.log).take 1024, health.logNext := s.health.logNext + 1 }.setFld R.logHead ((s.fld R.logHead + 1) % 1024)).mirror (.health x)

/-- Events of a code on a unit within 24 h. -/
def State.recentOf (s : State) (code unit : Nat) : List (Nat × Nat × Nat × Nat) :=
  s.health.recent.filter fun e => e.1 == code && e.2.1 == unit
/-- The remap and soft-repair lists after an event (Table 16.4). -/
def State.listRows (s : State) (e : HealthEv) : State :=
  let same := ((s.recentOf e.code e.unit).filter fun x => x.2.2.1 == e.detail).length
  if (e.code = 3 ∧ 16 ≤ same) ∨ e.code = 4 then { s with health.sramRemap := addRow (e.unit, e.detail) s.health.sramRemap }
  else if (e.code = 5 ∧ 3 ≤ same) ∨ e.code = 6 then { s with health.hbmRepair := addEntry 256 (e.unit, e.detail) s.health.hbmRepair }
  else s
/-- The event makes its unit suspect (Table 16.4). -/
def State.makesSuspect (s : State) (e : HealthEv) : Bool :=
  match e.code with
  | 1 => decide (2 ≤ (s.recentOf 1 e.unit).length)
  | 2 => true
  | 4 => decide (2 ≤ ((s.recentOf 4 e.unit).map fun x => x.2.2.1).eraseDups.length)
  | 7 => true
  | 8 => true
  | 9 => true
  | _ => false

/-- The margin level of the Bunch of a unit; none outside a Bunch. -/
def State.levelOf (s : State) (u : Nat) : Option Nat := (unitBunch u).map fun b => s.fld (R.marginLevel b.1 b.2)
/-- The unit is failed (R465): `before` are the times it became suspect earlier. -/
def State.hasFailed (s : State) (u : Nat) (before : List Nat) : Bool :=
  let c := unitClass u
  if c = 4 ∨ c = 5 then true
  else if c = 3 ∨ c = 7 then before.any fun t => decide (s.time.now < t + dayNs)
  else (s.levelOf u == some 5 && !before.isEmpty) || (c == 0 && decide (2 ≤ (s.recentOf 2 u).length))

/-! ## Margin, drain and the ladder (R473 to R477) -/

/-- Step 3 of the ladder: DEGRADED and FLAG_REPLACE; the twin, where there is one, carries the node. -/
def State.ladder3 (s : State) : State :=
  let s := (((s.setFld R.degraded 1).setFld R.flagReplace 1).report 0x0C 0x8000 0).wantRecord
  if s.fld R.twinState = 1 then s.yield else s
/-- Step 2: the logical Bunch moves to the die's spare Bunch at the next season boundary. -/
def State.ladder2 (s : State) (d pb : Nat) : State :=
  if bitAt (s.fld R.spareBunchUsed) d ∨ (s.health.repairs.any fun r => match r with | .bunch b => b / 16 == d | _ => false) then s.ladder3
  else match s.bunchAt d pb with
    | some b => { s with health.repairs := s.health.repairs ++ [.bunch b] }
    | none => s
/-- A cipher-only port is enabled on a die (R548). -/
def State.cipherPort (s : State) (d : Nat) : Bool :=
  (List.range 32).any fun p => p / 16 == d && bitAt (s.fld R.rindCipher) p && s.flag (R.portEn p)
/-- The repair ladder for a failed unit (Table 16.6). -/
def State.ladder (s : State) (u : Nat) : State :=
  match unitClass u with
  | 0 | 1 =>
    let code := coreCode u
    let d := bits u 11 1
    let pb := bits u 6 5
    (match s.coreAt code with
     | none => s
     | some n =>
       if s.spareFree d pb && !(s.health.repairs.any fun r => match r with | .core m => m / 8 == n / 8 | _ => false) then
         { s with health.repairs := s.health.repairs ++ [.core n] }
       else s.ladder2 d pb)
  | 2 => s.ladder2 (bits u 11 1) (bits u 6 5)
  | 4 => if s.cipherPort (u % 8 / 4) then s.ladder3 else s
  | 5 =>
    let used := (s.health.lanes.filter fun l => bits l 11 1 == bits u 11 1).length +
      (s.health.repairs.filter fun r => match r with | .lane l => bits l 11 1 == bits u 11 1 | _ => false).length
    if used < 4 then { s with health.repairs := s.health.repairs ++ [.lane u] } else s.ladder3
  | _ => s.ladder3
/-- A failed unit is recorded and repaired. -/
def State.failUnit (s : State) (u : Nat) : State :=
  let c := coreCode u
  if s.health.failed.contains c then s else ({ s with health.failed := s.health.failed ++ [c] }.wantRecord).ladder u

/-- Job size of the running image. -/
def State.jobSize (s : State) : Option Nat := s.beat.running.map fun im => im.size * im.sysOrchards
/-- Drain is chosen (R473): never while the device is SOLO. -/
def State.chooseDrain (s : State) (u : Nat) : Bool :=
  let lim := if s.fld R.drainLimit = 0 then 256 else s.fld R.drainLimit
  let solo := s.fld R.twinState == 2 || s.fld R.twinState == 3 || s.fld R.twinState == 4
  !solo && (s.fld R.marginEn == 0 || unitClass u == 8 || (match s.jobSize with | some n => decide (n < lim) | none => true))
/-- Drain (R474): the node is handed to the twin, and the unit is recorded as failed. -/
def State.drain (s : State) (u : Nat) : State :=
  let s := if s.fld R.twinState = 5 ∨ s.fld R.twinState = 6 then s else s.yield
  let s := ((s.setFld R.drained 1).setFld R.flagReplace 1).wantRecord
  if unitClass u = 8 ∨ s.health.failed.contains (coreCode u) then s else { s with health.failed := s.health.failed ++ [coreCode u] }
/-- Raise the margin of the Bunch of a unit at the next season boundary; a unit outside a Bunch has none (R475). -/
def State.raiseMargin (s : State) (u : Nat) : State :=
  match unitBunch u with
  | some b => if s.fld (R.marginLevel b.1 b.2) < 5 then s.setFld (R.marginPending b.1 b.2) 1 else s
  | none => s

/-- A unit becomes suspect: drain, or the ladder when it has failed, or margin. -/
def State.suspect (s : State) (u : Nat) : State :=
  let before := (s.health.suspects.filter fun x => x.1 == u).map (·.2)
  let s := { s with health.suspects := s.health.suspects ++ [(u, s.time.now)] }
  if s.chooseDrain u then s.drain u
  else if unitClass u = 8 then s
  else if s.hasFailed u before then s.failUnit u
  else s.raiseMargin u

/-- Lifetime counts of the ageing section (Table 16.7): residue events by core and octet, KAT failures by core. -/
def State.ageCounts (s : State) (e : HealthEv) : State :=
  let c := coreCode e.unit
  if e.code = 1 then
    { s with health.residueEvents := SMap.set (fun _ => 0) s.health.residueEvents c (min 65535 (SMap.get (fun _ => 0) s.health.residueEvents c + 1)) }
  else if e.code = 2 then
    { s with health.katFails := SMap.set (fun _ => 0) s.health.katFails c (min 255 (SMap.get (fun _ => 0) s.health.katFails c + 1)) }
  else s

/-- HEALTH_EVENT, of Steward 5, for which it waits in a gap (R594), as do the other commands of that Steward below: the oldest event reported is logged and acted on; a report with code 0 is a notice and no health event, and names a Steward that has stopped where it makes
one suspect (R555). -/
def execHealthEvent (t : Nat) (s : State) : Out :=
  let s := s.advance t
  if s.stewardOff 5 then .next s else
  match s.reports with
  | [] => .next s
  | e :: rest =>
    let s := { s with reports := rest }
    if e.code = 0 then .next (if unitClass e.unit = 7 then s.suspect e.unit else s)
    else
      let fresh := s.health.recent.filter fun x => decide (s.time.now < x.2.2.2 + dayNs)
      let s := ({ s with health.recent := fresh ++ [(e.code, e.unit, e.detail, s.time.now)] }.healthLog e).ageCounts e
      let s := s.listRows e
      let s := if e.code = 0x0A ∨ e.code = 0x0B ∨ e.code = 0x0C then s.wantRecord else s
      .next (if s.makesSuspect e then s.suspect e.unit else s)

/-- AGEING_REWRITE: 24 h of powered time have passed; the ageing section is rewritten (R479). -/
def execAgeingRewrite (t : Nat) (s : State) : Out :=
  let s := s.advance t
  if s.stewardOff 5 then .next s else
  .next ({ s with health.poweredHours := min (2 ^ 32 - 1) (s.health.poweredHours + 24) }.wantRecord)

/-! ## Known-answer kernels (R466, R467) -/

/-- The trailer of the kernel of a KAT run: OUT_OFF, OUT_LEN, BUDGET_CYCLES and EXPECT, as they stand in core-local SRAM. -/
def State.katTrailer (s : State) (u : UnitId) (ki : Nat) : Nat × Nat × Nat × List Byte :=
  let o := match s.beat.running with
    | some im => (match im.kernels[ki]? with | some k => k.dataLen - 64 | none => 0)
    | none => 0
  let m := (s.lmem[u.val]'u.isLt).bytes.bytes o 64
  (le m 0 4, le m 4 4, le m 8 4, slice m 16 48)

/-- KAT_BUDGET_EXPIRY: the Steward forces the core to halt. -/
def execKatBudgetExpiry (core : Fin 256) (s : State) : Out :=
  .next (if s.stewardOff 5 = false ∧ (s.beat.katRuns.any fun k => k.1 == core.val) then s.haltReq (coreUnit core.val) else s)

/-- KAT_JUDGE: a halted run passes when it ended with HALT within its budget and its output digests as expected; otherwise KAT_FAIL is
raised. A pass is recorded only under margin. -/
def execKatJudge (core : Fin 256) (t : Nat) (s : State) : Out :=
  let s := s.advance t
  if s.stewardOff 5 then .next s else
  let u := coreUnit core.val
  match s.beat.katRuns.find? fun k => k.1 == core.val with
  | none => .next s
  | some k =>
    let c := s.core u
    if c.run.state ≠ .halted then .next s
    else
      let tr := s.katTrailer u k.2
      let out := (s.lmem[u.val]'u.isLt).bytes.bytes tr.1 tr.2.1
      let pass := c.run.reason == .halt && decide (c.cnt.cyc.toNat ≤ tr.2.2.1) && sha384 out == tr.2.2.2
      let s := { s with beat.katRuns := s.beat.katRuns.erase k }
      if pass then
        let s := s.incFld R.katPass
        .next (if (s.levelOf (s.unitCode u)).getD 0 ≠ 0 then s.report 0x0E (s.unitCode u) 0 else s)
      else .next ((s.incFld R.katFail).report 0x02 (s.unitCode u) 0)

/-! ## Witnessed groups (R468 to R472) -/

/-- A witnessed group's definition. -/
def State.wit (s : State) (w : Nat) : Option WitDef := s.health.witDefs[w % 8]'(Nat.mod_lt _ (by decide))
/-- A pending compare. -/
def State.witRun (s : State) (w : Nat) : Option WitRun := s.health.witRuns[w % 8]'(Nat.mod_lt _ (by decide))
/-- Replace a pending compare. -/
def State.setWitRun (s : State) (w : Nat) (r : Option WitRun) : State :=
  { s with health.witRuns := s.health.witRuns.set (w % 8) r (Nat.mod_lt _ (by decide)) }
/-- The witnessed shards, by ascending SHARD_ID. -/
def State.witShards (s : State) (d : WitDef) : List Shard := orderBy (·.id) (s.shards.filter fun x => d.shards.contains x.id)
/-- The working-partition address of a shard. -/
def State.shardAddr (s : State) (x : Shard) : Nat := x.stack * s.workBytes + x.off

/-- WIT_DEFINE (R468). -/
def State.witDefine (s : State) (d : WitDef) : CtlRes :=
  if !s.nosched then .fail s 1
  else if 7 < d.w ∨ d.shards.isEmpty ∨ 4096 < d.shards.length ∨ d.replicas < 2 ∨ 16 < d.replicas ∨ d.replicas ≤ d.replica ∨
    d.peers.length + 1 ≠ d.replicas ∨ 8 < d.groups.length ∨ d.groups.any (fun g => decide (1023 < g)) ∨ d.deadlineUs < 100 ∨
    10000000 < d.deadlineUs ∨ d.shards.any (fun i => !s.shards.any fun x => x.id == i) ∨
    d.peers.any (fun p => decide (511 < p.rank) || decide (63 < p.orchard) ||
      match s.qp p.qpn with | some q => q.owner != 64 || q.st != .ready | none => true) then .fail s 2
  else .ok ({ s with health.witDefs := s.health.witDefs.set (d.w % 8) (some d) (Nat.mod_lt _ (by decide)) }.setWitRun d.w none)
/-- WIT_DEFINE. -/
def execWitDefine (i : InstId) (r : Fin 64) (h : CtlHdr) (d : WitDef) (s : State) : Out :=
  .next (s.ckptCtl i r h (28 + 8 * (d.shards.length + d.peers.length + d.groups.length)) fun s _ => s.witDefine d)

/-- A WITNESS event: the compare point is skipped while a fenced core is at work or a checkpoint moves data; otherwise the digest begins
(R469). -/
def State.witStart (s : State) (w slotStart : Nat) : State :=
  match s.wit w with
  | none => s
  | some d =>
    let st := s.fld R.ckptState
    if st = 2 ∨ st = 3 ∨ st = 4 ∨ (s.witShards d).any (fun x => s.fencedWork (s.shardAddr x) x.len) then s.incFld (R.witSkipped w)
    else s.setWitRun w (some { season := s.beat.season % 2 ^ 32, start := slotStart, busy := true, digests := [] })
/-- A witnessed digest that is being computed covers a core's fence, so its KERNEL event is a beat miss. -/
def State.witHolds (s : State) (u : UnitId) : Bool :=
  (List.range 8).any fun w => match s.witRun w, s.wit w with
    | some r, some d => r.busy && (s.witShards d).any fun x => (s.core u).fences (s.shardAddr x) x.len
    | _, _ => false
/-- The digest of a witnessed group for a season. -/
def State.witDigest (s : State) (d : WitDef) (season : Nat) : List Byte :=
  sha384 (natLe 1 d.w ++ List.replicate 3 0 ++ natLe 4 season ++ List.replicate 8 0 ++
    (s.witShards d).flatMap fun x => s.hbmGet (s.shardAddr x) x.len)

/-- WITNESS_DIGEST_DONE: the digest is complete, and a record goes to each peer replica (R470). Where in the peer it lands the spec does not
say. -/
def execWitnessDigestDone (w : Fin 8) (t : Nat) (s : State) : Out :=
  let s := s.advance t
  if s.stewardOff 5 then .next s else
  match s.witRun w.val, s.wit w.val with
  | some r, some d =>
    if !r.busy ∨ (s.witShards d).any (fun x => s.keyHeld (stackKey x.stack 0)) then .next s
    else
      let g := s.witDigest d r.season
      let s := ((s.witShards d).foldl (fun s x => s.hbmSeen (s.shardAddr x) x.len) s).tick
      let s := s.setWitRun w.val (some { r with busy := false, digests := r.digests ++ [(d.replica, g)] })
      let rec_ := natLe 1 1 ++ natLe 1 0 ++ natLe 1 d.w ++ natLe 1 d.replica ++ natLe 4 r.season ++ natLe 2 s.rank ++ natLe 1 s.orchardId ++ [0] ++ g ++
        List.replicate 4 0
      let s := d.peers.foldl (fun s p =>
        let b : LftBody := { rsvOp := false, notify := false, wait := false, rsv := false, qpn := p.qpn, len := 64, laddr := 0, raddr := s.freeWord.toNat,
                             rkey := s.tick.freeWord.toNat, tag := d.w, waitQpn := 0, waitCount := 0 }
        s.tick.tick.lftPost 64 1 b none 19 (some rec_)) s
      .next (s.lftSettle none)
  | _, _ => .next s

/-- WITNESS_RECORD_RECEIVE (R470). -/
def execWitnessRecordReceive (x : WitRec) (t : Nat) (s : State) : Out :=
  let s := s.advance t
  if s.stewardOff 5 then .next s else
  let bad := fun (reason : Nat) => Host.Outcome.next (s.violate 2 x.rank 12 0xFF reason x.w x.season)
  if x.verMajor ≠ 1 then bad 3
  else if x.rsv then bad 2
  else if 7 < x.w then bad 6
  else match s.witRun x.w, s.wit x.w with
    | some r, some d =>
      if r.season ≠ x.season ∨ d.replicas ≤ x.replica ∨ x.replica = d.replica ∨ (r.digests.any fun g => g.1 == x.replica) then bad 6
      else .next (s.setWitRun x.w (some { r with digests := r.digests ++ [(x.replica, x.digest)] }))
    | _, _ => bad 6

/-- The value more than half of the replicas hold. -/
def majority (n : Nat) (l : List (Nat × List Byte)) : Option (List Byte) :=
  (l.find? fun g => decide (n < 2 * (l.filter fun h => h.2 == g.2).length)).map (·.2)
/-- WITNESS_DEADLINE: the digests held are compared (R471, R472). -/
def execWitnessDeadline (w : Fin 8) (t : Nat) (s : State) : Out :=
  let s := s.advance t
  if s.stewardOff 5 then .next s else
  match s.witRun w.val, s.wit w.val with
  | some r, some d =>
    if s.time.now < r.start + d.deadlineUs * 1000 then .next s
    else
      let s := s.setWitRun w.val none
      let fault := fun (s : State) => d.groups.foldl (fun s g => s.groupFault g) s
      if r.busy then .next (s.setFld (R.witOutcome w.val) 2)
      else
        let differ := match r.digests with | [] => false | g :: gs => gs.any fun h => h.2 != g.2
        if !differ then
          if r.digests.length = d.replicas then .next ((s.setFld (R.witOutcome w.val) 1).setFld (R.witPass w.val) r.season)
          else .next (s.setFld (R.witOutcome w.val) 2)
        else match majority d.replicas r.digests with
          | some g =>
            let own := r.digests.any fun h => h.1 == d.replica && h.2 != g
            let s := (s.setFld (R.witOutcome w.val) 3)
            let s := if own then (s.setFld (R.witSelf w.val) 1).report 0x09 0x8000 w.val else s
            .next (fault s)
          | none => .next (fault (s.setFld (R.witOutcome w.val) 4))
  | _, _ => .next s

end Sys2Proof.Machine
end

