-- ==== Sys2Proof/Machine/Net.lean ====
section
/-! DEFINITION. The network ports: link state, modes, parsing, the SecY on receive, classification, reordering, delivery and the slow path;
transmit and receive rings (spec/10; spec/12 R380, R381; spec/18 R518). -/

namespace Sys2Proof.Machine

/-! ## Ports (R332 to R336, R359) -/

/-- Count in a CNT field of a port, in the order of Table 10.6. -/
def State.portCount (s : State) (p i : Nat) : State := s.incFld (R.portCnt p i)

/-- A port auto-negotiates: CR or KR with AN_EN set (R335). -/
def State.portAn (s : State) (p : Nat) : Bool := s.flag (R.portAnEn p) && decide (s.fld (R.portPmd p) < 2)

/-- PORT_LINK_UP: FEC is aligned and no fault stands. A port that auto-negotiates must have completed; PMD 3 leaves a port down. Its paths
are active again (R328). -/
def execPortLinkUp (port : Fin 32) (s : State) : Out :=
  let p := port.val
  if s.isPort p ∧ s.flag (R.portEn p) ∧ s.fld (R.portPmd p) ≠ 3 ∧ (s.portAn p → s.flag (R.portStat p 1)) then
    .next ((((s.setFld (R.portStat p 3) 1).setFld (R.portStat p 4) 0).setFld (R.portStat p 5) 0).setFld (R.portLinkUp p) 1 |>.lftSettle none)
  else .next s

/-- The one technology ability that the mode and PMD of a port select (R335). -/
def State.ability (s : State) (p : Nat) : Ability := { mode := s.fld (R.octMode (p / 8)), pmd := s.fld (R.portPmd p) }
/-- Auto-negotiation begins on a port that is enabled and negotiates: it advertises its ability. -/
def State.anStart (s : State) (p : Nat) : State :=
  if s.isPort p ∧ s.flag (R.portEn p) ∧ s.portAn p then s.emit (.anAdvert p (s.ability p)) else s

/-- A port goes down: auto-negotiation or alignment starts anew. -/
def State.portDown (s : State) (p : Nat) : State :=
  (((s.setFld (R.portLinkUp p) 0).setFld (R.portStat p 1) 0).setFld (R.portStat p 3) 0).anStart p

/-- PORT_LINK_DOWN: a fault, a high error rate, or loss of alignment. -/
def execPortLinkDown (port : Fin 32) (remoteFault hiSer : Bool) (s : State) : Out :=
  let p := port.val
  if s.isPort p then
    let s := s.portDown p
    .next ((s.setFld (R.portStat p 4) (b2n hiSer)).setFld (R.portStat p 5) (b2n remoteFault))
  else .next s

/-- AN_COMPLETE: the partner offers the advertised ability, or the port stays down with AN_FAIL. -/
def execAnComplete (port : Fin 32) (offered : List Ability) (s : State) : Out :=
  let p := port.val
  let offered := offered.contains (s.ability p)
  if s.isPort p ∧ s.flag (R.portEn p) ∧ s.portAn p then
    .next ((s.setFld (R.portStat p 1) (b2n offered)).setFld (R.portStat p 2) (b2n !offered))
  else .next s

/-- A write of MODE (R333). -/
def State.octMode (s : State) (k mode : Nat) : State :=
  if mode = s.fld (R.octMode k) then s
  else if (List.range 8).any fun i => s.flag (R.portEn (8 * k + i)) then s.setFld (R.octModeErr k) 1
  else (List.range 8).foldl (fun s i => s.reloadPort (8 * k + i) (s.time.now * u16)) (s.setFld (R.octMode k) mode)
/-- OCTET_MODE_WRITE. -/
def execOctetModeWrite (k mode : Fin 4) (s : State) : Out := .next (s.octMode k.val mode.val)

/-- Setting EN of a port: its buckets are reloaded, and auto-negotiation begins. -/
def State.portEnable (s : State) (p : Nat) : State :=
  if s.isPort p ∧ s.fld (R.portEn p) = 0 then ((s.setFld (R.portEn p) 1).reloadPort p (s.time.now * u16)).anStart p else s
/-- Clearing EN of a port takes it down. -/
def State.portDisable (s : State) (p : Nat) : State :=
  if s.flag (R.portEn p) then (s.setFld (R.portEn p) 0).portDown p else s
/-- PORT_ENABLE. -/
def execPortEnable (port : Fin 32) (t : Nat) (s : State) : Out := .next ((s.advance t).portEnable port.val)

/-! ## Parsing (R339, R340) -/

/-- What the parser finds: CLASS, the fields of Table 10.3, and the starts of the headers it recognised. -/
structure Parsed where
  cls : Nat
  vid : Nat
  pcp : Nat
  ety : Nat
  ip : Option Nat
  udp : Option Nat
  pay : Option Nat
  src : Nat
  dst : Nat
  proto : Nat
  tc : Nat
  sport : Nat
  dport : Nat
  qpn : Nat
  lop : Nat
  csumOk : Bool
  /-- Where the recognised headers end. -/
  endAt : Nat
  deriving DecidableEq, Repr

/-- Nothing recognised. -/
def Parsed.none : Parsed :=
  { cls := 0, vid := 0, pcp := 0, ety := 0, ip := .none, udp := .none, pay := .none, src := 0, dst := 0, proto := 0, tc := 0, sport := 0,
    dport := 0, qpn := 0, lop := 0, csumOk := true, endAt := 14 }
/-- Set a class bit. -/
def Parsed.set (p : Parsed) (i : Nat) : Parsed := { p with cls := p.cls ||| 2 ^ i }
/-- A class bit. -/
def Parsed.has (p : Parsed) (i : Nat) : Bool := bitAt p.cls i

/-- A big-endian field of a frame. -/
def beAt (d : List Byte) (o n : Nat) : Nat := beNat (slice d o n)
/-- VLAN tags from offset 12: the frame's tags, EtherType and where it ends. -/
def parseTags (d : List Byte) (p : Parsed) (off tags : Nat) : Nat → Parsed
  | 0 => p
  | k + 1 =>
    let et := beAt d off 2
    if et = 0x8100 ∨ et = 0x88A8 then
      if 2 ≤ tags ∨ d.length < off + 6 then { p with ety := et, endAt := off + 2 }.set 14
      else
        let tci := beAt d (off + 2) 2
        let p := if tags = 0 then { p with vid := tci % 4096, pcp := tci / 8192 }.set 0 else p.set 1
        parseTags d p (off + 4) (tags + 1) k
    else { p with ety := et, endAt := off + 2 }

/-- UDP, ICMPv6 and other payloads of an IP header (R339). A fragment past the first has its class by the protocol, and no further header. -/
def parseL4 (d : List Byte) (p : Parsed) (l4 : Nat) (v6 later : Bool) : Parsed :=
  if p.proto = 17 then
    if later then p.set 6
    else if d.length < l4 + 8 then p.set 14
    else
      let p := { p with udp := some l4, pay := some (l4 + 8), sport := beAt d l4 2, dport := beAt d (l4 + 2) 2, endAt := l4 + 8 }.set 6
      if p.dport = 19532 then
        if d.length < l4 + 56 then (p.set 7).set 14
        else { p with lop := beAt d (l4 + 10) 1, qpn := beAt d (l4 + 12) 2, endAt := l4 + 56 }.set 7
      else if p.dport = 19533 then { p with endAt := l4 + 40 }.set 8
      else p
  else if p.proto = 58 then (if v6 then p.set 11 else p)
  else p.set 15

/-- IPv6 extension headers: next header, where the last one ends, whether a fragment past the first is seen, and oddity. -/
def parseExt (d : List Byte) (p : Parsed) (nh l4 exts : Nat) (later : Bool) : Nat → Parsed × Nat × Bool × Bool
  | 0 => (p, l4, later, true)
  | k + 1 =>
    if nh = 0 ∨ nh = 43 ∨ nh = 44 ∨ nh = 60 then
      if nh = 43 ∨ 2 ≤ exts ∨ d.length < l4 + 8 then ({ p with proto := nh }, l4, later, true)
      else
        let p := p.set 5
        let p := if nh = 44 then p.set 13 else p
        let later := later || (nh == 44 && decide (8 ≤ beAt d (l4 + 2) 2))
        let len := if nh = 44 then 8 else (beAt d (l4 + 1) 1 + 1) * 8
        parseExt d p (beAt d l4 1) (l4 + len) (exts + 1) later k
    else ({ p with proto := nh }, l4, later, false)

/-- The IPv4 header. -/
def parseV4 (d : List Byte) (p : Parsed) (o : Nat) : Parsed :=
  let p := p.set 3
  let ihl := (beAt d o 1 % 16) * 4
  if d.length < o + 20 ∨ ihl < 20 ∨ d.length < o + ihl then p.set 14
  else
    let fr := beAt d (o + 6) 2
    let p := { p with ip := some o, tc := beAt d (o + 1) 1, proto := beAt d (o + 9) 1, src := 0xFFFF * 2 ^ 32 + beAt d (o + 12) 4,
                      dst := 0xFFFF * 2 ^ 32 + beAt d (o + 16) 4, csumOk := csum16 (slice d o ihl) == 0xFFFF, endAt := o + ihl }
    let p := if 20 < ihl then p.set 14 else p
    let p := if d.length < o + beAt d (o + 2) 2 then p.set 14 else p
    let p := if fr / 8192 % 2 = 1 ∨ fr % 8192 ≠ 0 then p.set 13 else p
    parseL4 d p (o + ihl) false (fr % 8192 != 0)

/-- The IPv6 header and its extensions. -/
def parseV6 (d : List Byte) (p : Parsed) (o : Nat) : Parsed :=
  let p := p.set 4
  if d.length < o + 40 then p.set 14
  else
    let p := { p with ip := some o, tc := beAt d o 4 / 2 ^ 20 % 256, src := beAt d (o + 8) 16, dst := beAt d (o + 24) 16 }
    let p := if d.length < o + 40 + beAt d (o + 4) 2 then p.set 14 else p
    let r := parseExt d p (beAt d (o + 6) 1) (o + 40) 0 false 4
    let p := { r.1 with endAt := r.2.1 }
    if r.2.2.2 then p.set 14 else parseL4 d p r.2.1 true r.2.2.1

/-- Parse a frame. `secured`: the SecY validated it. A SecTAG in any other frame stands on a port without an enabled SecY. -/
def parseFrame (d : List Byte) (secured : Bool) : Parsed :=
  if d.length < 14 then Parsed.none.set 14
  else
    let p := parseTags d (if secured then Parsed.none.set 2 else .none) 12 0 3
    let p :=
      if p.has 14 ∨ p.ety < 0x600 then p
      else if p.ety = 0x88E5 ∧ secured = false then p.set 14
      else match p.ety with
        | 0x0800 => parseV4 d p p.endAt
        | 0x86DD => parseV6 d p p.endAt
        | 0x88B6 => { p with endAt := p.endAt + 32 }.set 8
        | 0x88F7 => p.set 9
        | 0x88B5 => p.set 10
        | 0x0806 => p.set 12
        | _ => p
    if 256 < p.endAt then p.set 14 else p

/-! ## Match tables and patterns (R346 to R352) -/

/-- A word of an entry image. -/
def imgWord (w : List Word) (i : Nat) : Nat := (w[i]?.getD 0).toNat
/-- A key or mask of twelve words from word `i`. -/
def imgKey (w : List Word) (i : Nat) : Nat := ((List.range 12).map fun j => imgWord w (i + j) * 2 ^ (32 * j)).sum
/-- An entry image at rest. -/
def clsZero (_ : Nat) : List Word := List.replicate 32 0
/-- Entries of a table (Table 10.3; 64 patterns). -/
def clsSize (t : Nat) : Nat := match t with | 0 => 64 | 1 => 1024 | 2 => 8192 | _ => 4096
/-- Key bits of a table. -/
def clsBits (t : Nat) : Nat := match t with | 1 => 181 | 2 => 360 | _ => 118
/-- The entries of a table that are not at rest, by index. -/
def clsEntries (m : SMap (List Word)) (t : Nat) : List (Nat × List Word) :=
  (m.filter fun e => e.1 / 8192 == t).map fun e => (e.1 % 8192, e.2)
/-- An entry takes part. -/
def clsValid (t : Nat) (w : List Word) : Bool := if t = 0 then bitAt (imgWord w 8) 3 else bitAt (imgWord w 28) 0

/-- A valid entry that COMMIT refuses (R347, R351, R352). -/
def clsBad (t : Nat) (w : List Word) : Bool :=
  let x := imgWord w
  if t = 0 then
    let len := bits (x 8) 4 5
    len == 0 || decide (16 < len) || (x 8 &&& 0xFE00FE00) != 0 || decide (512 ≤ x 9) || (w.drop 10).any (fun v => v != 0) ||
    (bitAt (x 8) 2 && decide (x 9 < bits (x 8) 16 9))
  else
    let act := x 24 % 8
    let dt := x 25 / 2 ^ 28
    decide (2 ^ clsBits t ≤ imgKey w 0) || decide (2 ^ clsBits t ≤ imgKey w 12) || decide (4 < act) || decide (16 ≤ x 24) || decide (4 < dt) ||
    (x 25 &&& 0x0FC0F8C0) != 0 || decide (1 < x 28) || (w.drop 29).any (fun v => v != 0) || (act == 4 && decide (dt < 2)) || (act == 2 && dt == 0)

/-- A pattern hits a frame (R352). -/
def patHit (d : List Byte) (p : Parsed) (w : List Word) : Bool :=
  let x := imgWord w
  let b := (slice w 0 4).flatMap fun v => natLe 4 v.toNat
  let m := (slice w 4 4).flatMap fun v => natLe 4 v.toNat
  let base := match x 8 % 4 with | 0 => some 0 | 1 => p.ip | 2 => p.udp | _ => p.pay
  let len := bits (x 8) 4 5
  let lo := bits (x 8) 16 9
  let hi := if bitAt (x 8) 2 then x 9 % 512 else lo
  let lim := min d.length 512
  match base with
  | none => false
  | some o =>
    (List.range (hi + 1 - lo)).any fun i =>
      let st := o + lo + i
      decide (st + len ≤ lim) && (List.range len).all fun j =>
        ((d[st + j]?.getD 0) ^^^ (b[j]?.getD 0)) &&& (m[j]?.getD 0) == 0
/-- PAT_HIT. -/
def State.patHits (s : State) (d : List Byte) (p : Parsed) : Nat :=
  ((clsEntries s.cls.active 0).map fun e => if clsValid 0 e.2 && patHit d p e.2 then 2 ^ e.1 else 0).sum

/-- The key of a table (Table 10.3). -/
def State.clsKey (s : State) (t port mw : Nat) (d : List Byte) (p : Parsed) : Nat :=
  match t with
  | 1 => mw + port * 2 ^ 32 + p.cls * 2 ^ 38 + p.vid * 2 ^ 54 + p.pcp * 2 ^ 66 + p.ety * 2 ^ 69 + beAt d 0 6 * 2 ^ 85 + beAt d 6 6 * 2 ^ 133
  | 2 => mw + p.src * 2 ^ 32 + p.dst * 2 ^ 160 + p.proto * 2 ^ 288 + p.tc * 2 ^ 296 + p.sport * 2 ^ 304 + p.dport * 2 ^ 320 +
         p.qpn * 2 ^ 336 + p.lop * 2 ^ 352
  | _ => mw + s.patHits d p * 2 ^ 32 + port * 2 ^ 96 + p.dport * 2 ^ 102

/-- The entry that wins a lookup. -/
def State.clsLookup (s : State) (t key : Nat) : Option (Nat × List Word) :=
  (clsEntries s.cls.active t).find? fun e => clsValid t e.2 && ((key ^^^ imgKey e.2 0) &&& imgKey e.2 12) == 0
/-- Count a win. -/
def State.clsWin (s : State) (t i : Nat) : State :=
  if s.cls.sel = some (t * 8192 + i) then s.incFld R.clsHits
  else { s with cls.hits := SMap.set (fun _ => 0) s.cls.hits (t * 8192 + i) (min (SMap.get (fun _ => 0) s.cls.hits (t * 8192 + i) + 1) (2 ^ 32 - 1)) }

/-- The destination an entry names (word 25). -/
def clsDest (v : Nat) : FrameDest :=
  match v / 2 ^ 28 with
  | 1 => .transport
  | 2 => .ring (bits v 16 6) (bits v 0 6)
  | 3 => .port (bits v 0 6) (bits v 8 3)
  | 4 => .steward
  | _ => .drop

/-- The lookups of R348 from table `t`: the state with hits counted, META, the destination and the mirror. -/
def State.classifyFrom (s : State) (port : Nat) (d : List Byte) (p : Parsed) (mw : Nat) (dest mir : Option FrameDest) (t : Nat) :
    Nat → State × Nat × Option FrameDest × Option FrameDest
  | 0 => (s, mw, dest, mir)
  | k + 1 =>
    if 1 < t ∧ (p.has 13 ∨ p.has 14) then (s, mw, some .steward, mir)
    else match s.clsLookup t (s.clsKey t port mw d p) with
      | none => s.classifyFrom port d p mw dest mir (t + 1) k
      | some (i, w) =>
        let s := s.clsWin t i
        let mk := imgWord w 27
        let mw := (mw &&& (mk ^^^ 0xFFFFFFFF)) ||| (imgWord w 26 &&& mk)
        match imgWord w 24 % 8 with
        | 1 => (s, mw, some .drop, mir)
        | 3 => (s, mw, some .steward, mir)
        | a =>
          let dest := if a = 2 then some (clsDest (imgWord w 25)) else dest
          let mir := if a = 4 then some (clsDest (imgWord w 25)) else mir
          if bitAt (imgWord w 24) 3 then (s, mw, dest, mir) else s.classifyFrom port d p mw dest mir (t + 1) k

/-- Classify a frame (R348). -/
def State.classify (s : State) (port : Nat) (d : List Byte) (p : Parsed) : State × Nat × FrameDest × Option FrameDest :=
  let init := if p.has 7 ∧ s.isLocal port p.dst then some FrameDest.transport else if p.has 11 ∨ p.has 12 then some .steward else none
  let r := s.classifyFrom port d p 0 init none 1 3
  (r.1, r.2.1, r.2.2.1.getD (if s.flag (R.portDefSteward port) then .steward else .drop), r.2.2.2)

/-! ## Delivery (R349, R353, R518) -/

/-- What becomes of a frame at its destination: delivered, refused, or discarded as longer than its buffer (R349, R518). -/
inductive Delivery where
  | done | refused | tooLong
  deriving DecidableEq, Repr

/-- Place a frame in the next buffer posted on a receive ring. -/
def State.rxDeliver (s : State) (inst ring port mw : Nat) (d : List Byte) : State × Delivery :=
  let x := s.ring inst ring
  if x.typ ≠ 4 ∨ (x.st ≠ .active ∧ x.st ≠ .error) then (s, .refused)
  else match s.net.rxBufs.find? fun b => b.work.inst == inst && b.work.ring == ring with
    | none => (s, .refused)
    | some b =>
      let s := { s with net.rxBufs := s.net.rxBufs.erase b }
      if b.len < d.length then (s.commit 4 (.ring b.work 5 0 0), .tooLong)
      else (((s.tally inst 3 d.length).emit (.hostWrite inst b.addr d)).commit 4 (.ring b.work 0 (d.length + port * 2 ^ 16) mw), .done)

/-- The first of some ports in turn after `last`. -/
def nextPort (last : Nat) (l : List Nat) : Option Nat := ((List.range 32).map fun i => (last + 1 + i) % 32).find? fun p => l.contains p
/-- Admit a frame to the slow-path queue of its port's die: at most 2,048 frames, one in 500 ns. The ports refused since the last admission come
first in their turn, for as long as one more admission takes (R353; DESIGN CHOICE, log entry 173). -/
def State.slowAdmit (s : State) (port : Nat) (d : List Byte) : State × Bool :=
  let die : Fin 2 := ⟨port / 16 % 2, Nat.mod_lt _ (by decide)⟩
  let next := s.net.slowNext[die]
  let last := s.net.slowTurn[die].head?.getD 31
  let asked := s.net.slowTurn[die].tail
  let claims := if s.time.now < next + 500 then asked else []
  if s.time.now < next ∨ 2048 ≤ s.net.slow[die].length ∨ nextPort last (port :: claims) ≠ some port then
    ({ s with net.slowTurn := s.net.slowTurn.set die.val (last :: (asked.filter (· ≠ port) ++ [port])) }, false)
  else ({ s with net.slow := s.net.slow.set die.val (s.net.slow[die] ++ [(port, d)]),
                 net.slowNext := s.net.slowNext.set die.val (s.time.now + 500),
                 net.slowTurn := s.net.slowTurn.set die.val (port :: claims.filter (· ≠ port)) }, true)

/-- A refusal or not. -/
def Delivery.of (b : Bool) : Delivery := if b then .done else .refused

/-- Deliver a frame that arrived on a port. -/
def State.deliverTo (s : State) (port mw : Nat) (d : List Byte) : FrameDest → State × Delivery
  | .transport => if (parseFrame d false).has 7 then (s.emit (.handed port 2 d), .done) else (s, .refused)
  | .ring i r => s.rxDeliver i r port mw d
  | .port p q => if s.portUp p then (match s.forwardFrame p q (.raw d) with | some t => (t, .done) | none => (s, .refused)) else (s, .refused)
  | .steward => let r := s.slowAdmit port d; (r.1, .of r.2)
  | .drop => (s, .done)

/-- Deliver the frame itself, counting a refusal. -/
def State.deliverFrame (s : State) (port mw : Nat) (d : List Byte) (dest : FrameDest) : State :=
  let r := s.deliverTo port mw d dest
  if r.2 = .refused then r.1.portCount port (if dest = .steward then 7 else 4) else r.1
/-- Deliver a mirror copy, counting one that is not delivered. -/
def State.deliverMirror (s : State) (port mw : Nat) (d : List Byte) : Option FrameDest → State
  | none => s
  | some m =>
    let r := s.deliverTo port mw d m
    if r.2 = .done then r.1 else r.1.portCount port 5

/-! ## The reorder stage (R343 to R345) -/

/-- The reorder stage of an octet. -/
def State.stage (s : State) (k : Fin 4) : List RxEntry := s.net.reorder[k]
/-- Deal a frame to the next pipeline with its port's next tag, and classify it: drops and slow-path frames are done with at once, others enter the
reorder stage (R343, R344; log entry 174). -/
def State.deal (s : State) (port : Nat) (d : List Byte) (secured : Bool) : State :=
  let k : Fin 4 := ⟨port / 8 % 4, Nat.mod_lt _ (by decide)⟩
  let n : Fin 32 := ⟨port % 32, Nat.mod_lt _ (by decide)⟩
  let pipe := s.net.pipe[k]
  let tag := s.net.tags[n]
  let s := { s with net.pipe := s.net.pipe.set k.val ((pipe + 1) % 4), net.tags := s.net.tags.set n.val (tag + 1) }
  let r := s.classify port d (parseFrame d secured)
  let slow := r.2.2.1 == FrameDest.steward || r.2.2.1 == FrameDest.drop
  let s := if slow then r.1.deliverFrame port r.2.1 d r.2.2.1 else r.1
  if slow && r.2.2.2.isNone then s
  else
    let e : RxEntry := { port := port, tag := tag, pipe := pipe, mw := r.2.1, data := d, dest := if slow then .drop else r.2.2.1, mirror := r.2.2.2 }
    { s with net.reorder := s.net.reorder.set k.val (s.stage k ++ [e]) }

/-- Frames in the ingress buffer are dealt while the stage has room. -/
def State.dealIngress (s : State) (k : Fin 4) : Nat → State
  | 0 => s
  | n + 1 =>
    match s.net.ingress[k] with
    | [] => s
    | (p, d) :: rest =>
      if 512 ≤ (s.stage k).length then s
      else ({ s with net.ingress := s.net.ingress.set k.val rest }.deal (p % 32) d (decide (32 ≤ p))).dealIngress k n

/-- The frame of a port with the oldest tag in a stage. -/
def oldestOf (port : Nat) : List RxEntry → Option RxEntry
  | [] => none
  | e :: l => match oldestOf port l with
    | some x => if e.port = port ∧ e.tag < x.tag then some e else some x
    | none => if e.port = port then some e else none
/-- REORDER_RELEASE: the oldest frame of a port leaves the stage, and its mirror copy with it. -/
def State.releaseFrame (s : State) (port : Nat) : State :=
  let k : Fin 4 := ⟨port / 8 % 4, Nat.mod_lt _ (by decide)⟩
  match oldestOf port (s.stage k) with
  | none => s
  | some e =>
    let s := { s with net.reorder := s.net.reorder.set k.val ((s.stage k).erase e) }
    let s := (s.deliverFrame port e.mw e.data e.dest).deliverMirror port e.mw e.data e.mirror
    s.dealIngress k (s.net.ingress[k].length)
/-- REORDER_RELEASE. -/
def execReorderRelease (port : Fin 32) (t : Nat) (s : State) : Out := .next ((s.advance t).releaseFrame port.val)

/-! ## The SecY on receive (R341, R381) -/

/-- Where the next packet number of a receive association under the key of its slot is kept: a new key starts anew (log entry 44). -/
def State.rxPnKey (s : State) (p c a : Nat) : Nat := (p * 32 + c * 4 + a) * 4096 + s.fld (R.secyRxSlot p c a)
/-- The next packet number expected on a receive association. -/
def State.rxPn (s : State) (p c a : Nat) : Nat := SMap.get (fun _ => 1) s.net.rxPn (s.rxPnKey p c a)
/-- Validate a frame's SecTAG: the state with the packet number noted, or none when the SecY rejects it. -/
def State.secyCheck (s : State) (p : Nat) (tag : SecTag) : Option State :=
  match (List.range 8).find? fun c => s.csr.get64 (R.secyRxSci p c) != 0 && s.csr.get64 (R.secyRxSci p c) == tag.sci with
  | none => none
  | some c =>
    let a := tag.an % 4
    let slot := s.key (s.fld (R.secyRxSlot p c a))
    let keyed := match slot with | some k => !k.xts | none => false
    let next := s.rxPn p c a
    if 3 < tag.an ∨ s.fld (R.secyRxValid p c a) = 0 ∨ keyed = false ∨ tag.icvOk = false ∨ tag.pn + s.fld (R.secyWin p) < next then none
    else some { s with net.rxPn := SMap.set (fun _ => 1) s.net.rxPn (s.rxPnKey p c a) (max next (tag.pn + 1)) }

/-- What a received frame goes on as: the state, whether it is secured, or none when the SecY discards it. -/
def State.secyIn (s : State) (p : Nat) (d : List Byte) (sec : Option SecTag) : Option (State × Bool) :=
  if s.fld (R.secyEn p) = 0 then some (s, false)
  else match sec with
    | some tag => (s.secyCheck p tag).map fun t => (t, true)
    | none => if beAt d 12 2 = 0x888E then some (s, false) else none

/-! ## Arrival (R336 to R338, R342) -/

/-- A frame arrives, without FCS: `d` in clear, and with its SecTAG, if it has one, as received. -/
def State.frameIn (s : State) (p : Nat) (d : List Byte) (fcsOk fecOk : Bool) (sec : Option SecTag) : State :=
  let wire := match sec with | some t => t.raw | none => d
  let k : Fin 4 := ⟨p / 8 % 4, Nat.mod_lt _ (by decide)⟩
  if s.portUp p = false then s
  else if fecOk = false then s.incFld (R.portFecUncorr p)
  else if fcsOk = false then s.portCount p 0
  else if 9216 < wire.length + 4 then s.portCount p 1
  else if wire.length + 4 < 64 then s
  else if 262144 < ((s.net.ingress[k]).map fun x => x.2.length + 4).sum + wire.length + 4 then s.portCount p 2
  else if beAt wire 12 2 = 0x8808 then s.portCount p 3
  else match s.secyIn p d sec with
    | none => s.incFld (R.secyDrop p)
    | some (s, secured) =>
      let d := if secured then d else wire
      let h := parseFrame d secured
      if beAt d 12 2 = 0x8808 then s.portCount p 3
      else if h.csumOk = false then s.portCount p 6
      else if s.flag (R.portFabric p) ∧ (h.has 8 ∨ h.has 9 ∨ h.has 10) then s.emit (.handed p (if h.has 8 then 0 else 1) d)
      else if (s.stage k).length < 512 ∧ (s.net.ingress[k]).isEmpty then s.deal p d secured
      else { s with net.ingress := s.net.ingress.set k.val (s.net.ingress[k] ++ [(p + (if secured then 32 else 0), d)]) }
/-- FRAME_RECEIVE. -/
def execFrameReceive (port : Fin 32) (data : List Byte) (fcsOk fecOk : Bool) (sec : Option SecTag) (t : Nat) (s : State) : Out :=
  .next ((s.advance t).frameIn port.val data fcsOk fecOk sec)

/-- Deliver a frame the slow-path Steward reinjects: for a full egress queue it waits (Table 11.1). -/
def State.reinject (s : State) (port : Nat) (d : List Byte) (dest : FrameDest) : State :=
  match dest with
  | .port p q => if s.portUp p then s.sendFrame p q (.raw d) else s.portCount port 4
  | _ => s.deliverFrame port 0 d dest
/-- SLOW_PATH_REINJECT: the frame goes where Steward 3 names, unclassified. -/
def execSlowPathReinject (die : Fin 2) (port : Fin 32) (dest : FrameDest) (data : List Byte) (t : Nat) (s : State) : Out :=
  let s := s.advance t
  .next (if s.stewardOff 3 then s else { s with net.slow := s.net.slow.set die.val ((s.net.slow[die]).drop 1) }.reinject port.val data dest)

/-! ## The CLS registers (R350, R351, Table 10.7) -/

/-- CLS_CTL's TABLE and INDEX as written. -/
def State.clsPoint (s : State) (t i : Nat) : State := (s.setFld R.clsTable t).setFld R.clsIndex i
/-- The image in CLS_DATA. -/
def State.clsData (s : State) : List Word := (List.range 32).map fun j => s.csr.get (R.clsData j)
/-- WRITE: CLS_DATA to the shadow entry. -/
def State.clsWrite (s : State) (t i : Nat) : State :=
  let s := s.clsPoint t i
  if clsSize t ≤ i ∨ s.flag R.clsBusy then s
  else { s with cls.shadow := SMap.set clsZero s.cls.shadow (t * 8192 + i) s.clsData }.setFld R.clsPending 1
/-- READ: the shadow entry to CLS_DATA, and its hit count to CLS_HITS. -/
def State.clsRead (s : State) (t i : Nat) : State :=
  let s := s.clsPoint t i
  if clsSize t ≤ i ∨ s.flag R.clsBusy then s
  else
    let k := t * 8192 + i
    let w := SMap.get clsZero s.cls.shadow k
    let s := (List.range 32).foldl (fun s j => s.setWord (R.clsData j) (w[j]?.getD 0)) s
    let hits := fun (s : State) => SMap.get (fun _ => 0) s.cls.hits
    let s := match s.cls.sel with
      | some o => { s with cls.hits := SMap.set (fun _ => 0) s.cls.hits o (s.fld R.clsHits) }
      | none => s
    ({ s with cls.sel := some k, cls.hits := SMap.set (fun _ => 0) s.cls.hits k 0 }).setFld R.clsHits (hits s k)
/-- COMMIT: refused at the first offending entry. -/
def State.clsCommit (s : State) : State :=
  if s.flag R.clsBusy then s
  else match s.cls.shadow.find? fun e => clsValid (e.1 / 8192) e.2 && clsBad (e.1 / 8192) e.2 with
    | some e => ((s.setFld R.clsErr 1).setFld R.clsErrTable (e.1 / 8192)).setFld R.clsErrIndex (e.1 % 8192)
    | none => s.setFld R.clsBusy 1

/-- CLS_WRITE. -/
def execClsWrite (table : Fin 4) (index : Fin 8192) (s : State) : Out := .next (s.clsWrite table.val index.val)
/-- CLS_READ. -/
def execClsRead (table : Fin 4) (index : Fin 8192) (s : State) : Out := .next (s.clsRead table.val index.val)
/-- CLS_COMMIT. -/
def execClsCommit (s : State) : Out := .next s.clsCommit
/-- CLS_COMMIT_DONE: the shadow takes effect and GEN increases. -/
def execClsCommitDone (s : State) : Out :=
  if s.flag R.clsBusy then
    .next (((({ s with cls.active := s.cls.shadow }).setFld R.clsGen (s.fld R.clsGen + 1)).setFld R.clsPending 0).setFld R.clsBusy 0)
  else .next s

/-! ## Transmit and receive rings (R518) -/

/-- The first failed check of a TX descriptor, in code order. -/
def State.txCheck (s : State) (n : Nat) (d : TxDesc) : Nat :=
  if d.rsv ∨ d.len < 60 ∨ 9212 < d.len ∨ 7 < d.cls ∨ 31 < d.port then 1
  else if s.portUp d.port = false then 2
  else if s.hostOk n d.addr d.len = false then 3
  else match d.data with
    | none => 4
    | some b => if b.length = d.len then 0 else 4

/-- A frame descriptor's violation: BAD_FIELD and ADDR are recorded. -/
def State.frameViol (s : State) (n r st : Nat) (rsv : Bool) : State :=
  if st = 1 then s.violInst n 1 (if rsv then 2 else 5) r (s.descIx n r) else if st = 3 then s.violInst n 3 10 r (s.descIx n r) else s

/-- TX_DESCRIPTOR: the frame enters the queue of its class, or waits for space or for the instance's ceiling. -/
def execTxDescriptor (i : InstId) (r : Fin 64) (d : TxDesc) (t : Nat) (s : State) : Out :=
  let s := s.advance t
  match s.take i.val r.val 3 d.tag with
  | none => .next s
  | some (u, w) =>
    let st := u.txCheck i.val d
    if st = 0 then
      let x := (d.port, u.classQueue d.port d.cls, Frame.raw (d.data.getD []), w)
      .next ({ u with net.txWait := u.net.txWait ++ [x] }.txAdmit)
    else .next ((u.frameViol i.val r.val st d.rsv).commit 4 (.ring w st 0 0))

/-- RX_DESCRIPTOR: a buffer is posted. -/
def execRxDescriptor (i : InstId) (r : Fin 64) (tag len addr : Nat) (rsv : Bool) (s : State) : Out :=
  match s.take i.val r.val 4 tag with
  | none => .next s
  | some (u, w) =>
    let st := if rsv ∨ len < 64 ∨ 9212 < len then 1 else if u.hostOk i.val addr len = false then 3 else 0
    if st = 0 then .next { u with net.rxBufs := u.net.rxBufs ++ [{ work := w, len := len, addr := addr }] }
    else .next ((u.frameViol i.val r.val st rsv).commit 4 (.ring w st 0 0))

end Sys2Proof.Machine
end

