-- ==== Sys2Proof/Machine/Inst.lean ====
section
/-! DEFINITION. Instances: enabling, doorbells and residency, rings and their control operations, quiesce, reset and removal, and quota records
(spec/18 R504 to R526; spec/19; spec/01 R29 to R37). -/

namespace Sys2Proof.Machine

/-- The instance exists. -/
def State.instOn (s : State) (n : Nat) : Bool := s.flag (R.instEnabled n)
/-- MSI-X vectors of a function (R503). -/
def vecCount (n : Nat) : Nat := if n = 0 then 2048 else 64
/-- A free value of 256 bits. -/
def State.free256 (s : State) : State × BitVec 256 :=
  ({ s with fresh := s.fresh + 8 }, BitVec.ofNat 256 ((List.range 8).map fun i => (Config.freeWord (s.fresh + i)).toNat * 2 ^ (32 * i)).sum)

/-! ## Doorbells (R508, R509, R37) -/

/-- A doorbell is discarded and recorded. -/
def State.badDoorbell (s : State) (n r reason v : Nat) : State := s.violInst n 0xFF reason r v

/-- Act on a write of SQ_TAIL. -/
def State.sqDoorbell (s : State) (n r v : Nat) : State :=
  let x := s.ring n r
  if x.st = .none ∨ x.st = .draining then s.badDoorbell n r 6 v
  else if x.st = .error then s.badDoorbell n r 7 v
  else if x.sqN ≤ v then (s.ringError n r).badDoorbell n r 5 v
  else
    let new := (v + x.sqN - x.taken % x.sqN) % x.sqN
    if new < x.tail - x.taken then (s.ringError n r).badDoorbell n r 7 v
    else s.setRing n r { x with tail := x.taken + new }

/-- Act on a write of CQ_HEAD: slots are released, and completions that waited for room are made. -/
def State.cqDoorbell (s : State) (n r v : Nat) : State :=
  let x := s.ring n r
  if x.st = .none ∨ x.st = .draining then s.badDoorbell n r 6 v
  else if x.st = .error then s.badDoorbell n r 7 v
  else if x.cqN ≤ v then (s.ringError n r).badDoorbell n r 5 v
  else
    let rel := (v + x.cqN - x.released % x.cqN) % x.cqN
    if x.used < rel then (s.ringError n r).badDoorbell n r 7 v
    else (s.setRing n r { x with released := x.released + rel }).retryHeld.lftNotified

/-- Act on a doorbell. -/
def State.doorbell (s : State) (d : Doorbell) : State := if d.cq then s.cqDoorbell d.inst d.ring d.value else s.sqDoorbell d.inst d.ring d.value
/-- A doorbell write arrives: it is captured while its instance is not resident. -/
def State.ringBell (s : State) (d : Doorbell) : State :=
  if !s.instOn d.inst then s
  else if s.flag (R.instResident d.inst) then s.doorbell d
  else { s with inst.doorbells := s.inst.doorbells ++ [d] }

/-- LHQI_SQ_DOORBELL. -/
def execLhqiSqDoorbell (i : InstId) (r : Fin 64) (v : BitVec 16) (t : Nat) (s : State) : Out :=
  .next ((s.advance t).ringBell { inst := i.val, ring := r.val, cq := false, value := v.toNat })
/-- LHQI_CQ_DOORBELL. -/
def execLhqiCqDoorbell (i : InstId) (r : Fin 64) (v : BitVec 16) (t : Nat) (s : State) : Out :=
  .next ((s.advance t).ringBell { inst := i.val, ring := r.val, cq := true, value := v.toNat })
/-- DOORBELL_PAGE_BAD_WRITE. -/
def execDoorbellPageBadWrite (i : InstId) (off value : Nat) (s : State) : Out :=
  .next (if s.instOn i.val then s.violInst i.val 0xFF 8 off value else s)

/-! ## Residency of instances (Table 1.7, R29, R31, R37) -/

/-- Make an instance resident, and act on its captured doorbells in ring order. -/
def State.loadInst (s : State) (n : Nat) : State :=
  let s := { s with inst.order := s.inst.order ++ [n], inst.since := SMap.set (fun _ => 0) s.inst.since n s.time.now }.setFld (R.instResident n) 1
  let mine := s.inst.doorbells.filter fun d => d.inst == n
  let s := { s with inst.doorbells := s.inst.doorbells.filter fun d => d.inst != n }
  (orderBy (fun (d : Doorbell) => d.ring) mine).foldl State.doorbell s
/-- The instance leaves the resident set. -/
def State.dropInst (s : State) (n : Nat) : State := { s with inst.order := s.inst.order.erase n }.setFld (R.instResident n) 0
/-- A completion for the instance is not yet written (R31). -/
def State.instPinned (s : State) (n : Nat) : Bool := (List.range 64).any fun r => !(s.ring n r).live.isEmpty

/-- INSTANCE_CONTEXT_LOADED: with a place free, the instance is resident. -/
def execInstanceContextLoaded (i : InstId) (t : Nat) (s : State) : Out :=
  let s := s.advance t
  .next (if s.instOn i.val ∧ !s.flag (R.instResident i.val) ∧ s.inst.order.length < 16 then s.loadInst i.val else s)

/-- The next instance, round-robin after `n`, that has captured doorbells. -/
def State.nextPending (s : State) (n : Nat) : Option Nat :=
  ((List.range 64).map fun i => (n + 1 + i) % 64).find? fun i => s.instOn i && s.inst.doorbells.any fun d => d.inst == i
/-- An instance that is not pinned has been resident for its quantum of 100 µs. -/
def State.quantumOver (s : State) (n : Nat) : Bool := !s.instPinned n && decide (SMap.get (fun _ => 0) s.inst.since n + 100000 ≤ s.time.now)
/-- Give places to the instances that wait, in turn: free ones, then those of the instances whose quantum is over, longest resident first. -/
def State.instTurns (s : State) : Nat → State
  | 0 => s
  | k + 1 =>
    match s.nextPending (s.inst.order.getLast?.getD 63) with
    | none => s
    | some n =>
      if s.inst.order.length < 16 then (s.loadInst n).instTurns k
      else match s.inst.order.find? s.quantumOver with
        | some m => ((s.dropInst m).loadInst n).instTurns k
        | none => s
/-- INSTANCE_QUANTUM_EXPIRY: the instances that wait take the places of those whose quantum is over (R29). -/
def execInstanceQuantumExpiry (t : Nat) (s : State) : Out := .next ((s.advance t).instTurns 16)

/-! ## Enabling (R504 to R506) and the heartbeat (R524) -/

/-- What refuses ENABLE, as ENABLE_ERR. -/
def State.enableErr (s : State) (n : Nat) : Nat :=
  let sq := s.csr.get64 (R.lhqiAdminSq n)
  let cq := s.csr.get64 (R.lhqiAdminCq n)
  let sqN := s.fld (R.lhqiSqM1 n) + 1
  let cqN := s.fld (R.lhqiCqM1 n) + 1
  if s.fld (R.hostVerMajor n) ≠ 1 then 1
  else if sqN < 2 ∨ cqN < 2 ∨ sq % 4096 ≠ 0 ∨ cq % 4096 ≠ 0 then 2
  else if !s.hostOk n sq (64 * sqN) ∨ !s.hostOk n cq (16 * cqN) then 3 else 0

/-- ENABLE = 1. -/
def State.enable (s : State) (n : Nat) : State :=
  let s := s.setFld (R.lhqiEnable n) 1
  if s.flag (R.lhqiReady n) then s
  else
    let e := s.enableErr n
    let s := s.setFld (R.lhqiEnableErr n) e
    if e ≠ 0 then s
    else
      let g := (s.fld (R.lhqiGen n) + 1) % 65536
      let s := (s.setFld (R.lhqiGen n) g).setFld (R.instGen n) g
      let s := ((s.setFld (R.lhqiRunMinor n) 0).setFld (R.lhqiQuiesced n) 0).setFld (R.lhqiReady n) 1
      let k := s.free256
      let s := { k.1 with inst.keks := SMap.set (fun _ => none) k.1.inst.keks n (some k.2),
                          inst.hb := SMap.set (fun _ => 0) k.1.inst.hb n k.1.time.now,
                          inst.pend := k.1.inst.pend.filter fun p => !(p.1 == n && p.2.1 == 0) }
      s.setRing n 0 { Ring.zero with
        st := .active, typ := 0, vec := s.fld (R.lhqiVec n), sqN := s.fld (R.lhqiSqM1 n) + 1, cqN := s.fld (R.lhqiCqM1 n) + 1,
        sqBase := s.csr.get64 (R.lhqiAdminSq n), cqBase := s.csr.get64 (R.lhqiAdminCq n), gen := g }

/-- LHQI_ENABLE. -/
def execLhqiEnable (i : InstId) (t : Nat) (s : State) : Out :=
  let s := s.advance t
  .next (if s.instOn i.val then s.feCmd (0x20400008 + 0x10000 * i.val) 1 fun s => s.enable i.val else s)
/-- A write to LHQI_HB. -/
def State.heartbeat (s : State) (n : Nat) (v : Word) : State :=
  { s with inst.hb := SMap.set (fun _ => 0) s.inst.hb n s.time.now }.setFld (R.lhqiHb n) v.toNat
/-- LHQI_HEARTBEAT. -/
def execLhqiHeartbeat (i : InstId) (v : Word) (t : Nat) (s : State) : Out :=
  let s := s.advance t
  .next (if s.instOn i.val then s.heartbeat i.val v else s)

/-! ## Quiesce (R524 to R526) -/

/-- The buffers posted on a ring are given up. -/
def State.dropBufs (s : State) (n r : Nat) : State :=
  let of : RxBuf → Bool := fun b => b.work.inst == n && b.work.ring == r
  let mine := (s.net.rxBufs ++ s.tele.bufs).filter of
  let s := if s.tele.bufs.any of then { s with tele.fill := s.tele.fill.filter fun f => f.1 != n } else s
  let s := { s with net.rxBufs := s.net.rxBufs.filter fun b => !of b, tele.bufs := s.tele.bufs.filter fun b => !of b }
  mine.foldl (fun s b => s.workEnd b.work) s
/-- A ring enters DRAINING: untaken entries are discarded, and posted buffers with them (Table 18.6). -/
def State.ringDrain (s : State) (n r : Nat) : State :=
  (s.dropBufs n r).modRing n r fun x => if x.st = .none then x else { x with st := .draining, tail := x.taken }
/-- The taken work of a draining ring has ended. -/
def Ring.drained (x : Ring) : Bool := x.st == .draining && x.live.isEmpty

/-- Quiesce an instance, in the order of R525. -/
def State.quiesceNow (s : State) (n : Nat) : State :=
  let s := s.setFld (R.lhqiReady n) 0
  let s := (List.range 64).foldl (fun s r => s.ringDrain n r) s
  let waiting := s.lft.creating.filter fun c => c.2.1 == n
  let s := { s with lft.creating := s.lft.creating.filter fun c => c.2.1 != n }
  let s := waiting.foldl (fun s c => match c.1 with | some w => s.ringDrop w | none => s) s
  let qps := s.lft.qps.filterMap fun e => match e.2 with | some q => if q.owner = n then some e.1 else none | none => none
  let s := qps.foldl (fun s q => s.qpToReset q) s
  let regs := s.lft.regions.filterMap fun e => match e.2 with | some r => if r.inst = n then some e.1 else none | none => none
  let s := regs.foldl (fun s i => s.setRegion i none) s
  let p := s.pools n
  let s := { s with dec.pools := SMap.set (fun _ => Pools.none) s.dec.pools n { p with t2 := none },
                    inst.keks := SMap.set (fun _ => none) s.inst.keks n none }
  let s := (s.setFld (R.lhqiQuiesced n) 1).signal n (s.fld (R.lhqiVec n))
  (List.range 64).foldl (fun s r => if (s.ring n r).st = .none then s else s.mirRing n r) (s.lftSettle none)
/-- Steps 1 and 2 of R525: no descriptor is taken, and what the instance has posted for host writes is given up. -/
def State.quiesceFirst (s : State) (n : Nat) : State :=
  (List.range 64).foldl (fun s r => s.dropBufs n r) (s.setFld (R.lhqiReady n) 0)
/-- A quiesce waits for its remaining steps. -/
def State.quiesceLater (s : State) (n : Nat) : State := { s with inst.late := if s.inst.late.contains n then s.inst.late else s.inst.late ++ [n] }
/-- Quiesce an instance that is READY; one that arrives in SUSPECT acts once the arbitration has ended, and in a gap of Steward 1 hardware performs
the first two steps and the others wait (Table 23.2). -/
def State.quiesce (s : State) (n : Nat) : State :=
  if !s.flag (R.lhqiReady n) then s
  else if s.fld R.twinState = 2 then s.quiesceLater n
  else if s.stewardOff 1 then (s.quiesceFirst n).quiesceLater n
  else s.quiesceNow n
/-- The quiesces that waited go on. -/
def State.lateQuiesce (s : State) : State :=
  if s.stewardOff 1 then s
  else
    let l := s.inst.late
    l.foldl State.quiesceNow { s with inst.late := [] }

/-- LHQI_DISABLE. -/
def execLhqiDisable (i : InstId) (t : Nat) (s : State) : Out :=
  let s := s.advance t
  .next (if s.instOn i.val then s.feCmd (0x20400008 + 0x10000 * i.val) 0 fun s => (s.setFld (R.lhqiEnable i.val) 0).quiesce i.val else s)
/-- LHQI_HB_TIMEOUT. -/
def execLhqiHbTimeout (i : InstId) (t : Nat) (s : State) : Out :=
  let s := s.advance t
  let ms := s.fld (R.lhqiHbMs i.val)
  .next (if ms ≠ 0 ∧ SMap.get (fun _ => 0) s.inst.hb i.val + ms * 1000000 ≤ s.time.now then s.quiesce i.val else s)

/-! ## Rings (R514, R519) -/

/-- RING_DRAINED. -/
def execRingDrained (i : InstId) (r : Fin 64) (s : State) : Out :=
  .next (if (s.ring i.val r.val).drained then s.setRing i.val r.val Ring.zero else s)
/-- COALESCE_TIMER. -/
def execCoalesceTimer (i : InstId) (r : Fin 64) (t : Nat) (s : State) : Out :=
  let s := s.advance t
  let x := s.ring i.val r.val
  .next (if x.unsig ≠ 0 ∧ x.firstUnsig + x.coalUs * 1000 ≤ s.time.now then (s.setRing i.val r.val { x with unsig := 0 }).signal i.val x.vec else s)

/-- IDENTIFY. -/
def execIdentify (i : InstId) (r : Fin 64) (h : CtlHdr) (s : State) : Out :=
  .next (s.control i r h false 0 64 4 fun s =>
    { CtlRes.ok s with out := natLe 1 1 ++ natLe 1 (s.fld (R.lhqiRunMinor i.val)) ++ natLe 1 0xB1 ++ natLe 1 (s.fld R.twinSide) ++ natLe 1 i.val ++
                              natLe 3 0 ++ natLe 8 s.serial ++ List.replicate 48 0 })

/-- RING_CREATE. A second TELEMETRY ring of an instance is refused (R587). -/
def State.ringCreate (s : State) (n : Nat) (p : RingDef) : CtlRes :=
  let x := s.ring n p.ring
  let second := p.typ = 5 ∧ (List.range 64).any fun r => r != p.ring && (s.ring n r).st != .none && (s.ring n r).typ == 5
  if p.ring = 0 ∨ 63 < p.ring ∨ 5 < p.typ ∨ vecCount n ≤ p.vec ∨ p.sqN < 2 ∨ 65536 < p.sqN ∨ p.cqN < 2 ∨ 65536 < p.cqN ∨
    p.sqBase % 4096 ≠ 0 ∨ p.cqBase % 4096 ≠ 0 ∨ 65535 < p.coalCount ∨ 65535 < p.coalUs ∨ second ∨
    !s.hostOk n p.sqBase (64 * p.sqN) ∨ !s.hostOk n p.cqBase (16 * p.cqN) then .fail s 0xE1
  else if x.st ≠ .none ∧ !x.drained then .fail s 0xE6
  else
    .ok ((({ s with blk.tags := s.blk.tags.filter fun u => !(!u.acc && u.inst == n && u.ring == p.ring) }.setRing n p.ring { Ring.zero with
      st := .active, typ := p.typ, vec := p.vec, sqN := p.sqN, cqN := p.cqN, sqBase := p.sqBase, cqBase := p.cqBase,
      coalCount := p.coalCount, coalUs := p.coalUs, gen := s.fld (R.lhqiGen n) })).mirRing n p.ring)
/-- RING_CREATE. -/
def execRingCreate (i : InstId) (r : Fin 64) (h : CtlHdr) (p : RingDef) (s : State) : Out :=
  .next (s.control i r h false 36 0 4 fun s => s.ringCreate i.val p)

/-- RING_DELETE. -/
def State.ringDelete (s : State) (n ring : Nat) : CtlRes :=
  if ring = 0 ∨ 63 < ring then .fail s 0xE1
  else if (s.ring n ring).st ≠ .active ∧ (s.ring n ring).st ≠ .error then .fail s 0xD7
  else .ok ((s.ringDrain n ring).mirRing n ring)
/-- RING_DELETE. -/
def execRingDelete (i : InstId) (r : Fin 64) (h : CtlHdr) (ring : Nat) (s : State) : Out :=
  .next (s.control i r h false 1 0 4 fun s => s.ringDelete i.val ring)

/-! ## Logs (R520, R521) -/

/-- A Violation Log entry (Table 18.11). -/
def violBytes (v : Viol) : List Byte :=
  natLe 8 v.time ++ natLe 1 v.cls ++ natLe 1 0 ++ natLe 2 v.partner ++ natLe 1 v.protocol ++ natLe 1 v.status ++ natLe 2 v.reason ++
  natLe 8 v.ctx0 ++ natLe 8 v.ctx1
/-- A Block Error Log entry. -/
def belBytes (e : BelE) : List Byte :=
  natLe 8 e.time ++ natLe 8 e.lba ++ natLe 4 e.nlb ++ natLe 2 e.vol ++ natLe 1 e.inst ++ natLe 1 e.ring ++ natLe 2 e.status ++ natLe 1 e.src ++
  natLe 5 0
/-- A Health Log entry (R462). -/
def hlogBytes (e : HlogE) : List Byte :=
  natLe 8 e.time ++ natLe 2 e.code ++ natLe 2 e.unit ++ natLe 4 e.season ++ natLe 8 e.detail ++ natLe 8 0

/-- The entries of a log from an index on, oldest first, with their indexes, that an instance may read. -/
def State.logEntries (s : State) (n log first : Nat) : List (Nat × List Byte) :=
  let all : List (Nat × List Byte) :=
    if log = 0 then
      (s.vlog.entries.reverse.zipIdx.map fun e => (s.vlog.next - s.vlog.entries.length + e.2, e.1)).filterMap fun e =>
        if n = 0 ∨ (e.2.cls = 0 ∧ e.2.partner = n) then some (e.1, violBytes e.2) else none
    else if log = 1 then (s.blk.bel.filter fun e => !e.acc && e.inst == n).map fun e => (e.index, belBytes e)
    else s.health.log.reverse.zipIdx.map fun e => (s.health.logNext - s.health.log.length + e.2, hlogBytes e.1)
  all.filter fun e => first ≤ e.1
/-- LOG_READ. -/
def execLogRead (i : InstId) (r : Fin 64) (h : CtlHdr) (log first count : Nat) (s : State) : Out :=
  let l := (s.logEntries i.val log first).take count
  .next (s.control i r h (log == 2) 12 (if 2 < log then 0 else 32 * l.length) 4 fun s =>
    if 2 < log then .fail s 0xE1
    else
      { CtlRes.ok s with r1 := l.length, r2 := match l.getLast? with | some e => e.1 + 1 | none => first, out := l.flatMap (·.2) })

/-! ## Keys (R371, R517, R532, R573) -/

/-- KEY_LOAD: the key is unwrapped under the instance's key-encryption key. -/
def State.keyLoad (s : State) (n slot mode : Nat) (wrapped : List Byte) : CtlRes :=
  if !s.ownsSlot n slot then .fail s 6
  else if s.boundCount slot ≠ 0 then .fail s 0xA
  else if 1 < mode then .fail s 0xE1
  else
    let want := if mode = 0 then 32 else 64
    match ((SMap.get (fun _ => none) s.inst.keks n : Option (BitVec 256)).bind fun kek => keyUnwrap kek wrapped) with
    | none => .fail s 0xD6
    | some k =>
      if k.length ≠ want then .fail s 0xD6
      else
        let half := fun (i : Nat) => BitVec.ofNat 256 (beNat (slice k (32 * i) 32))
        let x := s.keyWrite slot { xts := mode == 1, owner := n, k1 := half 0, k2 := if mode = 1 then half 1 else 0 }
        .fail x.1 x.2
/-- KEY_LOAD: it waits in its ring for Steward 0 (Table 23.2). -/
def execKeyLoad (i : InstId) (r : Fin 64) (h : CtlHdr) (slot mode : Nat) (wrapped : List Byte) (s : State) : Out :=
  .next (if s.stewardOff 0 then s else s.control i r h false (16 + wrapped.length) 0 4 fun s => s.keyLoad i.val slot mode wrapped)
/-- KEY_RELEASE. -/
def execKeyRelease (i : InstId) (r : Fin 64) (h : CtlHdr) (slot : Nat) (s : State) : Out :=
  .next (s.control i r h false 2 0 4 fun s =>
    if !s.ownsSlot i.val slot then .fail s 6 else let x := s.keyErase slot; .fail x.1 x.2)

/-! ## Reset and removal (R527, R528, R535 to R538) -/

/-- The MSI-X table and pending bits of an instance return to their reset values. -/
def State.msixReset (s : State) (n : Nat) : State :=
  let a := if n = 0 then 0x1080000 else R.lhqiKey n + 0x8000
  let m := if n = 0 then 0x20000 else 0x8000
  { s with csr := s.csr.filter fun e => !(a ≤ e.1 && e.1 < a + m) }
/-- The LHQI registers of an instance return to their reset values, GEN kept. -/
def State.lhqiReset (s : State) (n : Nat) : State :=
  let s := s.msixReset n
  let g := s.fld (R.lhqiGen n)
  ((List.range 15).foldl (fun s i => s.setWord (R.lhqiKey n + 4 * i) (resetVal (R.lhqiKey n + 4 * i))) s).setFld (R.lhqiGen n) g
/-- Removal of an instance starts. -/
def State.removeInst (s : State) (n : Nat) : State :=
  if !s.instOn n ∨ s.flag (R.instRemoving n) then s else ((s.quiesce n).lhqiReset n).setFld (R.instRemoving n) 1
/-- Instances 1 to m exist; those above are removed. -/
def State.setVfs (s : State) (m : Nat) : State :=
  let s := { s with inst.numVfs := m }
  (List.range 63).foldl (fun s k =>
    if k + 1 ≤ m then (if s.instOn (k + 1) then s else s.setFld (R.instEnabled (k + 1)) 1) else s.removeInst (k + 1)) s

/-- The quota record of an instance, shadow and in effect, returns to reset. -/
def State.quotaReset (s : State) (n : Nat) : State :=
  (List.range 20).foldl (fun s i =>
    let k := R.instKey n + 4 * i
    { s.setWord k (resetVal k) with quota := s.quota.set k (resetVal k) }) s
/-- INSTANCE_REMOVAL: the instance's objects are destroyed (Table 19.2), after a gap of Steward 1 (R594). -/
def execInstanceRemoval (i : InstId) (t : Nat) (s : State) : Out :=
  let s := s.advance t
  let n := i.val
  if !s.flag (R.instRemoving n) ∨ s.stewardOff 1 then .next s
  else
    let s := if s.inst.late.contains n then { s with inst.late := s.inst.late.erase n }.quiesceNow n |>.lhqiReset n else s
    let qps := s.lft.qps.filterMap fun e => match e.2 with | some q => if q.owner = n then some e.1 else none | none => none
    let s := (qps.foldl (fun s q => s.qpRemove q) s).lftSettle none
    let s := (s.allSeqs.filter fun e => e.2.inst == n).foldl (fun s e => s.seqDrop e.1) s
    let s := { s with dec.pools := SMap.set (fun _ => Pools.none) s.dec.pools n Pools.none,
                      blk.atts := s.blk.atts.filter fun a => a.acc || a.index != n,
                      inst.doorbells := s.inst.doorbells.filter fun d => d.inst != n }
    let slots := s.keys.slots.filterMap fun e => match e.2 with | some k => if k.owner = n then some e.1 else none | none => none
    let s := { s with keys.erase := s.keys.erase ++ slots.filter fun x => !s.keys.erase.contains x }.sweepKeys
    let s := (s.quotaReset n).dropInst n
    let s := { s with deferred := s.deferred.filter fun d => d.acc || d.inst != n }
    .next (((s.setFld (R.instRemoving n) 0).setFld (R.instEnabled n) (b2n (decide (n ≤ s.inst.numVfs)))).mirror (.other 2))

/-- VF_ENABLE: a NumVFs above 63 is ignored and recorded (R527). -/
def execVfEnable (enable : Bool) (num : Nat) (t : Nat) (s : State) : Out :=
  let s := s.advance t
  if 63 < num then .next (s.violate 0 0 14 0xFF 5 num 0)
  else .next (s.setVfs (if enable then num else 0))

/-- FLR of the physical function: instance 0 as a virtual one, and VF Enable clears. -/
def State.flr0 (s : State) : State :=
  let s := (List.range 64).foldl State.quiesce s
  (s.lhqiReset 0).setVfs 0
/-- FLR. -/
def execFlr (i : InstId) (t : Nat) (s : State) : Out :=
  let s := s.advance t
  if i.val = 0 then .next s.flr0
  else if !s.instOn i.val ∨ s.flag (R.instRemoving i.val) then .next s
  else .next ((s.quiesce i.val).lhqiReset i.val)

/-! ## Quota records (R529 to R534) -/

/-- The shadow record's page ranges, and what is wrong with one. -/
def State.shadowRanges (s : State) (n : Nat) : List (Nat × Nat) := pageWins s.csr ((List.range 4).map fun r => R.instKey n + 16 * r)
/-- The slice of a record: first byte and length. -/
def sliceOf (c : Csr) (n : Nat) : Nat × Nat := let w := (c.get (R.instKey n + 0x40)).toNat; (bits w 0 10 * 2 ^ 28, bits w 16 10 * 2 ^ 28)
/-- The key range of a record: first slot and count. -/
def keysOf (c : Csr) (n : Nat) : Nat × Nat := let w := (c.get (R.instKey n + 0x44)).toNat; (bits w 0 12, bits w 16 13)
/-- The pages of one range all lie in some of a list of ranges. -/
def pagesIn (r : Nat × Nat) (l : List (Nat × Nat)) : Bool :=
  (r.2 < r.1) || decide ((l.filter fun w => w.1 ≤ r.2 && r.1 ≤ w.2).foldl (fun (at_ : Nat) w => if w.1 ≤ at_ ∧ at_ ≤ w.2 then w.2 + 1 else at_)
    r.1 > r.2)
/-- Ranges in ascending order of their first page. -/
def byFirst (l : List (Nat × Nat)) : List (Nat × Nat) := orderBy (·.1) l

/-- An extent lies in a slice. -/
def inSlice (sl : Nat × Nat) (a n : Nat) : Bool := decide (sl.1 ≤ a) && decide (a + n ≤ sl.1 + sl.2)
/-- A host extent lies in the ranges. -/
def extIn (rs : List (Nat × Nat)) (a n : Nat) : Bool := pagesIn (a / 4096, (a + n - 1) / 4096) (byFirst rs)

/-- A live object of an instance lies outside a record (R530). -/
def State.excludes (s : State) (n : Nat) (rs : List (Nat × Nat)) (sl ks : Nat × Nat) : Bool :=
  ((List.range 64).any fun r => let x := s.ring n r
    x.st != .none && !(extIn rs x.sqBase (64 * x.sqN) && extIn rs x.cqBase (16 * x.cqN))) ||
  (s.lft.regions.any fun e => match e.2 with | some r => r.inst == n && !inSlice sl r.base r.len | none => false) ||
  (match (s.pools n).t1 with | some p => !inSlice sl p.1 p.2 | none => false) ||
  (match (s.pools n).t2 with | some p => !extIn rs p.1 p.2 | none => false) ||
  (s.keys.slots.any fun e => match e.2 with | some k => k.owner == n && !(decide (ks.1 ≤ e.1) && decide (e.1 < ks.1 + ks.2)) | none => false)

/-- What refuses a COMMIT, as ERR_CODE; 0 accepts it. -/
def State.commitErr (s : State) (n : Nat) : Nat :=
  let rs := s.shadowRanges n
  let sl := sliceOf s.csr n
  let ks := keysOf s.csr n
  let res := (s.csr.get (R.instKey n + 0x48)).toNat
  let meets := fun (a b : Nat × Nat) => decide (0 < a.2) && decide (0 < b.2) && extentsMeet a.1 a.2 b.1 b.2
  if rs.any (fun r => !pagesIn r (byFirst s.hdmaWins)) ∨ (sl.2 ≠ 0 ∧ (s.inFwSpan sl.1 sl.2 ∨ s.inRegion sl.1 sl.2)) then 1
  else if (List.range 63).any (fun k => k + 1 != n && (meets sl (sliceOf s.quota (k + 1)) || meets ks (keysOf s.quota (k + 1)))) then 2
  else if s.excludes n rs sl ks then 3
  else if rs.any (fun r => decide (r.2 < r.1)) ∨ 4096 < ks.1 + ks.2 ∨ s.workTop < sl.1 + sl.2 ∨ 4096 < bits res 0 13 ∨ 16384 < bits res 16 15 then 4
  else 0

/-- The record in effect reaches something the shadow does not. -/
def State.narrows (s : State) (n : Nat) : Bool :=
  let old := sliceOf s.quota n
  let new := sliceOf s.csr n
  ((s.dmaWins n).any fun r => !pagesIn r (byFirst (s.shadowRanges n))) || (old.2 != 0 && !inSlice new old.1 old.2) ||
  (let a := keysOf s.quota n; let b := keysOf s.csr n; a.2 != 0 && !(decide (b.1 ≤ a.1) && decide (a.1 + a.2 ≤ b.1 + b.2)))

/-- Evict what a lower SEQ_RES leaves over, as far as it is not pinned (R533). -/
def State.trimSeqs (s : State) (n : Nat) : Nat → State
  | 0 => s
  | k + 1 =>
    if s.seqRes n ≠ 0 ∧ s.seqRes n < s.seqResident n then
      match s.seqVictim (some n) with
      | some v => State.trimSeqs (s.modSeq v fun q => { q with resident := false, waitFrom := s.dec.clock }) n k
      | none => s
    else s

/-- COMMIT of a quota record. -/
def State.quotaCommit (s : State) (n : Nat) : State :=
  let e := s.commitErr n
  if e ≠ 0 then (s.setFld (R.instErr n) 1).setFld (R.instErrCode n) e
  else
    let running := (List.range 64).flatMap fun r => (s.ring n r).live.map fun ix => (n, r, ix)
    let s := if s.narrows n ∧ !running.isEmpty then
        { s with inst.pend := s.inst.pend ++ running.filter fun p => !s.inst.pend.contains p }.setFld (R.instPending n) 1
      else s
    let s := { s with quota := (List.range 20).foldl (fun (q : Csr) i => q.set (R.instKey n + 4 * i) (s.csr.get (R.instKey n + 4 * i))) s.quota }
    let full : Bucket := { Bucket.full 65536 with at_ := s.time.now * u16 }
    let s := { s with net.txCeil := s.net.txCeil.set (n % 64) full (Nat.mod_lt _ (by decide)),
                      net.blkCeil := s.net.blkCeil.set (n % 64) full (Nat.mod_lt _ (by decide)) }
    (s.trimQps n 4096).trimSeqs n 16384
/-- INST_COMMIT. -/
def execInstCommit (i : InstId) (t : Nat) (s : State) : Out := .next ((s.advance t).quotaCommit i.val)

end Sys2Proof.Machine
end

