-- ==== Sys2Proof/Machine/Twin.lean ====
section
/-! DEFINITION. Twin operation: records and their order, what is mirrored, loss detection, arbitration, takeover, divergence and the return of a
twin (spec/17 R481 to R500). -/

namespace Sys2Proof.Machine

/-! ## Sending (R484 to R486) -/

/-- Send a twin record without payload on the twin link. -/
def State.twinSend (s : State) (kind seq len : Nat) : State := s.emit (.twin false (s.twinRec kind 0 seq len))
/-- The device mirrors to its twin, or is arbitrating over it. -/
def State.twinned (s : State) : Bool := s.fld R.twinState == 1 || s.fld R.twinState == 4

/-- TWIN_HELLO_TIMER (R485). -/
def execTwinHelloTimer (t : Nat) (s : State) : Out :=
  let s := s.advance t
  .next (if s.twin.helloGot then s else s.twinSend 0 0 0)
/-- Stewards 0 and 5 are both stopped: the hardware sends no heartbeat and no backup-path write (R557). -/
def State.heartStopped (s : State) : Bool := s.stopped.contains 0 && s.stopped.contains 5
/-- TWIN_HEARTBEAT_TIMER (R491). -/
def execTwinHeartbeatTimer (t : Nat) (s : State) : Out :=
  let s := s.advance t
  .next (if s.heartStopped then s else s.twinSend 1 0 0)
/-- BACKUP_WRITE_TIMER (R491). -/
def execBackupWriteTimer (t : Nat) (s : State) : Out :=
  let s := s.advance t
  .next (if s.heartStopped then s else s.backupSend (s.twinRec 1 0 0 0))
/-- MIRROR_RETRANSMIT_TIMEOUT: every unconfirmed record is sent again (R486). -/
def execMirrorRetransmitTimeout (t : Nat) (s : State) : Out :=
  let s := s.advance t
  .next (s.twin.unconf.foldl (fun s m => (s.emit (.mirror m.seq m.item)).incFld R.twinRetx) s)

/-! ## Arbitration and loss (R491 to R494) -/

/-- Enter SUSPECT: hold commitments, and preempt the twin's key on namespace 1 of each drive. -/
def State.enterSuspect (s : State) : State :=
  let s := { s with twin.won := 0, twin.lost := 0 }.setFld R.twinState 2
  (List.range 8).foldl (fun s k =>
    match s.drivePath k with
    | some relay => s.nvmeSend k 0 0x11 1 0 0 false true relay (natLe 8 s.serial)
    | none => s) s
/-- The twin link, or the backup path, has been silent for its timeout. -/
def State.linkSilent (s : State) : Bool := decide (s.twin.lastLink + max 4 (s.fld R.twinHbUs) * 1000 ≤ s.time.now)
def State.backupSilent (s : State) : Bool := decide (s.twin.lastBackup + max 2 (s.fld R.twinBkUs) * 10000 ≤ s.time.now)
/-- What R491 asks of a PAIRED device whose paths are silent. -/
def State.silence (s : State) : State :=
  if s.fld R.twinState ≠ 1 ∨ s.linkSilent = false then s
  else if s.backupSilent then s.enterSuspect
  else if s.fld R.twinSide = 1 then s.yield else s.enterSuspect

/-- TWIN_LINK_SILENCE. -/
def execTwinLinkSilence (t : Nat) (s : State) : Out := .next (s.advance t).silence
/-- BACKUP_SILENCE. -/
def execBackupSilence (t : Nat) (s : State) : Out :=
  let s := s.advance t
  .next (if s.backupSilent then (s.setFld R.twinBkAlive 0).silence else s)

/-- HOLDOVER_LIMIT: FAULT is entered and the Beat Table stops at once (R240); the device yields unless its twin is in FAULT too (R492). -/
def execHoldoverLimit (t : Nat) (s : State) : Out :=
  let s := s.advance t
  if s.fld R.ftState = 3 ∧ s.time.holdAt + s.holdoverLimit ≤ s.time.now then
    let s := (s.stopSchedule.setTimeState 4).report 0 0x8000 4
    .next (if s.fld R.twinState = 1 ∧ s.twin.peerFault = false then s.yield else s)
  else .next s

/-! ## Takeover (R495, R300, R433) -/

/-- The key of a lost twin's instance; firmware is keyed likewise (log entry 43). -/
def lostInst (n : Nat) : Nat := n + 128
/-- Work of a lost twin's ring. -/
def lostWork (w : Work) : Work := { w with inst := lostInst w.inst }
/-- The key of a lost twin's requester. -/
def lostIx (acc : Bool) (n : Nat) : Nat := if acc then n + 8 else lostInst n
/-- An owner of a lost twin's command. -/
def lostOwner : BlkOwner → BlkOwner
  | .ring w => .ring (lostWork w)
  | .acc p q g => .acc (p + 8) q g
  | o => o
/-- A lost twin's member reached over LFT is reached over its taken-over queue pair. -/
def lostMember : VolMember → VolMember
  | .remote qpn rkey off n => .remote (qpn + 65536) rkey off n
  | m => m
/-- A request of a lost twin's queue pair; what its own firmware posted ends without effect here. -/
def lostReq (r : LftReq) : LftReq := { r with work := r.work.map lostWork, steward := if r.work.isNone then 8 else r.steward }
/-- A lost twin's queue pair: its retry timer restarts with k = 0 (R323). -/
def lostQp (q : Qp) (now : Nat) : Qp :=
  { q with owner := lostInst q.owner, reqs := q.reqs.map lostReq, k := 0, armed := if q.armed.isSome then some now else none,
           ackFrom := none, waits := [], again := [], due := [], resident := false }

/-- An unsolicited Neighbor Advertisement with the override flag, to all nodes (R495). -/
def neighborAdv (mac addr : Nat) : List Byte :=
  let icmp (c : Nat) : List Byte := natBe 1 136 ++ natBe 1 0 ++ natBe 2 c ++ natBe 4 0x20000000 ++ natBe 16 addr ++ natBe 1 2 ++ natBe 1 1 ++ natBe 6 mac
  let all := 0xFF02 * 2 ^ 112 + 1
  let sum := csum16 (natBe 16 addr ++ natBe 16 all ++ natBe 4 32 ++ natBe 4 58 ++ icmp 0)
  natBe 6 0x333300000001 ++ natBe 6 mac ++ natBe 2 0x86DD ++ natBe 4 0x60000000 ++ natBe 2 32 ++ natBe 1 58 ++ natBe 1 255 ++
  natBe 16 addr ++ natBe 16 all ++ icmp (65535 - sum)

/-- Install a lost twin's address on the port of its code, if the port has a free place, and advertise it. -/
def State.takeAddr (s : State) (p a : Nat) : State :=
  if s.twin.addrs.contains a then s
  else match (List.range 4).find? fun i => s.portAddrOf p i == 0 with
    | none => s
    | some i =>
      let mac := s.freeWord.toNat * 65536 + s.tick.freeWord.toNat % 65536
      let s := { s.tick.tick with twin.addrs := s.twin.addrs ++ [a] }
      let s := (s.setWord64 (R.portAddr p i) (a % 2 ^ 64)).setWord64 (R.portAddr p i + 8) (a / 2 ^ 64)
      s.sendFrame p (s.classQueue p 0) (.raw (neighborAdv mac a))

/-- Steps 2 and 3: addresses, queue pairs and regions. -/
def State.takeQps (s : State) : State :=
  let s := s.twin.mirror.foldl (fun s m => match m.2 with
    | .qp n q => s.setQp (n + 65536) (q.map fun q => lostQp q s.time.now)
    | .region i r => s.setRegion (i + 65536) (r.map fun (r : Region) => { r with inst := lostInst r.inst })
    | _ => s) s
  let lost := s.lft.qps.filterMap fun e => if 65536 ≤ e.1 then e.2.map fun q => (e.1, q) else none
  let s := lost.foldl (fun s e => e.2.a.paths.foldl (fun s x => s.takeAddr x.port x.addr) s) s
  lost.foldl (fun s e =>
    let gcm : Nat → Bool := fun slot => match s.key slot with | some k => !k.xts | none => false
    if e.2.a.enc ∧ !(gcm e.2.a.txSlot && gcm e.2.a.rxSlot) then s.lftError e.1 fun _ => 0xF else s) s

/-- Volumes, attachments, failed ranges and error log entries; a number this device serves itself stays as it is. -/
def State.takeVols (s : State) : State :=
  let own := s.blk.vols.filterMap fun v => match v.2 with | some x => if s.served x then some v.1 else none | none => none
  let s := s.twin.mirror.foldl (fun s m => match m.2 with
    | .volume n v =>
      if own.contains n then s
      else s.setVol n (v.map fun v => { v with a := { v.a with members := v.a.members.map lostMember }, taken := true })
    | .attach a on =>
      let a := { a with index := if a.acc then a.index else lostInst a.index }
      let l := s.blk.atts.filter fun x => !(x.vol == a.vol && x.acc == a.acc && x.index == a.index)
      { s with blk.atts := if on then l ++ [a] else l }
    | .failedRange vol lba n on =>
      let l := clearFailed vol lba n s.blk.failed
      { s with blk.failed := if on then l ++ [(vol, lba, n)] else l }
    | .belog e => { s with blk.bel := s.blk.bel ++ [{ e with inst := lostIx e.acc e.inst }] }
    | _ => s) s
  s.blk.vols.foldl (fun s v => match v.2 with
    | some x => if x.taken then (volDrives x.a).foldl (fun s d => s.reserve d.1 d.2 true) s else s
    | none => s) s

/-- Cached lines, destaged ahead of this device's own, in the order they were mirrored. -/
def State.takeLines (s : State) : State :=
  let lines := s.twin.mirror.foldl (fun (l : List CBlk) m => match m.2 with
    | .line c =>
      let l := l.filter fun x => !(x.vol == c.vol && x.lba == c.lba)
      if c.dirty then l ++ [{ c with inst := lostIx c.acc c.inst }] else l
    | _ => l) []
  let s := { s with blk.cache := lines ++ s.blk.cache.filter fun (c : CBlk) => !lines.any fun (x : CBlk) => x.vol == c.vol && x.lba == c.lba }
  lines.foldl (fun s c => s.destage c.vol c.lba 1) s.showBlk

/-- Rings, accelerator queues, feed entries, exponents and journal records. -/
def State.takeQueues (s : State) : State :=
  s.twin.mirror.foldl (fun s m => match m.2 with
    | .ring i r x => s.setRing (lostInst i) r x
    | .queue k p q g x => (s.modAccQ k (p + 8) q fun _ => x).modWin k (p + 8) fun w => { w with gen := g }
    | .entry e => { s with coll.taken := s.coll.taken ++ [{ e with port := e.port + 8, twin := true, data := [], conv := [] }] }
    | .entryEnd e => { s with coll.taken := s.coll.taken.filter fun x => !(x.twin && x.port == e.port + 8 && x.q == e.q && x.e == e.e) }
    | .exps g st vs =>
      s.modGroup g fun r => if r.step = st then { r with exps := vs.foldl (fun m v => SMap.set (fun _ => none) m v.1 (some v.2)) r.exps } else r
    | .journal j => s.journalPut j
    | _ => s) s

/-- Completions due are written again to the slots the partner has not released (R490). -/
def State.takeDue (s : State) : State :=
  s.twin.mirror.foldl (fun s m => match m.2 with
    | .due i r ix d =>
      let x := s.ring (lostInst i) r
      if x.st = .none ∨ ix < x.released ∨ x.cqN = 0 then s
      else
        let s := s.emit (.hostWrite (lostInst i) (x.cqBase + 16 * (ix % x.cqN)) d)
        (s.setRing (lostInst i) r { x with posted := max x.posted (ix + 1) }).signal (lostInst i) x.vec
    | .accDue k p q ix d =>
      let x := s.accQ k (p + 8) q
      if x.st = 0 ∨ ix < x.released ∨ x.cqN = 0 then s
      else (s.emit (.accelWrite (p % 8) (x.cqBase + 16 * (ix % x.cqN)) d)).modAccQ k (p + 8) q fun x => { x with posted := max x.posted (ix + 1) }
    | _ => s) s

/-- Block commands taken and not completed are carried out again. -/
def State.takeCmds (s : State) : State :=
  let ops := s.twin.mirror.foldl (fun (l : List BlkOp) m => match m.2 with
    | .cmd o => (l.filter fun x => x.id != o.id) ++ [o]
    | .cmdEnd id => l.filter fun x => x.id != id
    | _ => l) []
  ops.foldl (fun s o =>
    let id := s.blk.next + 1
    let a := (s.vol o.b.vol).map (·.a)
    let erase := decide (o.op = 7) || decide (o.op = 8)
    { s with blk.next := id, blk.ops := s.blk.ops ++ [{ o with
        id := id, owner := lostOwner o.owner, a := if erase then none else a, started := erase, subs := 0, got := [], fail := none, phase := 0,
        why := (0, 0) }] }) s

/-- A mirrored sequence comes to this device: the pages in its twin's T1 come from their mirror, and its table is built again (R433). -/
def State.takeSeq (s : State) (n : Nat) (q : Seq) (pages : List (Nat × List Byte)) : State :=
  let key := match s.seq n with | some y => if s.serves y then n + 65536 else n | none => n
  let q' := { q with gen := (q.gen + 1) % 65536, taken := true, resident := s.seqRoom q.inst, waitFrom := s.dec.clock, pages := [], nodes := [], half := [], held := [],
                     loaded := 0, loading := [], stream := [], mapped := [], laid := false, next := 0, done := [], need := 0,
                     cands := if q.st = SeqSt.merging then q.cands else [], want := false }
  let s := s.setSeq key (some q')
  let r := q.pages.foldl (fun (x : State × Bool) g =>
    if x.2 = false then x
    else
      let t := x.1.needNodes key g.pn [1, 2, 3, 4]
      if t.2 = false then t
      else if g.tier ≠ 2 then (t.1.putPage key { g with move := none }, true)
      else match pages.find? fun p => p.1 == g.pn with
        | none => (t.1, false)
        | some p =>
          match t.1.tierPick q.inst 2 (seqMembers q.a).length with
          | none => (t.1, false)
          | some u => (((t.1.tick.hbmPut (u * 65536) p.2).putPage key { g with loc := u, move := none }), true)) (s, true)
  if q.st = SeqSt.ended then r.1
  else if r.2 = false then r.1.seqEnd key 0x0B
  else if q.st = SeqSt.granted then r.1.seqTurn key else r.1

/-- Step 6: decode sequences. -/
def State.takeSeqs (s : State) : State :=
  let seqs := s.twin.mirror.foldl (fun (l : List (Nat × Seq)) m => match m.2 with
    | .seq n q => (l.filter fun x => x.1 != n) ++ (match q with | some q => [(n, q)] | none => [])
    | _ => l) []
  let pages := fun n => s.twin.mirror.foldl (fun (l : List (Nat × List Byte)) m => match m.2 with
    | .page k pn d => if k = n then (l.filter fun x => x.1 != pn) ++ [(pn, d)] else l
    | _ => l) []
  seqs.foldl (fun s x => s.takeSeq x.1 x.2 (pages x.1)) s

/-- Step 8: the commitments held are made; a held completion of a cached WRITE waits for its write-through (R496). -/
def State.releaseAll (s : State) : State :=
  let held := s.twin.held
  let s := { s with twin.held := [], twin.unconf := [], twin.unsent := [] }.setFld R.twinLag 0
  held.foldl (fun s h => match h.2 with
    | .write o =>
      let id := s.blk.next + 1
      let d := (List.range o.b.nlb).flatMap fun i => match s.cached o.b.vol (o.b.lba + i) with | some c => c.data | none => []
      { s with blk.next := id, blk.ops := s.blk.ops ++ [{ o with
          id := id, started := false, subs := 0, got := [], fail := none, phase := 0, why := (0, 0),
          b := { o.b with fua := true, bufHbm := false, data := if d.isEmpty then o.b.data else some d } }] }
    | c => if s.canCommit c then s.doCommit c else { s with twin.held := s.twin.held ++ [h] }) s

/-- The twin is lost: the survivor takes over what it mirrored, in the order of R495. -/
def State.takeover (s : State) : State :=
  let s := (s.setFld R.twinState 3).setFld R.btSolo 1
  let s := if s.beat.running.isSome ∧ s.fld R.btVariant = 0 then s.originate 1 1 else s
  let s := s.takeQps.takeVols.takeLines.takeQueues
  let s := (List.range 8).foldl State.showSan s
  let s := s.takeSeqs.takeCmds.takeDue
  let s := { s with twin.mirror := [] }.releaseAll
  let s := (s.dec.seqs.map (·.1)).foldl (fun s n => (s.seqPost n).seqGrant n) s
  s.lftNotified.blkRun.ckptAlone

/-- A Steward whose part R495 needs is in a gap: the steps of the takeover wait for it (R594; log entry 176). -/
def State.takeoverWaits (s : State) : Bool := [1, 3, 4, 6].any s.stewardOff
/-- A takeover that was won goes on once no Steward it needs is in a gap. -/
def State.takeoverBack (s : State) : State :=
  if s.fld R.twinState = 2 ∧ 5 ≤ s.twin.won ∧ s.takeoverWaits = false then s.takeover.lateQuiesce else s

/-- ARBITRATION_RESULT: how many acquisitions have succeeded and failed, and whether a drive answered Reservation Conflict (R493). -/
def execArbitrationResult (ok failed : Fin 9) (conflict : Bool) (t : Nat) (s : State) : Out :=
  let s := s.advance t
  if s.fld R.twinState ≠ 2 then .next s
  else
    let s := { s with twin.won := ok.val, twin.lost := failed.val }
    .next (if 5 ≤ ok.val then s.takeoverBack else if conflict ∨ 8 - failed.val < 5 then s.fence.lateQuiesce else s)

/-! ## Receiving (R486, R487) -/

/-- A record is refused: it is discarded, recorded and counted. -/
def State.twinRefuse (s : State) (r : TwinRec) (reason : Nat) : State := (s.incFld R.twinViol).violate 4 r.serial 8 0xFF reason r.seq 0
/-- Why a record is refused, as a REASON. A HELLO names its own version and, outside mirroring, its own serial. -/
def State.twinBad (s : State) (r : TwinRec) : Option Nat :=
  let hello := decide (r.kind = 0) && !(s.twinned || s.fld R.twinState == 2)
  if 6 < r.kind ∨ 6 < r.state ∨ (r.kind = 2 ∧ (r.cls = 0 ∨ 8 < r.cls)) then some 1
  else if r.rsv ∨ (r.kind ≠ 2 ∧ r.cls ≠ 0) ∨ (r.kind ≠ 2 ∧ r.kind ≠ 4 ∧ r.seq ≠ 0) then some 2
  else if r.kind ≠ 0 ∧ r.verMajor ≠ 1 then some 3
  else if hello = false ∧ s.twin.peerSerial ≠ none ∧ s.twin.peerSerial ≠ some r.serial then some 6
  else if r.kind = 2 ∧ s.twin.applied + 4096 < r.seq then some 7
  else none

/-- Both devices are PAIRED: the survivor clears SOLO (R500). -/
def State.paired (s : State) : State := ({ s with twin.resync := none }.setFld R.twinState 1).setFld R.btSolo 0

/-- Records up to a SEQ are confirmed: the commitments they permit are made (R486, R489). -/
def State.confirmTo (s : State) (c : Nat) : State :=
  let s := { s with twin.unconf := s.twin.unconf.filter fun m => c < m.seq }
  let s := s.setFld R.twinLag (min s.twin.unconf.length 65535)
  if !s.twinned then s
  else
    let s := s.release c
    let s := (s.dec.seqs.map (·.1)).foldl (fun s n => (s.seqPost n).seqGrant n) s
    let s := s.lftNotified.ckptHarvested
    let s := if s.blk.ops.isEmpty then s else s.blkRun
    match s.twin.resync with
    | some q => if q ≤ c ∧ s.fld R.twinState = 4 then s.paired else s
    | none => s

/-- A record that is not refused arrives on the twin link: the link is alive, and what it confirms is confirmed. -/
def State.twinHear (s : State) (r : TwinRec) (t : Nat) (act : State → State) : State :=
  let s := s.advance t
  match s.twinBad r with
  | some reason => s.twinRefuse r reason
  | none =>
    let s := { s with twin.lastLink := s.time.now, twin.peerState := r.state, twin.peerFault := r.fault }
    act (if r.kind = 0 then s else s.confirmTo r.confirmed)

/-- TWIN_HEARTBEAT. -/
def execTwinHeartbeat (r : TwinRec) (t : Nat) (s : State) : Out := .next (s.twinHear r t id)
/-- TWIN_CONFIRM. -/
def execTwinConfirm (r : TwinRec) (t : Nat) (s : State) : Out := .next (s.twinHear r t id)

/-- A record contradicts the mirror: it removes what the mirror does not hold (R498). -/
def contradicts (l : List (Nat × MirItem)) : MirItem → Bool
  | .volume n none => !l.any fun m => match m.2 with | .volume k (some _) => k == n | _ => false
  | .qp n none => !l.any fun m => match m.2 with | .qp k (some _) => k == n | _ => false
  | .seq n none => !l.any fun m => match m.2 with | .seq k (some _) => k == n | _ => false
  | .cmdEnd id => !l.any fun m => match m.2 with | .cmd o => o.id == id | _ => false
  | .entryEnd e => !l.any fun m => match m.2 with | .entry x => x.q == e.q && x.port == e.port && x.e == e.e | _ => false
  | _ => false

/-- Apply a record. -/
def State.mirApply (s : State) (q : Nat) (m : MirItem) : State :=
  let bad := contradicts s.twin.mirror m
  let s := { s with twin.applied := q, twin.mirror := s.twin.mirror ++ [(q, m)] }
  let s := match m with
    | .ckptDigests sq d =>
      { s with ckpt.run := s.ckpt.run.map fun (r : CkptRun) => if r.seq = sq then { r with peer := some d } else r }.ckptHarvested
    | .journal j => s.journalPeer j
    | _ => s
  if bad then s.diverge else s

/-- Apply the records that are next in order. -/
def State.mirDrain (s : State) : Nat → State
  | 0 => s
  | k + 1 =>
    match (SMap.get (fun _ => none) s.twin.ahead (s.twin.applied + 1) : Option MirItem) with
    | none => s
    | some m => State.mirDrain ({ s with twin.ahead := SMap.set (fun _ => none) s.twin.ahead (s.twin.applied + 1) none }.mirApply (s.twin.applied + 1) m) k

/-- Apply the records that are next in order, and confirm them. -/
def State.mirConfirm (s : State) : State :=
  let t := s.mirDrain 4097
  if t.twin.applied = s.twin.applied then t else t.twinSend 3 0 0

/-- TWIN_MIRROR: records are applied in SEQ order and confirmed, by Steward 6, for which they wait in a gap; one at or below the last applied is discarded. A PAIRED or JOINING device
applies them (R486). -/
def execTwinMirror (r : TwinRec) (m : MirItem) (t : Nat) (s : State) : Out :=
  .next (s.twinHear r t fun s =>
    if r.seq ≤ s.twin.applied ∨ !s.twinned then s
    else
      let s := { s with twin.ahead := SMap.set (fun _ => none) s.twin.ahead r.seq (some m) }
      if s.stewardOff 6 then s else s.mirConfirm)

/-! ## Meeting and returning (R485, R500) -/

/-- Every open queue of every window. -/
def State.openQueues (s : State) : List MirItem :=
  [WinKind.feed, WinKind.block, WinKind.decode].flatMap fun k => (List.range 16).flatMap fun p => (List.range 8).filterMap fun q =>
    let x := s.accQ k p q
    if x.st = 0 then none else some (.queue k p q (s.win k p).gen x)
/-- The agreed exponents of the steps that are not settled. -/
def State.openExps (s : State) : List MirItem :=
  s.coll.groups.filterMap fun r =>
    let vs := r.exps.filterMap fun e => e.2.map fun x => (e.1, x)
    if vs.isEmpty then none else some (.exps r.group r.step vs)
/-- Every context of every class, class by class (Table 17.2). -/
def State.contexts (s : State) : List MirItem :=
  (s.blk.cache.filter (·.dirty)).map MirItem.line ++
  (s.blk.vols.map fun v => MirItem.volume v.1 v.2) ++ (s.blk.atts.map fun a => MirItem.attach a true) ++
  (s.blk.failed.map fun f => MirItem.failedRange f.1 f.2.1 f.2.2 true) ++ s.blk.bel.map MirItem.belog ++
  (s.lft.qps.map fun q => MirItem.qp q.1 q.2) ++ (s.lft.regions.map fun r => MirItem.region r.1 r.2) ++
  (s.rings.map fun r => MirItem.ring (r.1 / 64) (r.1 % 64) r.2) ++ s.blk.ops.filterMap (fun o => match o.owner with
    | .ring _ | .acc _ _ _ => some (MirItem.cmd o)
    | _ => none) ++
  s.openQueues ++ s.coll.taken.map MirItem.entry ++ s.openExps ++ (s.dec.seqs.map fun q => MirItem.seq q.1 q.2) ++
  s.blk.journal.map MirItem.journal ++ s.health.log.reverse.map MirItem.health ++
  (List.range 34).map fun b => MirItem.margin b (s.fld (R.marginLevel (b / 17) (b % 17)))

/-- Send every context of every class, and then RESYNC_DONE (R500). -/
def State.resync (s : State) : State :=
  let s := s.contexts.foldl (fun s m => s.mirror m) s
  { s with twin.resync := some s.twin.seq }.twinSend 6 0 0

/-- TWIN_HELLO. A twin that reports this device's own SIDE fences it (R630). -/
def execTwinHello (r : TwinRec) (t : Nat) (s : State) : Out :=
  .next (s.twinHear r t fun s =>
    let st := s.fld R.twinState
    if r.side = s.fld R.twinSide then s.fence.violate 4 r.serial 8 0xFF 6 r.seq 0
    else if st ≠ 0 ∧ st ≠ 3 then s
    else
      let s := { s with twin.helloGot := true, twin.peerSerial := some r.serial }.setFld R.twinPeerMinor r.verMinor
      if r.verMajor ≠ 1 then (if st = 3 then s else if s.fld R.twinSide = 1 then s.fence else s.takeover)
      else
        let s := { s with twin.applied := 0, twin.ahead := [], twin.mirror := [] }
        if st = 3 then
          let s := { s.twinSend 0 0 0 with twin.seq := 0, twin.unconf := [], twin.unsent := [] }
          (s.setFld R.twinState 4).resync
        else s.setFld R.twinState (if r.state = 3 then 4 else 1))

/-- TWIN_RESYNC_DONE: once every record before it is applied, it is confirmed and the device is PAIRED (R500). -/
def execTwinResyncDone (r : TwinRec) (t : Nat) (s : State) : Out :=
  .next (s.twinHear r t fun s =>
    if s.fld R.twinState = 4 ∧ s.twin.resync = none then (s.paired).twinSend 3 0 0 else s)

/-- TWIN_YIELD: received on the backup path (R491). -/
def execTwinYield (r : TwinRec) (t : Nat) (s : State) : Out :=
  let s := s.advance t
  match s.twinBad r with
  | some reason => .next (s.twinRefuse r reason)
  | none => .next (if s.fld R.twinState = 1 then s.enterSuspect else s)

/-! ## Audits and the link (R481, R482, R498) -/

/-- AUDIT_TIMER: SIDE 0 sends AUDIT with a mark. -/
def execAuditTimer (t : Nat) (s : State) : Out :=
  let s := s.advance t
  .next (if s.fld R.twinAuditMs = 0 ∨ s.fld R.twinSide = 1 ∨ s.fld R.twinState ≠ 1 then s
    else { s with twin.audit := some s.twin.seq }.twinSend 4 s.twin.seq 48)
/-- TWIN_AUDIT: digests are compared, `agree` telling how the comparison comes out; SIDE 1 answers with its own. -/
def execTwinAudit (r : TwinRec) (agree : Bool) (t : Nat) (s : State) : Out :=
  .next (s.twinHear r t fun s =>
    if !s.twinned then s
    else
      let s := if s.fld R.twinSide = 1 then s.twinSend 4 r.seq 48 else { s with twin.audit := none }
      if agree then s else s.diverge)

/-- TWIN_LINK_UP. -/
def execTwinLinkUp (s : State) : Out := .next (s.setFld R.twinLinkUp 1)
/-- TWIN_LINK_DOWN. -/
def execTwinLinkDown (s : State) : Out := .next (s.setFld R.twinLinkUp 0)
/-- TWIN_LINK_OTHER_FRAME. -/
def execTwinLinkOtherFrame (s : State) : Out := .next (s.incFld R.twinViol)

end Sys2Proof.Machine
end

