-- ==== Sys2Proof/Machine/Fw.lean ====
section
/-! DEFINITION. Firmware packages, watchdogs, the restart of a Steward, Graft, and the lock of the Rind (spec/20 R547 to R561,
spec/21 R563 to R566). -/

namespace Sys2Proof.Machine

/-! ## Packages (R563, R564) -/

/-- Bytes of a package that must be zero. -/
def pkgReserved (p : List Byte) : List Byte :=
  slice p 6 2 ++ slice p 17 7 ++ slice p 32 96 ++ (List.range 8).flatMap fun n =>
    if bitAt (le p 16 1) n then slice p (128 + 80 * n + 20) 12 else slice p (128 + 80 * n) 80
/-- The extents of the images of a package lie in it and fit a Steward's memories. -/
def pkgExtents (p : List Byte) : Bool :=
  (List.range 8).all fun n =>
    let w := fun i => le p (128 + 80 * n + 4 * i) 4
    !bitAt (le p 16 1) n || (decide (w 0 + w 1 + 96 ≤ p.length) && decide (w 2 + w 3 + 96 ≤ p.length) && decide (w 1 ≤ 65536) && decide (w 3 ≤ 262144) &&
      w 1 % 4 == 0)
/-- A package is well formed. -/
def pkgFormed (p : List Byte) : Bool :=
  decide (864 ≤ p.length) && decide (p.length ≤ 28 * mib) && le p 0 4 == 0x57464D4C && le p 4 1 == 1 && le p 24 4 == p.length &&
  (pkgReserved p).all (· == 0) && pkgExtents p && decide (le p 28 4 + 4 + le p (le p 28 4) 4 + 96 ≤ p.length)
/-- Its signature verifies under a leaf whose chain ends at the root. -/
def pkgSigned (p : List Byte) : Bool :=
  match Config.fwSigner (slice p (le p 28 4 + 4) (le p (le p 28 4) 4)) with
  | some key => Config.ecdsaOk key (sha384 (p.take (p.length - 96))) (p.drop (p.length - 96))
  | none => false
/-- A package is valid (R564). -/
def pkgValid (p : List Byte) : Bool := pkgFormed p && pkgSigned p
def pkgSvn (p : List Byte) : Nat := le p 8 4
def pkgSeq (p : List Byte) : Nat := le p 12 4
/-- The image of a Steward in a package. -/
def pkgImage (p : List Byte) (n : Nat) : FwImage :=
  let w := fun i => le p (128 + 80 * n + 4 * i) 4
  { text := slice p (w 0) (w 1), data := slice p (w 2) (w 3), version := w 4, domain := slice p (128 + 80 * n + 32) 48 }
/-- The digest of the locked domain of a Steward: its domain registers in the order of their offsets (log entry 54). -/
def State.domDigest (s : State) (n : Nat) : List Byte :=
  sha384 ((List.range 34).flatMap fun i => natLe 4 (s.csr.get (R.domKey n + 4 * i)).toNat)

/-! ## Loading a Steward (R545, R553, R558) -/

/-- The image of a Steward in force. -/
def State.fwImage (s : State) (n : Nat) : FwImage := s.fw.images.toList[n]?.getD FwImage.empty
/-- Reset a Steward, load an image into its memories, and start it with its arguments. -/
def State.runSteward (s : State) (n : Nat) (im : FwImage) (a0 a1 : Nat) : State :=
  let u := stewardUnit n
  let s := s.modCore u fun c => c.resetCmd u
  let s := { s with imem := s.imem.set u.val ((s.imem[u.val]'u.isLt).put 4 0 im.text) u.isLt,
                    lmem := s.lmem.set u.val ((s.lmem[u.val]'u.isLt).put 4 0 im.data) u.isLt }
  let s := s.modCore u fun c =>
    { c with run.entry := 0, run.args := (Vector.replicate 4 (0 : Word)).set 0 (BitVec.ofNat 32 a0) |>.set 1 (BitVec.ofNat 32 a1) }
  let s := { s with fw.kick := s.fw.kick.set (n % 8) s.time.now (by omega) }
  (s.startCore u).setFld (R.fwVer n) im.version
/-- The die of the unit of a health event (Table 16.3). -/
def eventDie (unit : Nat) : Nat :=
  match unit / 4096 with
  | 3 | 6 => unit % 4 / 2
  | 4 | 7 => unit % 8 / 4
  | 8 => 0
  | _ => unit / 2048 % 2
/-- Of the health events that came while Steward 5 did not run, hardware carries 1,024 of each die; QUEUE_LOST counts the others (Table 20.6;
log entry 146). -/
def State.trimReports (s : State) : State :=
  let r := s.reports.foldl (fun (x : List HealthEv × Nat) e =>
    if e.code ≠ 0 ∧ 1024 ≤ (x.1.filter fun y => y.code != 0 && eventDie y.unit == eventDie e.unit).length then (x.1, x.2 + 1)
    else (x.1 ++ [e], x.2)) ([], 0)
  if r.2 = 0 then s else ({ s with reports := r.1 }.incFld (R.fwQueueLost 5) r.2)

/-! ## Restart (R553 to R557) -/

/-- WATCHDOG_KICK. -/
def State.wdogKick (s : State) (n : Nat) : State := { s with fw.kick := s.fw.kick.set (n % 8) s.time.now (by omega) }
/-- WATCHDOG_KICK. -/
def execWatchdogKick (n : Fin 8) (t : Nat) (s : State) : Out := .next ((s.advance t).wdogKick n.val)
/-- The watchdog period of a Steward in ns; 0 is taken as 10 ms. -/
def State.wdogNs (s : State) (n : Nat) : Nat := (let ms := s.fld (R.wdogMs n); if ms = 0 then 10 else ms) * 1000000
/-- STEWARD_WATCHDOG_EXPIRY: the count of a running Steward has ended without a KICK; it is halted and has stopped. -/
def execStewardWatchdogExpiry (n : Fin 8) (t : Nat) (s : State) : Out :=
  let s := s.advance t
  let st := (s.core (stewardUnit n.val)).run.state
  if (st = .running ∨ st = .waiting) ∧ s.fw.kick[n.val]'(by omega) + s.wdogNs n.val ≤ s.time.now then .next ((s.haltReq (stewardUnit n.val)).stewardStop n.val)
  else .next s

/-- Send HANDOVER to the next target of a Graft once it runs (R558 step 2; Table 23.2). -/
def State.handover (s : State) : State :=
  match s.fw.graft with
  | none => s
  | some g =>
    match g.targets with
    | [] => s
    | n :: _ =>
      if g.sent ∨ s.stopped.contains n then s
      else
        let u := stewardUnit n
        let k := stewardLoader n
        let s := s.modCore u fun c =>
          let l := c.ports.smbRx.toList[k]?.getD []
          { c with ports.smbRx := if l.length < 16 then c.ports.smbRx.set (k % 8) (l ++ [1]) (by omega) else c.ports.smbRx }
        ({ s with fw.graft := some { g with sent := true, recLen := none, since := s.time.now } }.setFld R.graftState 2).setFld (R.fwGrafting n) 1

/-! ## Graft (R558 to R561) -/

/-- The Stewards of a mask in the order they are grafted: ascending, Steward 0 last. -/
def graftOrder (mask : Nat) : List Nat := ([1, 2, 3, 4, 5, 6, 7].filter fun n => bitAt mask n) ++ (if bitAt mask 0 then [0] else [])
/-- A GRAFT or RESTART command finds the device busy (R561, Table 23.2). -/
def State.graftBusy (s : State) : Bool :=
  s.fld R.graftState != 0 || s.fld R.twinState == 2 || s.fld R.ckptState == 2 || s.fld R.ckptState == 4 || s.fld R.ckptState == 5
/-- What refuses a package, as a status of Table 20.8; 0 for none. -/
def State.graftCheck (s : State) (mask : Nat) (p : List Byte) : Nat :=
  if !pkgFormed p ∨ (List.range 8).any (fun n => bitAt mask n && !bitAt (le p 16 1) n) then 2
  else if !pkgSigned p then 3
  else if pkgSvn p < s.boot.flash.rpmc0 then 4
  else if (List.range 8).any fun n => bitAt mask n && (pkgImage p n).domain != s.domDigest n then 5 else 0
/-- The last target is done: with PERSIST the package is written to the slot not chosen at boot, otherwise the Graft ends (R566). -/
def State.graftLast (s : State) (g : GraftRun) : State :=
  if g.persist then
    { s with fw.graft := some { g with targets := [] },
             boot.queue := s.boot.queue ++ [FlashOp.package (s.fld R.bootPkgSlot == 0) g.pkg] }.setFld R.graftState 4
  else { s with fw.graft := some { g with targets := [] } }.graftEnd 0
/-- Go on to the next target. -/
def State.graftNext (s : State) : State :=
  match s.fw.graft with
  | none => s
  | some g =>
    match g.targets with
    | [] => s.graftLast g
    | [_] => s.graftLast g
    | _ :: rest => { s with fw.graft := some { g with targets := rest, sent := false, recLen := none } }.handover
/-- A write of GRAFT_CTL waits for Steward 0, which carries it out (R594). -/
def State.graftLater (s : State) (v : Nat) : State := { s with wide.fe := s.wide.fe ++ [.write 0x40000C (BitVec.ofNat 32 v)] }
/-- CMD = GRAFT: the package in the working partition is verified, and its targets are grafted one at a time. -/
def State.graftStart (s : State) (mask : Nat) (persist : Bool) : State :=
  let a := s.csr.get64 R.graftSrc
  let n := s.fld R.graftLen
  if s.graftBusy then s.setFld R.graftStatus 1
  else if s.stopped.contains 0 then s.graftLater (1 + mask * 256 + b2n persist * 65536)
  else
    let s := (s.setFld R.graftDone 0).hbmSeen a n
    if s.workTop < a + n ∨ 28 * mib < n ∨ s.hbmBad a n then s.graftEnd 2
    else
      let p := s.hbmBytes a n
      let st := s.graftCheck mask p
      if st ≠ 0 then s.graftEnd st
      else
        let g : GraftRun := { targets := graftOrder mask, persist := persist, pkg := p, sent := false, recLen := none, since := s.time.now }
        let s := { s with fw.graft := some g }
        if g.targets.isEmpty then s.graftLast g else (s.setFld R.graftState 2).handover
/-- CMD = RESTART: the Stewards named are halted for a restart, which counts as no uncommanded stop (R555). -/
def State.graftRestart (s : State) (mask : Nat) : State :=
  if s.graftBusy then s.setFld R.graftStatus 1
  else if s.stopped.contains 0 then s.graftLater (2 + mask * 256)
  else
    let s := (s.setFld R.graftDone 0).setFld R.graftStatus 0
    (List.range 8).foldl (fun s n =>
      if bitAt mask n then { s with spdm.sessions := if n = 0 then [] else s.spdm.sessions }.haltReq (stewardUnit n) |>.markStopped n else s) s
/-- The working-partition address of a Steward's handover record (R558, Table 27.8). -/
def State.recordAddr (s : State) (n : Nat) : Nat := (s.fld R.rindFwresBase + 1024 * n) * mib + 0x3F000000
/-- The header of a handover record passes the loader's check: MAGIC, STEWARD and RECORD_LEN. -/
def State.recordOk (s : State) (n len : Nat) : Bool :=
  let h := s.hbmBytes (s.recordAddr n) 32
  !s.hbmBad (s.recordAddr n) 32 && le h 0 4 == 0x52474D4C && le h 6 1 == n && le h 24 4 == len && decide (128 ≤ len) && decide (len ≤ 16 * mib)
/-- The target under way has been sent HANDOVER: the run, the target, and the record length once it has answered. -/
def State.grafting (s : State) (n : Nat) : Option GraftRun :=
  match s.fw.graft with
  | some g => if g.sent ∧ g.targets.head? = some n then some g else none
  | none => none
/-- HANDOVER_ANSWER: the target answers with the length of its record and halts; the loader checks the record and starts the new image. -/
def execHandoverAnswer (n : Fin 8) (len t : Nat) (s : State) : Out :=
  let s := s.advance t
  match s.grafting n.val with
  | none => .next s
  | some g =>
    if g.recLen.isSome then .next s
    else
      let s := s.modCore (stewardUnit n.val) fun c => c.halted .halt
      if s.recordOk n.val len then
        let s := { s with fw.graft := some { g with recLen := some len, since := s.time.now } }.setFld R.graftState 3
        .next (s.runSteward n.val (pkgImage g.pkg n.val) 0xBF000000 len)
      else .next ((s.graftEnd 7).markStopped n.val)

/-! ## The lock of the Rind (R547, R548), and the power cap (R551, R607) -/

/-- A cap of a Rind field: values outside 300 to 560 are taken as 560 (Table 20.5). -/
def rindCap (w : Nat) : Nat := if w < 300 ∨ 560 < w then 560 else w
/-- CAP_IN_FORCE: the lower of the setting, taken between 300 and 560, and the Rind's cap. -/
def State.showCap (s : State) : State :=
  s.setFld R.pwrCapInForce (min (max 300 (min 560 (s.fld R.pwrCfg))) (rindCap (s.fld R.rindPower)))

/-- Lock the Rind and the domains: SECY EN of each port takes its bit of RIND_CIPHER. -/
def State.rindLockNow (s : State) : State :=
  if s.flag R.rindLock then s
  else (List.range 32).foldl (fun s p => s.setFld (R.secyEn p) (b2n (bitAt (s.fld R.rindCipher) p))) (s.setFld R.rindLock 1)
/-- RIND_LOCK. -/
def execRindLock (s : State) : Out := .next s.rindLockNow

end Sys2Proof.Machine
end

