-- ==== Sys2Proof/Machine/Boot.lean ====
section
/-! DEFINITION. Reset sources, boot, the Device Record, flash writes, and attestation (spec/21, spec/24 R612 to R617). -/

namespace Sys2Proof.Machine

/-! ## Reset sources (Table 24.6) -/

/-- A device reset: every field returns to reset but what the flash holds, the pins' levels, the queue and the model's own fields; RST_CAUSE
holds the cause (R613). -/
def State.deviceReset (s : State) (cause : Nat) : State :=
  { State.reset with pending := s.pending, out := s.out, fresh := s.fresh,
                     boot := { BootSt.reset with flash := s.boot.flash },
                     pins := { PinSt.reset with sysRst := s.pins.sysRst, perst := s.pins.perst, thermtrip := s.pins.thermtrip, tap := s.pins.tap } }
  |>.setFld R.rstCauseF cause
/-- A power-on reset: SYS_RST_N and PERST_N are low, THERMTRIP_N released, and the TAP starts anew. -/
def State.powerOn (s : State) : State := { s with pins := PinSt.reset }.deviceReset 0
/-- POWER_ON. -/
def execPowerOn (s : State) : Out := .next s.powerOn
/-- RAIL_FAULT: a power-on reset (R599). -/
def execRailFault (s : State) : Out := .next s.powerOn
/-- SYS_RESET: SYS_RST_N is held low; `cool` says that every sensor reads below 95 °C, without which a thermal trip goes on (R612). The reset
that ends a trip leaves RST_CAUSE at THERMAL (log entry 55). -/
def execSysReset (cool : Bool) (s : State) : Out :=
  let s := { s with pins.sysRst := true }
  if s.pins.thermtrip then .next (if cool then { s with pins.thermtrip := false }.deviceReset 3 else s)
  else .next (s.deviceReset 1)
/-- DEV_RESET. A device held in reset takes no message. -/
def execDevReset (s : State) : Out := .next (if s.pins.thermtrip then s else s.deviceReset 2)

/-! ## Flash (R413, R566, R569, R576) -/

/-- The ageing section as it stands (Table 16.7), and REPAIR. -/
def State.drNow (s : State) (d : DrData) : DrData :=
  { d with cores := (List.range 256).map fun u => (let id := (s.core (coreUnit u)).ctl.id.toNat; (u, bits id 12 5, bits id 8 4)),
           lanes := s.health.lanes, sramRemap := s.health.sramRemap, hbmRepair := s.health.hbmRepair,
           hours := s.health.poweredHours, tjMax := s.health.tjMax,
           margins := (List.range 2).flatMap fun x => (List.range 17).filterMap fun b =>
             let l := s.fld (R.marginLevel x b)
             if l = 0 then none else some (x, b, l)
           residue := s.health.residueEvents, katFails := s.health.katFails, failed := s.health.failed,
           replace := s.flag R.flagReplace, degraded := s.flag R.degraded }
/-- WRITING shows whether a copy of the record is being written. -/
def State.showWriting (s : State) : State :=
  s.setFld R.drWriting (b2n (s.boot.queue.any fun o => match o with | .record _ _ => true | _ => false))
/-- A requested record write starts when none is under way and Steward 0 runs: a new copy, SEQ one above the chosen copy's, over the other copy (R569). -/
def State.recordStart (s : State) : State :=
  match s.boot.chosen with
  | none => s
  | some c =>
    if !s.boot.want ∨ s.flag R.drWriting ∨ s.stewardOff 0 then s
    else
      let r : DevRec := { c with seq := c.seq + 1, hdrOk := true, mfgOk := true, idOk := true, recOk := true, d := s.drNow c.d }
      { s with boot.want := false, boot.queue := s.boot.queue ++ [FlashOp.record (s.fld R.drCopy == 0) r] }.showWriting
/-- Steward 0 runs again: an unfinished write of the record is repeated from step 1, with the sections as they now are (R569). -/
def State.recordAgain (s : State) : State :=
  match s.boot.chosen with
  | none => s
  | some c => { s with boot.queue := s.boot.queue.map fun o => match o with
      | .record b r => .record b (if c.seq < r.seq then { r with d := s.drNow c.d } else r)
      | o => o }
/-- DR_WRITE: a request to write the record; one that arrives during a write is folded into the next copy. -/
def execDrWrite (s : State) : Out := .next s.wantRecord.recordStart

/-- Place a record copy in the flash. -/
def putRec (f : Flash) (b : Bool) (r : DevRec) : Flash := if b then { f with recB := some r } else { f with recA := some r }
/-- Place a package in the flash. -/
def putPkg (f : Flash) (b : Bool) (p : List Byte) : Flash := if b then { f with pkgB := p } else { f with pkgA := p }
/-- A flash write has ended and read back well. -/
def State.flashDone (s : State) (o : FlashOp) : State :=
  match o with
  | .record b r =>
    let s := { s with boot.flash := putRec s.boot.flash b r }
    let newer := match s.boot.chosen with | some c => decide (c.seq < r.seq) | none => true
    if newer then
      let d := match s.boot.chosen with
        | some c => { r.d with rind := c.d.rind, config := c.d.config, spare := c.d.spare, ownerKey := c.d.ownerKey }
        | none => r.d
      let s := { s with boot.flash := { s.boot.flash with rpmc1 := max s.boot.flash.rpmc1 r.seq }, boot.chosen := some { r with d := d } }
      (s.setFld R.drCopy (b2n b)).setWord64 R.drSeq r.seq
    else s
  | .package b p =>
    let s := { s with boot.flash := { putPkg s.boot.flash b p with rpmc0 := max s.boot.flash.rpmc0 (pkgSvn p) } }
    if s.fld R.graftState = 4 then s.graftEnd 0 else s
  | .journal j =>
    let rest := s.boot.flash.journal.filter fun x => !(x.port == j.port && x.op == j.op && x.nsid == j.nsid && x.serial == j.serial)
    { s with boot.flash := { s.boot.flash with journal := (rest ++ [j]).drop (rest.length - 15) } }
/-- A flash write has failed: a record is written again, a Graft ends with FLASH (log entry 56). -/
def State.flashFailed (s : State) (o : FlashOp) : State :=
  match o with
  | .record _ _ => s.wantRecord
  | .package _ _ => if s.fld R.graftState = 4 then s.graftEnd 0xB else s
  | .journal _ => s
/-- A flash write is made by Steward 0: of a package or a record. -/
def FlashOp.ofSteward0 : FlashOp → Bool
  | .journal _ => false
  | _ => true
/-- FLASH_WRITE_DONE: the write under way has ended, well or not, and the next begins. One that Steward 0 makes is repeated after a gap of it, so
that its end in the gap counts for nothing (R554, R569). -/
def execFlashWriteDone (ok : Bool) (s : State) : Out :=
  match s.boot.queue with
  | [] => .next s
  | o :: rest =>
    if s.stewardOff 0 && o.ofSteward0 then .next s else
    let s := { s with boot.queue := rest }.showWriting
    .next ((if ok then s.flashDone o else s.flashFailed o).recordStart)

/-- A list of pairs as numbers, with its length. -/
def pairNums (l : List (Nat × Nat)) : List Nat := l.length :: l.flatMap fun x => [x.1, x.2]
/-- A signed number as two. -/
def intNums (i : Int) : List Nat := [i.toNat, (-i).toNat]
/-- What a section of a record holds, as numbers (Table 21.3). -/
def secNums (d : DrData) (type : Nat) : List Nat :=
  let words := fun (l : List (Nat × Word)) => pairNums (l.map fun x => (x.1, x.2.toNat))
  if type = 1 then
    words d.mfg ++ [d.hbm.refi, d.hbm.rcd, d.hbm.rp, d.hbm.ras, d.hbm.rfcpb] ++
      d.laneConsts.flatMap fun x => x.1 :: (intNums x.2.egress ++ intNums x.2.ingress ++ intNums x.2.asym)
  else if type = 2 then
    d.lanes.length :: d.lanes ++ pairNums d.sramRemap ++ pairNums d.hbmRepair ++ d.cores.flatMap fun x => [x.1, x.2.1, x.2.2]
  else if type = 3 then
    [d.hours, d.tjMax, b2n d.replace, b2n d.degraded] ++ pairNums d.residue ++ pairNums d.katFails ++ d.failed.length :: d.failed ++
      d.margins.flatMap fun x => [x.1, x.2.1, x.2.2]
  else if type = 4 then words d.rind
  else words d.config ++ d.spare :: d.ownerKey.map (·.toNat)
/-- The bytes of a section of a record: their layout within a section is not given (log entry 50). -/
def recSection (r : DevRec) (type : Nat) : List Byte := Config.drSection type (secNums r.d type)
/-- The bytes of a copy of the record before its signatures, little-endian: the 64-byte header, the directory of 16-byte entries, and the five
sections of Table 21.3 (R567). -/
def recBytes (r : DevRec) : List Byte :=
  let secs := [1, 2, 3, 4, 5].map (recSection r)
  let off := fun i => 144 + ((secs.take i).map List.length).sum
  natLe 4 0x52444D4C ++ natLe 1 1 ++ natLe 1 0 ++ natLe 2 5 ++ natLe 8 r.seq ++ natLe 8 r.serial ++ natLe 4 (off 5 + 192) ++
    List.replicate 36 0 ++
  (List.range 5).flatMap (fun i => natLe 2 (i + 1) ++ natLe 2 0 ++ natLe 4 (off i) ++ natLe 4 (secs[i]?.getD []).length ++ natLe 4 0) ++
  secs.flatten

/-- What an accepted DR_UPDATE makes of the sections. -/
def updateSections (d : DrData) (x : DrSection) : DrData :=
  match x with
  | .rind w => { d with rind := w }
  | .config w sp k => { d with config := w, spare := sp, ownerKey := k }
/-- DR_UPDATE (R570): an accepted section is written to the record and takes effect at the next boot; while OWNER_KEY_HASH is zero the key it
carries is installed. SEQ is the chosen copy's (log entry 57). The message waits for Steward 0. -/
def execDrUpdate (u : DrUpdate) (s : State) : Out :=
  match s.boot.chosen with
  | none => .next s
  | some c =>
    if s.stewardOff 0 then .next s else
    let h := sha384 u.key
    let first := c.d.ownerKey.isEmpty && !u.key.isEmpty
    if (first ∨ c.d.ownerKey = h) ∧ Config.ecdsaOk u.key (sha384 (natLe 8 c.seq ++ natLe 8 c.serial ++ u.raw)) u.sig = true then
      let d := updateSections c.d u.section_
      let d := if first then { d with ownerKey := h } else d
      .next (({ s with boot.chosen := some { c with d := d } }.setFld R.drPending 1).wantRecord.recordStart)
    else .next (s.violate 5 0 13 0xFF 11 0 0)

/-- PKG_UPLOAD: in ROM recovery a package is written to slot A; one that verifies is followed by a reset (R577). -/
def execPkgUpload (pkg : List Byte) (s : State) : Out :=
  if !s.flag R.bootRecovery then .next s
  else
    let s := { s with boot.flash := putPkg s.boot.flash false pkg }
    .next (if pkgValid pkg then s.deviceReset 4 else s)

/-! ## Boot (Table 21.5) -/

/-- A copy of the record is valid (R568). -/
def recValid (r : DevRec) (floor : Nat) : Bool := r.hdrOk && r.mfgOk && r.idOk && r.recOk && decide (floor ≤ r.seq)
/-- The valid copy a boot chooses: the higher SEQ, copy A when they are equal (R480). -/
def chooseRec (floor : Nat) (a b : Option DevRec) : Option (Bool × DevRec) :=
  let ok := fun (r : Option DevRec) => match r with | some x => if recValid x floor then some x else none | none => none
  match ok a, ok b with
  | some x, some y => if x.seq < y.seq then some (true, y) else some (false, x)
  | some x, none => some (false, x)
  | none, some y => some (true, y)
  | none, none => none
/-- A package may boot: valid, at or above the floor, and naming all eight Stewards (R564, R565). -/
def bootable (floor : Nat) (p : List Byte) : Bool := pkgValid p && decide (floor ≤ pkgSvn p) && le p 16 1 == 255
/-- The package a boot chooses: the higher SVN, then the higher PKG_SEQ, then slot A. -/
def choosePkg (floor : Nat) (a b : List Byte) : Option (Bool × List Byte) :=
  if bootable floor a then
    (if bootable floor b && (decide (pkgSvn a < pkgSvn b) || (pkgSvn a == pkgSvn b && decide (pkgSeq a < pkgSeq b))) then some (true, b) else some (false, a))
  else if bootable floor b then some (true, b) else none

/-- A record section may set a register: a word of RWL fields, within the section's blocks. -/
def drKey (rind : Bool) (k : Nat) : Bool :=
  (match regInfo k with | some i => i.rwl != 0 | none => false) &&
  (if rind then (0x300008 ≤ k && k < 0x300C00) || (0x20800000 ≤ k && k < 0x20808000)
   else k == 0x600008 || (0x2000000 ≤ k && k < 0x2400000 && k % 0x100000 < 0x10))
/-- Load registers of a section: their RWL fields. -/
def State.drLoad (s : State) (rind : Bool) (l : List (Nat × Word)) : State :=
  l.foldl (fun s x =>
    if drKey rind x.1 then
      match regInfo x.1 with
      | some i => s.setWord x.1 ((s.csr.get x.1 &&& ~~~(BitVec.ofNat 32 i.rwl)) ||| (x.2 &&& BitVec.ofNat 32 i.rwl))
      | none => s
    else s) s
/-- WORK_MIB of a spare code. -/
def workMib (spare : Nat) : Nat := if spare = 1 then 27648 else if spare = 2 then 18432 else 36864

/-- Step 5: the memories are cleared, and MFG, REPAIR, CONFIG and AGEING are applied (R614, R219). -/
def State.bootApply (s : State) (r : DevRec) : State :=
  let d := r.d
  let s := { s with hbm := Ram.empty, bmem := Vector.replicate 32 Ram.empty, lmem := Vector.replicate 264 Ram.empty,
                    imem := Vector.replicate 264 Ram.empty }
  let s := (s.drLoad false d.mfg).drLoad false d.config
  let s := (s.setFld R.hbmSpare d.spare).setFld R.hbmWorkMib (workMib d.spare)
  let s := d.cores.foldl (fun s c => s.modCore (coreUnit c.1) fun k =>
    { k with ctl.id := BitVec.ofNat 32 (putBits (putBits k.ctl.id.toNat 8 4 c.2.2) 12 5 c.2.1) }) s
  let used := fun (x : Nat) => d.cores.any fun c => c.1 / 128 == x && c.2.1 == 16
  let s := s.countSpares.setFld R.spareBunchUsed (b2n (used 0) + 2 * b2n (used 1))
  let s := d.margins.foldl (fun s m => s.setFld (R.marginLevel m.1 m.2.1) m.2.2) s
  let s := (s.setFld R.flagReplace (b2n d.replace)).setFld R.degraded (b2n d.degraded)
  let s : State := { s with hbmCtl := s.hbmCtl.map fun h => { h with tim := d.hbm }, time.consts := d.laneConsts }
  { s with health := { s.health with lanes := d.lanes, sramRemap := d.sramRemap.foldl (fun l x => addRow x l) [], hbmRepair := d.hbmRepair, poweredHours := d.hours, tjMax := d.tjMax,
                                     residueEvents := d.residue, katFails := d.katFails, failed := d.failed } }
/-- Step 6: the Rind and the domains, each Steward's fence copied from its domain, and the lock (R542, R547). -/
def State.bootRind (s : State) (r : DevRec) : State :=
  let s := s.drLoad true r.d.rind
  let s := (List.range 8).foldl (fun s n => s.modCore (stewardUnit n) fun c =>
    { c with ctl.fenceLo := BitVec.ofNat 32 (s.fld (R.domFenceLo n)), ctl.fenceHi := BitVec.ofNat 32 (s.fld (R.domFenceHi n)) }) s
  s.rindLockNow.showCap
/-- Step 7 and R576: the Stewards are loaded and started; the counters rise; an invalid record copy is rewritten; the journal is read (R414). -/
def State.bootStart (s : State) (r : DevRec) (b : Bool) (p : List Byte) (aOk bOk differ : Bool) : State :=
  let ims := Vector.ofFn fun (n : Fin 8) => pkgImage p n.val
  let s := (List.range 8).foldl (fun s n => s.runSteward n (s.fwImage n) 0 0) { s with fw.images := ims }
  let s := ((s.setFld R.bootPkgSlot (b2n b)).setFld R.bootStep 7).setFld R.bootDone 1
  let f := s.boot.flash
  let s := { s with boot.flash := { f with rpmc0 := max f.rpmc0 (pkgSvn p), rpmc1 := max f.rpmc1 r.seq },
                    pins.accPerst := Vector.replicate 8 true, pins.storPerst := Vector.replicate 8 true }
  let s := if !aOk then { s with boot.queue := s.boot.queue ++ [FlashOp.record false r] } else s
  let s := if !bOk || differ then { s with boot.queue := s.boot.queue ++ [FlashOp.record true r] } else s
  (List.range 8).foldl State.showSan ({ s with blk.journal := s.boot.flash.journal }.showWriting)

/-- Steps 2 to 7 on the chosen record. -/
def State.bootSteps (s : State) (i : BootIn) (c : Bool × DevRec) (aOk bOk : Bool) : State :=
  let f := s.boot.flash
  let r := c.2
  let differ := aOk && bOk && (match f.recA, f.recB with | some x, some y => x.seq == y.seq && x != y | _, _ => false)
  let s := { s with boot.chosen := some r }.setFld R.drCopy (b2n c.1)
  let s := (((s.setWord64 R.drSeq r.seq).setWord64 R.devSerial r.serial).setFld R.bootStep 2)
  let s := if differ then s.report 0x0D 0x8000 0 else s
  match choosePkg f.rpmc0 f.pkgA f.pkgB with
  | none => s.setFld R.bootRecovery 1
  | some (b, p) =>
    let s := { s with boot.digest := sha384 p }.setFld R.bootStep 4
    if !i.hwOk then s.setFld R.bootErr 4
    else
      let s := (((s.bootApply r).setFld R.bootStep 5).bootRind r).setFld R.bootStep 6
      s.bootStart r b p aOk bOk differ

/-- BOOT: the reset ends, the straps are sampled, and Steward 0 performs the steps of Table 21.5 from mask ROM. A device that has booted, has
stopped its boot, is in recovery or is held in reset does nothing. -/
def execBoot (i : BootIn) (s : State) : Out :=
  if s.flag R.bootDone ∨ s.fld R.bootErr ≠ 0 ∨ s.flag R.bootRecovery ∨ s.pins.thermtrip then .next s
  else
    let tap := match s.pins.tap with | .extest => Tap.bypass | .extestPulse => Tap.bypass | .extestTrain => Tap.bypass | x => x
    let s := { s with pins.sysRst := false, pins.tap := tap, boot.flash := i.flash.getD s.boot.flash }
    let s := s.setFld R.twinSide (b2n i.side)
    if i.testEn then .next (s.setFld R.bootErr 4)
    else if !i.flashOk then .next (s.setFld R.bootErr 1)
    else if !i.pllOk then .next (s.setFld R.bootErr 4)
    else
      let s := s.setFld R.bootStep 1
      let f := s.boot.flash
      let ok := fun (x : Option DevRec) => match x with | some x => recValid x f.rpmc1 | none => false
      let s := (s.setFld R.drAValid (b2n (ok f.recA))).setFld R.drBValid (b2n (ok f.recB))
      if f.recA.isNone ∧ f.recB.isNone then .next (s.setFld R.bootErr 2)
      else if !i.pufOk then .next (s.setFld R.bootErr 3)
      else match chooseRec f.rpmc1 f.recA f.recB with
        | none => .next (s.setFld R.bootErr 2)
        | some c => .next (s.bootSteps i c (ok f.recA) (ok f.recB))

/-! ## Attestation (R578, Table 21.6) -/

/-- An SPDM response (R578); the codes are those of SPDM 1.2 (log entry 58). -/
def State.spdmSend (s : State) (code : Nat) (d : List Byte) : State := s.emit (.spdm code d)
/-- An SPDM ERROR: 1 invalid request, 4 unexpected request, 5 session limit. -/
def State.spdmErr (s : State) (e : Nat) : State := s.spdmSend 0x7F [BitVec.ofNat 8 e]
/-- The responder is served on a transport: Steward 0 runs, after boot on both and in ROM recovery over MCTP alone (R577, R578). -/
def State.spdmUp (s : State) (doe : Bool) : Bool := !s.stewardGone 0 && (s.flag R.bootDone || (s.flag R.bootRecovery && !doe))
/-- The certificate chain of slot 0. -/
def State.chain (s : State) : List Byte := Config.certChain s.boot.digest (s.csr.get64 R.devSerial)
/-- How far a connection has come. -/
def State.spdmConn (s : State) (doe : Bool) : Nat := s.spdm.conn[b2n (!doe)]'(by unfold b2n; split <;> decide)
/-- A connection reaches a stage. -/
def State.spdmTo (s : State) (doe : Bool) (k : Nat) : State :=
  { s with spdm.conn := s.spdm.conn.set (b2n (!doe)) k (by unfold b2n; split <;> decide) }
/-- A session of a transport that is up. -/
def State.spdmIn (s : State) (doe : Bool) (n : Nat) : Bool := s.spdm.sessions.any fun x => x.id == n && x.doe == doe && x.up
/-- Answer a request that needs a negotiated connection, in a session or outside. -/
def State.spdmReq (s : State) (doe : Bool) (sess : Option (Fin 4)) (f : State → State) : State :=
  if !s.spdmUp doe then s
  else if s.spdmConn doe < 3 then s.spdmErr 4
  else match sess with
    | some n => if s.spdmIn doe n.val then f s else s.spdmErr 1
    | none => f s
/-- Bytes that the spec does not give, drawn as free values. -/
def State.spdmFree (s : State) (code n : Nat) (d : List Byte) : State :=
  ({ s with fresh := s.fresh + 1 } : State).spdmSend code (d ++ Config.freeBytes n s.fresh)

/-- SPDM_GET_VERSION: the connection starts anew, and version 1.2 is answered. -/
def execSpdmGetVersion (doe : Bool) (s : State) : Out :=
  if !s.spdmUp doe then .next s else .next ((s.spdmTo doe 1).spdmSend 0x04 (natLe 1 0 ++ natLe 1 1 ++ natLe 2 0x1200))
/-- SPDM_GET_CAPABILITIES. -/
def execSpdmGetCapabilities (doe : Bool) (s : State) : Out :=
  if !s.spdmUp doe then .next s
  else if s.spdmConn doe = 1 then .next ((s.spdmTo doe 2).spdmFree 0x61 8 []) else .next (s.spdmErr 4)
/-- SPDM_NEGOTIATE_ALGORITHMS. -/
def execSpdmNegotiateAlgorithms (doe : Bool) (s : State) : Out :=
  if !s.spdmUp doe then .next s
  else if s.spdmConn doe = 2 then .next ((s.spdmTo doe 3).spdmFree 0x63 8 []) else .next (s.spdmErr 4)
/-- SPDM_GET_DIGESTS: slot 0 is provisioned. -/
def execSpdmGetDigests (doe : Bool) (sess : Option (Fin 4)) (s : State) : Out :=
  .next (s.spdmReq doe sess fun s => s.spdmSend 0x01 (natLe 1 1 ++ sha384 s.chain))
/-- SPDM_GET_CERTIFICATE: a part of the chain of slot 0. -/
def execSpdmGetCertificate (doe : Bool) (sess : Option (Fin 4)) (slot off len : Nat) (s : State) : Out :=
  .next (s.spdmReq doe sess fun s =>
    if slot ≠ 0 then s.spdmErr 1
    else
      let c := s.chain
      let n := min len (c.length - off)
      s.spdmSend 0x02 (natLe 2 n ++ natLe 2 (c.length - off - n) ++ slice c off n))
/-- SPDM_CHALLENGE: the answer is signed with the Alias key. -/
def execSpdmChallenge (doe : Bool) (slot : Nat) (nonce : List Byte) (s : State) : Out :=
  .next (s.spdmReq doe none fun s =>
    if slot ≠ 0 then s.spdmErr 1
    else
      let d := sha384 s.chain ++ nonce
      ({ s with fresh := s.fresh + 1 } : State).spdmSend 0x03 (sha384 s.chain ++ Config.ecdsaSign 1 (sha384 d) s.fresh))
/-- A measurement (Table 21.6), as a digest: 1 is the mask ROM, whose bytes the spec does not give, and 10 the REPAIR, RIND and CONFIG sections. -/
def State.measure (s : State) (i : Nat) : List Byte :=
  if 2 ≤ i ∧ i ≤ 9 then (let im := s.fwImage (i - 2); sha384 (im.text ++ im.data))
  else if i = 11 then sha384 (natLe 8 (match s.beat.running with | some im => im.imageId | none => 0))
  else if i = 10 then sha384 (match s.boot.chosen with | some r => [2, 4, 5].flatMap (recSection r) | none => [])
  else Config.freeBytes 48 0
/-- SPDM_GET_MEASUREMENTS: index 0 asks for their number, 1 to 11 for one, 255 for all; the answer is signed on request. -/
def execSpdmGetMeasurements (doe : Bool) (sess : Option (Fin 4)) (index : Nat) (sign : Bool) (nonce : List Byte) (s : State) : Out :=
  .next (s.spdmReq doe sess fun s =>
    let d : Option (List Byte) :=
      if index = 0 then some (natLe 1 11)
      else if index = 255 then some ((List.range 11).flatMap fun i => natLe 1 (i + 1) ++ s.measure (i + 1))
      else if index ≤ 11 then some (natLe 1 index ++ s.measure index) else none
    match d with
    | none => s.spdmErr 1
    | some d =>
      if sign then ({ s with fresh := s.fresh + 1 } : State).spdmSend 0x60 (d ++ Config.ecdsaSign 1 (sha384 (d ++ nonce)) s.fresh) else s.spdmSend 0x60 d)
/-- SPDM_KEY_EXCHANGE: a session opens when one of the four is free. -/
def execSpdmKeyExchange (doe : Bool) (slot : Nat) (data : List Byte) (s : State) : Out :=
  .next (s.spdmReq doe none fun s =>
    if slot ≠ 0 then s.spdmErr 1
    else match (List.range 4).find? fun n => !s.spdm.sessions.any fun x => x.id == n with
      | none => s.spdmErr 5
      | some n =>
        let s : State := { s with spdm.sessions := s.spdm.sessions ++ [{ id := n, doe := doe, up := false }] }
        let pub := Config.freeBytes 96 s.fresh
        ({ s with fresh := s.fresh + 1 } : State).spdmSend 0x64 (natLe 2 n ++ pub ++ Config.ecdsaSign 1 (sha384 (data ++ pub)) s.fresh))
/-- SPDM_FINISH: `ok` says that the requester's verify data agree. -/
def execSpdmFinish (doe : Bool) (sess : Fin 4) (ok : Bool) (s : State) : Out :=
  .next (s.spdmReq doe none fun s =>
    if !s.spdm.sessions.any (fun x => x.id == sess.val && x.doe == doe && !x.up) then s.spdmErr 1
    else
      let rest := s.spdm.sessions.filter fun x => x.id != sess.val
      if ok then ({ s with spdm.sessions := rest ++ [{ id := sess.val, doe := doe, up := true }] } : State).spdmSend 0x65 []
      else ({ s with spdm.sessions := rest } : State).spdmErr 6)
/-- SPDM_HEARTBEAT. -/
def execSpdmHeartbeat (doe : Bool) (sess : Fin 4) (s : State) : Out := .next (s.spdmReq doe (some sess) fun s => s.spdmSend 0x68 [])
/-- SPDM_KEY_UPDATE. -/
def execSpdmKeyUpdate (doe : Bool) (sess : Fin 4) (s : State) : Out := .next (s.spdmReq doe (some sess) fun s => s.spdmSend 0x69 [])
/-- SPDM_END_SESSION. -/
def execSpdmEndSession (doe : Bool) (sess : Fin 4) (s : State) : Out :=
  .next (s.spdmReq doe (some sess) fun s =>
    ({ s with spdm.sessions := s.spdm.sessions.filter fun x => x.id != sess.val } : State).spdmSend 0x6C [])
/-- GET_KEK: the key-encryption key of a READY instance, in a session opened over DOE (R573). -/
def execGetKek (doe : Bool) (sess : Fin 4) (i : InstId) (s : State) : Out :=
  .next (s.spdmReq doe (some sess) fun s =>
    if !doe then s.spdmErr 1
    else match (SMap.get (fun _ => none) s.inst.keks i.val : Option (BitVec 256)) with
      | some k => s.spdmSend 0x7E (keyBytes k)
      | none => s.spdmErr 1)

end Sys2Proof.Machine
end

