-- ==== Sys2Proof/Machine/CoreCtl.lean ====
section
/-! DEFINITION. The control block of a core or Steward: CORE_CTL and its commands, CORE_STAT, the start registers, and the register window
(spec/03 R106, R121 to R127, R662, Tables 3.12 to 3.14; spec/27 R648, R657, Table 27.7). -/

namespace Sys2Proof.Machine

/-! ## The commands of CORE_CTL (Table 3.14) -/

/-- A command, a register-window write or an I-space write is refused: CMD_ERR. -/
def State.cmdErr (s : State) (u : UnitId) : State := s.modCore u fun c => { c with run.cmdErr := true }
/-- RESUME: a halted unit continues at PC. -/
def State.coreResume (s : State) (u : UnitId) : State :=
  match (s.core u).run.state with
  | .halted => s.modCore u fun c => { c with run.state := .running, run.reason := .none }
  | _ => s.cmdErr u
/-- STEP begins: a halted unit runs for one instruction, pip pair or REP repetition (R662). -/
def State.stepBegin (s : State) (u : UnitId) : State :=
  match (s.core u).run.state with
  | .halted => s.modCore u fun c => { c with run.state := .running, run.reason := .none, run.stepping := true }
  | _ => s.cmdErr u
/-- RESET, in any state (R124, R186). -/
def State.coreReset (s : State) (u : UnitId) : State := (s.clearPeers u).modCore u fun c => c.resetCmd u

/-- A write to CORE_CTL: one command bit acts, none is no command, and more than one are refused (R121). -/
def State.coreCtl (s : State) (u : UnitId) (v : Word) : State :=
  let n := v.toNat % 32
  if n = 0 then s
  else if n = 1 then s.startCore u
  else if n = 2 then s.coreResume u
  else if n = 4 then s.haltReq u
  else if n = 8 then s.stepBegin u
  else if n = 16 then s.coreReset u
  else s.cmdErr u

/-! ## The register window (R122, R657) -/

/-- The window of a unit answers: it is in RESET or HALTED. -/
def Core.windowOpen (c : Core) : Bool := c.run.state == .reset || c.run.state == .halted

/-- The private-region key of a control-block word (Table 27.6). -/
def ctlKey (u : UnitId) (o : Nat) : Nat := (if u.val < 256 then 0x20000000 + 0x1000 * u.val else 0x20300000 + 0x1000 * (u.val - 256)) + o

/-- An offset of the register window is assigned. -/
def windowListed (o : Nat) : Bool :=
  o % 4 == 0 && ((0x400 ≤ o && o < 0x4E0) || (0x800 ≤ o && o < 0xC00 && crListed ((o - 0x800) / 4)))

/-- The low or high word of an accumulator in its 8-byte form (R76). -/
def accWord (v : BitVec 40) (hi : Bool) : Word :=
  let d : DWord := v.signExtend 64
  if hi then (d >>> 32).truncate 32 else d.truncate 32

/-- A word of the register window as it stands. -/
def Core.window (c : Core) (o : Nat) : Word :=
  if o < 0x480 then c.getG (BitVec.ofNat 5 ((o - 0x400) / 4))
  else if o < 0x4C0 then accWord (c.getAcc (BitVec.ofNat 3 ((o - 0x480) / 8))) (o % 8 == 4)
  else if o < 0x4E0 then BitVec.ofNat 32 (b2n (c.getP (BitVec.ofNat 3 ((o - 0x4C0) / 4))))
  else c.getCr ((o - 0x800) / 4)

/-- A read of the window: zero while the unit runs or waits; the low word of an accumulator latches the high word (R648). -/
def State.windowRead (s : State) (u : UnitId) (o : Nat) : State × Word :=
  let c := s.core u
  if c.windowOpen = false then (s, 0)
  else if 0x480 ≤ o ∧ o < 0x4C0 then
    let key := ctlKey u (o / 8 * 8)
    if o % 8 = 0 then ({ s with wide.latch := SMap.set (fun _ => none) s.wide.latch (key + 4) (some (c.window (o + 4))) }, c.window o)
    else (s, (SMap.get (fun _ => none) s.wide.latch (key + 4)).getD 0)
  else (s, c.window o)

/-- A write to an accumulator of the window: the low word is held, the high word commits (R648). -/
def State.windowAcc (s : State) (u : UnitId) (o : Nat) (v : Word) : State :=
  let key := ctlKey u (o / 8 * 8)
  if o % 8 = 0 then { s with wide.hold := SMap.set (fun _ => none) s.wide.hold key (some v) }
  else
    let lo := (SMap.get (fun _ => none) s.wide.hold key).getD ((s.core u).window (o / 8 * 8))
    let d : DWord := v ++ lo
    { s with wide.hold := SMap.set (fun _ => none) s.wide.hold key none }.modCore u
      fun c => c.setAcc (BitVec.ofNat 3 ((o - 0x480) / 8)) (d.truncate 40)

/-- A write of the window: refused with CMD_ERR while the unit runs or waits, and when it would place a reserved code in DEF_RM; otherwise
it acts under the register's access code (R122). What the hardware sets in CORE_STATUS in the same cycle stays set (R9, R98). -/
def State.windowWrite (s : State) (u : UnitId) (o : Nat) (v hw : Word) : State :=
  if (s.core u).windowOpen = false then s.cmdErr u
  else if o < 0x480 then s.modCore u fun c => c.setG (BitVec.ofNat 5 ((o - 0x400) / 4)) v
  else if o < 0x4C0 then s.windowAcc u o v
  else if o < 0x4E0 then s.modCore u fun c => c.setP (BitVec.ofNat 3 ((o - 0x4C0) / 4)) (v.getLsbD 0)
  else if o = 0x804 ∧ badDefRm v then s.cmdErr u
  else if o = 0x808 then
    s.modCore u fun c => let d := c.setCr 2 v; { d with ctl.status := d.ctl.status ||| (hw &&& 0xF#32) }
  else s.modCore u fun c => c.setCr ((o - 0x800) / 4) v

/-! ## The control block (R657, Table 27.7) -/

/-- A start argument. -/
def Core.arg (c : Core) (i : Nat) : Word := c.run.args.toList[i]?.getD 0

/-- A control-block word, or none where nothing is assigned. -/
def State.ctlRead (s : State) (u : UnitId) (o : Nat) : Option (State × Word) :=
  let c := s.core u
  if o = 0x000 then some (s, 0)
  else if o = 0x004 then some (s, BitVec.ofNat 32 c.stat)
  else if o = 0x008 then some (s, c.run.entry.zeroExtend 32)
  else if o = 0x00C then some (s, c.run.owner.zeroExtend 32)
  else if o % 4 = 0 ∧ 0x010 ≤ o ∧ o < 0x020 then some (s, c.arg ((o - 0x010) / 4))
  else if o = 0x020 then some (s, c.ctl.fenceLo)
  else if o = 0x024 then some (s, c.ctl.fenceHi)
  else if windowListed o then some (s.windowRead u o)
  else none

/-- A write of a control-block word, or none where nothing is assigned; `hw` is what the hardware sets in the same cycle (R9). -/
def State.ctlWrite (s : State) (u : UnitId) (o : Nat) (v hw : Word) : Option State :=
  if o = 0x000 then some (s.coreCtl u v)
  else if o = 0x004 then
    some (s.modCore u fun c => { c with run.cmdErr := (c.run.cmdErr && !v.getLsbD 6) || hw.getLsbD 6 })
  else if o = 0x008 then some (s.modCore u fun c => { c with run.entry := (v.truncate 16) &&& 0xFFFC#16 })
  else if o = 0x00C then some (s.modCore u fun c => { c with run.owner := v.truncate 3 })
  else if h : o % 4 = 0 ∧ 0x010 ≤ o ∧ o < 0x020 then
    some (s.modCore u fun c => { c with run.args := c.run.args.set ((o - 0x010) / 4) v (by omega) })
  else if o = 0x020 then some (s.modCore u fun c => { c with ctl.fenceLo := v &&& 0x3FFFF#32 })
  else if o = 0x024 then some (s.modCore u fun c => { c with ctl.fenceHi := v &&& 0x3FFFF#32 })
  else if windowListed o then some (s.windowWrite u o v hw)
  else none

/-! ## The commands of the table -/

/-- CORE_START. -/
def execCoreStart (u : UnitId) (s : State) : Out := .next (s.startCore u)
/-- CORE_RESUME. -/
def execCoreResume (u : UnitId) (s : State) : Out := .next (s.coreResume u)
/-- CORE_HALT_REQ. -/
def execCoreHaltReq (u : UnitId) (s : State) : Out := .next (s.haltReq u)
/-- CORE_RESET. -/
def execCoreReset (u : UnitId) (s : State) : Out := .next (s.coreReset u)
/-- HALT_MESSAGE_LATCH_RELEASE: the latched halt message enters the queue once it has room (R544). -/
def execHaltMessageLatchRelease (u : UnitId) (s : State) : Out := .next (s.releaseHaltMsg u)

end Sys2Proof.Machine
end

