-- ==== Sys2Proof/Machine/Isa.lean ====
section
/-! DEFINITION. The instruction words of a core: reading one into its operation, and the word of an operation (spec/03 Table 3.2; spec/05
R164, Tables 5.1 and 5.2). -/

namespace Sys2Proof.Machine

/-- The field [lo + w − 1 : lo] of a word. -/
def fieldOf (x : Word) (lo w : Nat) : BitVec w := (x >>> lo).truncate w

/-- Formats of Table 5.1, read from a word. -/
def readN (x : Word) : FN := ⟨fieldOf x 0 21⟩
def readRR (x : Word) : FRR := ⟨fieldOf x 16 5, fieldOf x 11 5, fieldOf x 6 5, fieldOf x 3 3, x.getLsbD 2, fieldOf x 0 2⟩
def readRS (x : Word) : FRS := ⟨fieldOf x 16 5, fieldOf x 11 5, fieldOf x 6 5, fieldOf x 3 3, fieldOf x 0 3⟩
def readRI (x : Word) : FRI := ⟨fieldOf x 16 5, fieldOf x 11 5, x.getLsbD 10, fieldOf x 0 10⟩
def readI16 (x : Word) : FI16 := ⟨fieldOf x 16 5, fieldOf x 0 16⟩
def readPC (x : Word) : FPC := ⟨fieldOf x 18 3, fieldOf x 15 3, fieldOf x 10 5, fieldOf x 5 5, fieldOf x 0 5⟩
def readPCI (x : Word) : FPCI := ⟨fieldOf x 18 3, fieldOf x 15 3, fieldOf x 10 5, fieldOf x 0 10⟩
def readAC (x : Word) : FAC := ⟨fieldOf x 18 3, fieldOf x 13 5, fieldOf x 8 5, fieldOf x 5 3, x.getLsbD 4, fieldOf x 0 4⟩
def readAR (x : Word) : FAR := ⟨fieldOf x 18 3, fieldOf x 13 5, fieldOf x 0 13⟩
def readAA (x : Word) : FAA := ⟨fieldOf x 18 3, fieldOf x 15 3, x.getLsbD 14, fieldOf x 0 14⟩
def readEX (x : Word) : FEX := ⟨fieldOf x 16 5, fieldOf x 13 3, fieldOf x 9 4, fieldOf x 6 3, x.getLsbD 5, fieldOf x 0 5⟩
def readM (x : Word) : FM := ⟨fieldOf x 16 5, fieldOf x 11 5, fieldOf x 9 2, x.getLsbD 8, fieldOf x 6 2, fieldOf x 0 6⟩
def readMA (x : Word) : FMA := ⟨fieldOf x 18 3, fieldOf x 16 2, fieldOf x 11 5, fieldOf x 8 3, fieldOf x 6 2, fieldOf x 0 6⟩
def readIO (x : Word) : FIO := ⟨fieldOf x 16 5, fieldOf x 0 16⟩
def readCR (x : Word) : FCR := ⟨fieldOf x 16 5, fieldOf x 8 8, fieldOf x 0 8⟩
def readB (x : Word) : FB := ⟨fieldOf x 16 5, fieldOf x 0 16⟩
def readJ (x : Word) : FJ := ⟨fieldOf x 16 5, fieldOf x 11 5, fieldOf x 0 11⟩
def readL (x : Word) : FL := ⟨fieldOf x 16 5, fieldOf x 14 2, fieldOf x 0 14⟩
def readREP (x : Word) : FREP := ⟨fieldOf x 16 5, fieldOf x 0 16⟩
/-- A pip of 14 bits (R88). -/
def readPip (x : BitVec 14) : Pip := ⟨(x >>> 10).truncate 4, (x >>> 5).truncate 5, x.truncate 5⟩

/-- The operation of a long word by its OP (Table 5.2). -/
def readLong (x : Word) : CoreOp :=
  match (fieldOf x 21 6).toNat with
  | 0x00 => .nop (readN x) | 0x01 => .add (readRR x) | 0x02 => .sub (readRR x) | 0x03 => .and (readRR x)
  | 0x04 => .or (readRR x) | 0x05 => .xor (readRR x) | 0x06 => .shl (readRR x) | 0x07 => .shr (readRR x)
  | 0x08 => .sar (readRR x) | 0x09 => .min (readRR x) | 0x0A => .max (readRR x) | 0x0B => .minu (readRR x)
  | 0x0C => .maxu (readRR x) | 0x0D => .mul (readRR x) | 0x0E => .mulh (readRR x) | 0x0F => .mulhu (readRR x)
  | 0x10 => .fmul (readRR x) | 0x11 => .esadd (readRR x) | 0x12 => .esaddD (readRR x) | 0x13 => .sel (readRS x)
  | 0x14 => .addi (readRI x) | 0x15 => .andi (readRI x) | 0x16 => .ori (readRI x) | 0x17 => .xori (readRI x)
  | 0x18 => .movi (readI16 x) | 0x19 => .movhi (readI16 x) | 0x1A => .cmp (readPC x) | 0x1B => .cmpi (readPCI x)
  | 0x1C => .mac (readAC x) | 0x1D => .msu (readAC x) | 0x1E => .ext (readEX x) | 0x1F => .accset (readAR x)
  | 0x20 => .accclr (readAR x) | 0x21 => .accadd (readAA x) | 0x22 => .ld (readM x) | 0x23 => .st (readM x)
  | 0x24 => .lda (readMA x) | 0x25 => .sta (readMA x) | 0x26 => .fence (readN x) | 0x27 => .inn (readIO x)
  | 0x28 => .out (readIO x) | 0x29 => .mfc (readCR x) | 0x2A => .mtc (readCR x) | 0x2B => .br (readB x)
  | 0x2C => .call (readB x) | 0x2D => .jmp (readJ x) | 0x2E => .callr (readJ x) | 0x2F => .ret (readN x)
  | 0x30 => .eret (readN x) | 0x31 => .halt (readN x) | 0x32 => .brk (readN x) | 0x33 => .loop (readL x)
  | 0x34 => .loopx (readN x) | 0x35 => .lpop (readN x) | 0x36 => .rep (readREP x)
  | _ => .reserved (fieldOf x 21 6) (fieldOf x 0 21)

/-- An instruction word read (Table 3.2). -/
def decodeWord (x : Word) : CoreWord :=
  if x.getLsbD 31 then
    { pred := fieldOf x 28 3, neg := false, op := .pair (readPip (fieldOf x 14 14)) (readPip (fieldOf x 0 14)) }
  else { pred := fieldOf x 28 3, neg := x.getLsbD 27, op := readLong x }

/-! ## The word of an operation -/

/-- One bit. -/
def bit1 (b : Bool) : BitVec 1 := BitVec.ofBool b

/-- Formats of Table 5.1 as 21 bits. -/
def wordN (f : FN) : BitVec 21 := f.rsv
def wordRR (f : FRR) : BitVec 21 := f.d ++ f.a ++ f.b ++ f.rm ++ bit1 f.sat ++ f.rsv
def wordRS (f : FRS) : BitVec 21 := f.d ++ f.a ++ f.b ++ f.ps ++ f.rsv
def wordRI (f : FRI) : BitVec 21 := f.d ++ f.a ++ bit1 f.sat ++ f.imm
def wordI16 (f : FI16) : BitVec 21 := f.d ++ f.imm
def wordPC (f : FPC) : BitVec 21 := f.pd ++ f.cond ++ f.a ++ f.b ++ f.rsv
def wordPCI (f : FPCI) : BitVec 21 := f.pd ++ f.cond ++ f.a ++ f.imm
def wordAC (f : FAC) : BitVec 21 := f.acc ++ f.a ++ f.b ++ f.rm ++ bit1 f.sat ++ f.rsv
def wordAR (f : FAR) : BitVec 21 := f.acc ++ f.a ++ f.rsv
def wordAA (f : FAA) : BitVec 21 := f.acc ++ f.accs ++ bit1 f.sat ++ f.rsv
def wordEX (f : FEX) : BitVec 21 := f.d ++ f.acc ++ f.sh ++ f.rm ++ bit1 f.sat ++ f.rsv
def wordM (f : FM) : BitVec 21 := f.t ++ f.base ++ f.size ++ bit1 f.sx ++ f.mode ++ f.off
def wordMA (f : FMA) : BitVec 21 := f.acc ++ f.rsv1 ++ f.base ++ f.rsv2 ++ f.mode ++ f.off
def wordIO (f : FIO) : BitVec 21 := f.t ++ f.port
def wordCR (f : FCR) : BitVec 21 := f.t ++ f.rsv ++ f.c
def wordB (f : FB) : BitVec 21 := f.rsv ++ f.off
def wordJ (f : FJ) : BitVec 21 := f.rsv1 ++ f.a ++ f.rsv2
def wordL (f : FL) : BitVec 21 := f.a ++ f.rsv ++ f.eoff
def wordREP (f : FREP) : BitVec 21 := f.a ++ f.rsv
/-- A pip as 14 bits. -/
def wordPip (q : Pip) : BitVec 14 := q.op ++ q.d ++ q.s

/-- OP and [20:0] of a long operation; of a pair, nothing. -/
def longBits : CoreOp → BitVec 27
  | .nop f => 0x00#6 ++ wordN f | .add f => 0x01#6 ++ wordRR f | .sub f => 0x02#6 ++ wordRR f | .and f => 0x03#6 ++ wordRR f
  | .or f => 0x04#6 ++ wordRR f | .xor f => 0x05#6 ++ wordRR f | .shl f => 0x06#6 ++ wordRR f | .shr f => 0x07#6 ++ wordRR f
  | .sar f => 0x08#6 ++ wordRR f | .min f => 0x09#6 ++ wordRR f | .max f => 0x0A#6 ++ wordRR f | .minu f => 0x0B#6 ++ wordRR f
  | .maxu f => 0x0C#6 ++ wordRR f | .mul f => 0x0D#6 ++ wordRR f | .mulh f => 0x0E#6 ++ wordRR f
  | .mulhu f => 0x0F#6 ++ wordRR f | .fmul f => 0x10#6 ++ wordRR f | .esadd f => 0x11#6 ++ wordRR f
  | .esaddD f => 0x12#6 ++ wordRR f | .sel f => 0x13#6 ++ wordRS f | .addi f => 0x14#6 ++ wordRI f | .andi f => 0x15#6 ++ wordRI f
  | .ori f => 0x16#6 ++ wordRI f | .xori f => 0x17#6 ++ wordRI f | .movi f => 0x18#6 ++ wordI16 f | .movhi f => 0x19#6 ++ wordI16 f
  | .cmp f => 0x1A#6 ++ wordPC f | .cmpi f => 0x1B#6 ++ wordPCI f | .mac f => 0x1C#6 ++ wordAC f | .msu f => 0x1D#6 ++ wordAC f
  | .ext f => 0x1E#6 ++ wordEX f | .accset f => 0x1F#6 ++ wordAR f | .accclr f => 0x20#6 ++ wordAR f
  | .accadd f => 0x21#6 ++ wordAA f | .ld f => 0x22#6 ++ wordM f | .st f => 0x23#6 ++ wordM f | .lda f => 0x24#6 ++ wordMA f
  | .sta f => 0x25#6 ++ wordMA f | .fence f => 0x26#6 ++ wordN f | .inn f => 0x27#6 ++ wordIO f | .out f => 0x28#6 ++ wordIO f
  | .mfc f => 0x29#6 ++ wordCR f | .mtc f => 0x2A#6 ++ wordCR f | .br f => 0x2B#6 ++ wordB f | .call f => 0x2C#6 ++ wordB f
  | .jmp f => 0x2D#6 ++ wordJ f | .callr f => 0x2E#6 ++ wordJ f | .ret f => 0x2F#6 ++ wordN f | .eret f => 0x30#6 ++ wordN f
  | .halt f => 0x31#6 ++ wordN f | .brk f => 0x32#6 ++ wordN f | .loop f => 0x33#6 ++ wordL f | .loopx f => 0x34#6 ++ wordN f
  | .lpop f => 0x35#6 ++ wordN f | .rep f => 0x36#6 ++ wordREP f | .reserved op r => op ++ r | .pair _ _ => 0

/-- The word of an operation under its guard. -/
def encodeWord (w : CoreWord) : Word :=
  match w.op with
  | .pair p q => 1#1 ++ w.pred ++ wordPip p ++ wordPip q
  | op => 0#1 ++ w.pred ++ bit1 w.neg ++ longBits op

/-- What a word spells is unique: a pair has no NEG, and a reserved OP lies above 0x36. -/
def CoreWord.wf (w : CoreWord) : Bool :=
  match w.op with
  | .pair _ _ => !w.neg
  | .reserved op _ => decide (0x37 ≤ op.toNat)
  | _ => true

end Sys2Proof.Machine
end

