-- ==== Sys2Proof/Machine/Tele.lean ====
section
/-! DEFINITION. Telemetry: records, samples, the rings and the subscription they are sent to (spec/22 R583 to R590). -/

namespace Sys2Proof.Machine

/-! ## Records (R586, Table 22.4) -/

/-- A telemetry record: TYPE, INSTANCE, SOURCE, TIME and its body. -/
structure TeleRec where
  typ : Nat
  inst : Nat
  source : Nat
  time : Nat
  season : Nat
  body : List Byte
  deriving DecidableEq, Repr

/-- The bytes of a record. -/
def TeleRec.bytes (r : TeleRec) : List Byte :=
  natLe 1 1 ++ natLe 1 0 ++ natLe 2 r.typ ++ natLe 4 (24 + r.body.length) ++ natLe 8 r.time ++ natLe 4 r.season ++ natLe 2 r.inst ++ natLe 2 r.source ++
  r.body
/-- A body of 64-bit values. -/
def vals (l : List Nat) : List Byte := l.flatMap fun v => natLe 8 v
/-- A device-wide record made now. -/
def State.teleRec (s : State) (typ source : Nat) (l : List Nat) : TeleRec :=
  { typ := typ, inst := 0xFFFF, source := source, time := s.time.now, season := s.beat.season % 2 ^ 32, body := vals l }
/-- The shadow of a counter field. -/
def State.shadow (s : State) (f : Fld) : Nat := SMap.get (fun _ => 0) s.tele.shadow (f.key * 32 + f.lo)
/-- A count of bytes. -/
def State.byteCount (s : State) (i : Nat) : Nat := SMap.get (fun _ => 0) s.tele.bytes i
/-- The season number records carry. -/
def State.seasonNow (s : State) : Nat := s.beat.season % 2 ^ 32

/-- CORE records of a die, in order of unit code. -/
def State.coreRecs (s : State) (die : Nat) : List TeleRec :=
  orderBy (fun (r : TeleRec) => r.source) ((List.range 128).map fun i =>
    let u := coreUnit (die * 128 + i)
    let c := (s.core u).cnt
    s.teleRec 1 (s.unitCode u) (((List.range 8).map fun j =>
      (c.sel.toList[j]?.getD 0).toNat + (c.cnt.toList[j]?.getD 0).toNat * 2 ^ 32) ++ [c.cyc.toNat, c.ovf.toNat]))
/-- The records of a group of a die (bit of a SAMPLE mask): groups of the whole device are in die 0's part. -/
def State.groupRecs (s : State) (die bit : Nat) : List TeleRec :=
  let ports := (List.range 16).map fun i => die * 16 + i
  match bit with
  | 0 => s.coreRecs die
  | 1 => (ports.filter fun p => s.isPort p).map fun p =>
      s.teleRec 2 p ((List.range 8).map fun q => s.fld (R.qSmpDepth p q) + s.fld (R.qSmpDly p q) * 2 ^ 32)
  | 2 => (ports.filter fun p => s.isPort p).map fun p =>
      s.teleRec 3 p ([s.shadow (R.portFecCorr p), s.shadow (R.portFecUncorr p)] ++ ((List.range 8).map fun i => s.shadow (R.portCnt p i)) ++
        [s.shadow (R.secyDrop p), s.byteCount p])
  | 3 => [{ s.teleRec 4 die ([R.lftDup, R.lftStale, R.lftOutWindow, R.lftTagFail, R.lftNoQp, R.lftBadCsum, R.lftMissDrop, R.lftCtxLoad].map s.shadow) with
      body := vals ([R.lftDup, R.lftStale, R.lftOutWindow, R.lftTagFail, R.lftNoQp, R.lftBadCsum, R.lftMissDrop, R.lftCtxLoad].map s.shadow) ++
        (Config.freeBytes 16 s.fresh ++ List.replicate 16 0).take 16 }]
  | 4 => ((List.range 4).map fun i => die * 4 + i).map fun k =>
      s.teleRec 5 k [s.shadow (R.storAer k), s.shadow (R.storTimeout k), s.byteCount (32 + k), s.byteCount (40 + k), s.fld R.dirtyLines]
  | 5 => [s.teleRec 6 die [s.shadow (R.collMissed die), s.shadow (R.collLate die), s.shadow (R.collStale die), s.shadow (R.collReplay die), s.shadow R.btMiss]]
  | 6 => if die = 0 then [s.teleRec 7 0 [s.fld R.decExist, s.fld R.decResident, s.shadow R.decSteps, s.shadow R.decCtxLoad, s.shadow R.decStreamed,
      s.shadow R.decDemoted, s.shadow R.decViol]] else []
  | 7 => [s.teleRec 8 die [s.power.power.toList[die]?.getD 0, s.power.tj.toList[die]?.getD 0, (s.hbmCtl.toList[2 * die]?.map (·.temp)).getD 0,
      (s.hbmCtl.toList[2 * die + 1]?.map (·.temp)).getD 0, s.fld R.pwrCapInForce]]
  | 8 => if die = 0 then ((List.range 64).filter fun n => s.flag (R.instEnabled n)).map fun n =>
      { s.teleRec 9 n ((List.range 9).map fun j => SMap.get (fun _ => 0) s.tele.tally (n * 16 + j)) with inst := n } else []
  | _ => []
/-- A log entry as a record. -/
def State.logRec (s : State) : TeleLog → TeleRec
  | .viol v => { s.teleRec 11 0 [] with time := v.time, body := violBytes v }
  | .health e => { s.teleRec 10 0 [] with time := e.time, season := e.season, body := hlogBytes e }

/-! ## Rings (R587, R588) -/

/-- The TELEMETRY ring of an instance. -/
def State.teleRing (s : State) (n : Nat) : Option Nat := (List.range 64).find? fun r => let x := s.ring n r; x.typ == 5 && (x.st == .active || x.st == .error)
/-- The oldest buffer an instance has posted, the bytes placed in it, and the time of its first record. -/
def State.teleBuf (s : State) (n : Nat) : Option (RxBuf × Nat × Nat) :=
  match s.tele.bufs.find? fun b => b.work.inst == n with
  | none => none
  | some b => match s.tele.fill.find? fun f => f.1 == n with
    | some f => some (b, f.2.1, f.2.2)
    | none => some (b, 0, s.time.now)
/-- Complete the buffer an instance's records are in, with the bytes written. -/
def State.teleClose (s : State) (n : Nat) : State :=
  match s.teleBuf n with
  | none => s
  | some (b, used, _) =>
    { s with tele.bufs := s.tele.bufs.erase b, tele.fill := s.tele.fill.filter fun f => f.1 != n }.commit 4 (.ring b.work 0 used 0)
/-- Place a record in the buffer of an instance; one that does not fit completes it first. False: no buffer is posted. -/
def State.telePut (s : State) (n : Nat) (d : List Byte) : Nat → State × Bool
  | 0 => (s, false)
  | k + 1 =>
    match s.teleBuf n with
    | none => (s, false)
    | some (b, used, first) =>
      if used + d.length ≤ b.len then
        (({ s with tele.fill := (s.tele.fill.filter fun f => f.1 != n) ++ [(n, used + d.length, first)] } : State).emit
          (.hostWrite n (b.addr + used) d), true)
      else (s.teleClose n).telePut n d k
/-- A record of a stream is lost. -/
def State.teleLose (s : State) (n : Nat) (time : Nat) : State :=
  let g := match s.tele.gaps.find? fun g => g.1 == n with
    | some g => (n, g.2.1 + 1, g.2.2)
    | none => (n, 1, time)
  { s with tele.gaps := (s.tele.gaps.filter fun g => g.1 != n) ++ [g] }
/-- The GAP record a stream owes. -/
def State.gapRec (s : State) (n : Nat) : Option TeleRec :=
  (s.tele.gaps.find? fun g => g.1 == n).map fun g => s.teleRec 12 0 [g.2.1, g.2.2]
/-- Give a record to the ring of an instance; a GAP record goes first where records were lost. -/
def State.teleToRing (s : State) (n : Nat) (r : TeleRec) : State :=
  if (s.teleRing n).isNone then s
  else
    let k := s.tele.bufs.length + 1
    let g := match s.gapRec n with
      | some g =>
        let x := s.telePut n g.bytes k
        (if x.2 then { x.1 with tele.gaps := x.1.tele.gaps.filter fun g => g.1 != n } else x.1, x.2)
      | none => (s, true)
    let x := if g.2 then g.1.telePut n r.bytes k else (g.1, false)
    if x.2 then x.1 else (x.1.teleLose n r.time).incFld R.telemRingLost
/-- An instance's stream carries a record (R588). -/
def inStream (n : Nat) (r : TeleRec) (v : Option Viol) : Bool :=
  n == 0 || (r.typ == 9 && r.inst == n) || (match v with | some v => v.cls == 0 && v.partner == n | none => false)

/-! ## MCTP (R589) -/

/-- Bytes MCTP may still send in the second under way: 256 KB in each. -/
def State.mctpRoom (s : State) : Nat := if s.tele.second = s.time.now / 1000000000 then 256000 - s.tele.sent else 256000
/-- Send one record by MCTP. -/
def State.mctpPut (s : State) (d : List Byte) : State :=
  let sec := s.time.now / 1000000000
  { s with tele.sent := (if s.tele.second = sec then s.tele.sent else 0) + d.length, tele.second := sec }.emit (.mctp d)
/-- Give a record to the subscription; a GAP record goes first where records were lost. -/
def State.teleToMctp (s : State) (r : TeleRec) : State :=
  if !bitAt s.tele.mask r.typ then s
  else
    let g := (s.gapRec 64).map TeleRec.bytes
    let need := r.bytes.length + (match g with | some b => b.length | none => 0)
    if s.mctpRoom < need then (s.teleLose 64 r.time).incFld R.telemMctpLost
    else
      let s := match g with
        | some b => { s with tele.gaps := s.tele.gaps.filter fun g => g.1 != 64 }.mctpPut b
        | none => s
      s.mctpPut r.bytes

/-! ## Samples and log records (R583, R586, R590) -/

/-- Send one record to every stream that carries it. While Steward 7 is stopped or in a Graft gap, nothing is sent (Table 20.6). -/
def State.teleSend (s : State) (r : TeleRec) (v : Option Viol) (mctp : Bool) : State :=
  if s.stewardGone 7 then s
  else
    let s := ((List.range 64).filter fun n => inStream n r v).foldl (fun s n => s.teleToRing n r) s
    if mctp then s.teleToMctp r else s
/-- Send the log records appended since the last time. -/
def State.teleFlush (s : State) : State :=
  let l := s.tele.logs
  l.foldl (fun s x => s.teleSend (s.logRec x) (match x with | .viol v => some v | .health _ => none) true) { s with tele.logs := [] }
/-- One sample: the groups of a mask of each die are latched, and their records sent by TYPE and SOURCE; MCTP takes every DIVIDER-th. -/
def State.teleSample (s : State) (m0 m1 : Nat) : State :=
  let s := if bitAt m0 1 then s.sampleEgress 0 else s
  let s := if bitAt m1 1 then s.sampleEgress 1 else s
  let rs := (List.range 9).flatMap fun b =>
    orderBy (fun (r : TeleRec) => r.source) ((if bitAt m0 b then s.groupRecs 0 b else []) ++ (if bitAt m1 b then s.groupRecs 1 b else []))
  let s := s.tick.teleFlush
  let due := decide (s.tele.left ≤ 1)
  let s := { s with tele.left := if due then s.tele.div else s.tele.left - 1 }
  rs.foldl (fun s r => s.teleSend r none due) s

/-- TELEMETRY_PERIOD_SAMPLE: no Beat Table runs, and the period has passed. -/
def execTelemetryPeriodSample (t : Nat) (s : State) : Out :=
  let s := s.advance t
  let p := s.fld R.telemPeriod
  if s.beat.running.isNone ∧ p ≠ 0 ∧ s.tele.last + p * 1000 ≤ s.time.now then
    .next ({ s with tele.last := s.time.now }.teleSample (s.fld R.telemMask) (s.fld R.telemMask))
  else .next s
/-- TELEMETRY_BUFFER_TIMEOUT: 1 ms after a buffer's first record its descriptor completes. -/
def execTelemetryBufferTimeout (i : InstId) (t : Nat) (s : State) : Out :=
  let s := s.advance t
  match s.tele.fill.find? fun f => f.1 == i.val with
  | some f => .next (if f.2.2 + 1000000 ≤ s.time.now ∧ s.stewardGone 7 = false then (s.teleFlush).teleClose i.val else s)
  | none => .next s
/-- TELEMETRY_DESCRIPTOR: a buffer is posted. -/
def execTelemetryDescriptor (i : InstId) (r : Fin 64) (tag len addr : Nat) (rsv : Bool) (t : Nat) (s : State) : Out :=
  let s := s.advance t
  match s.take i.val r.val 5 tag with
  | none => .next s
  | some (u, w) =>
    let st := if rsv ∨ len < 4096 ∨ 2 ^ 20 < len then 1 else if u.hostOk i.val addr len = false then 3 else 0
    if st = 0 then .next ({ u with tele.bufs := u.tele.bufs ++ [RxBuf.mk w len addr] } : State).teleFlush
    else .next ((u.frameViol i.val r.val st rsv).commit 4 (.ring w st 0 0))
/-- TELEM_SUBSCRIBE: the mask of record types and the DIVIDER; it ends the subscription before it (R589). -/
def execTelemSubscribe (mask div : BitVec 16) (s : State) : Out :=
  .next { s.teleFlush with tele.mask := mask.toNat, tele.div := max 1 div.toNat, tele.left := max 1 div.toNat,
                           tele.gaps := s.teleFlush.tele.gaps.filter fun g => g.1 != 64 }

end Sys2Proof.Machine
end

