-- ==== Sys2Proof/Machine/Plat.lean ====
section
/-! DEFINITION. Power cap and thermal response, clocks, port H's link and resets, the TAP, and the CXL.mem window (spec/18 R501, R524,
spec/24, spec/25 R632, spec/27 R653, R654). -/

namespace Sys2Proof.Machine

/-! ## Power and temperature (R607 to R612) -/

/-- PWR_SET, and a write of PWR_CFG: the later write wins. A value beyond the field is kept as its largest. -/
def State.pwrSet (s : State) (w : Nat) : State := (s.setFld R.pwrCfg (min w 1023)).showCap
/-- PWR_SET. -/
def execPwrSet (w : BitVec 16) (s : State) : Out := .next (s.pwrSet w.toNat)

/-- The gain recorded of a level. -/
def State.gainOf (s : State) (l : Nat) : Int := s.power.gain.toList[l]?.getD 0
/-- The throttle level chosen by R610, with the power of an interval in mW: the new level, and whether it was raised for the cap. -/
def State.chooseLevel (s : State) (p : Int) (level : Nat) (fits : Bool) : Nat × Bool :=
  let cap : Int := s.fld R.pwrCapInForce * 1000
  if cap < p ∧ level < 6 then (level + 1, true)
  else if s.fld R.pwrFloor < level ∧ fits then (level - 1, false)
  else (level, false)
/-- The full scale of each IMON input, in A (Table 26.3). -/
def imonFull : List Nat := [5, 5, 50, 50, 75, 75, 100, 100, 200, 200, 100]
/-- An IMON input at `v` µV, resolved to 10 bits: 0 at 0 V, 1,023 at 1.0 V and above; which of the two nearest steps a value between them takes is
free (R639; log entry 175). -/
def imonCode (v c : Nat) : Nat := if 1000000 ≤ v then 1023 else v * 1023 / 1000000 + (if v * 1023 % 1000000 = 0 then 0 else c % 2)
/-- The mean power of a rail over the readings of an interval, in mW (R608). -/
def State.railPower (s : State) (amps volts : List (List Nat)) (r : Nat) : Nat :=
  ((amps.zip volts).zipIdx.map fun x =>
    (x.1.2[r]?.getD 0) * (imonFull[r]?.getD 0) * imonCode (x.1.1[r]?.getD 0) (Config.choice (s.fresh + 11 * x.2 + r))).sum / (1023 * amps.length)
/-- The mean power of each die, in mW. A die has its own SOC and BUNCH rails; what it takes of the power of the rails that both share is free, and no
more than all of it (log entry 175). -/
def State.diePower (s : State) (amps volts : List (List Nat)) : Nat × Nat :=
  let w := s.railPower amps volts
  let both := ([0, 1, 2, 3, 4, 5, 10].map w).sum
  let part := Config.choice (s.fresh + 11 * amps.length) % (both + 1)
  (w 6 + w 8 + part, w 7 + w 9 + (both - part))
/-- POWER_EVALUATION: the mean power of each die over 20 µs, and what R610 makes of it. -/
def execPowerEvaluation (p0 p1 : List (List Nat)) (t : Nat) (s : State) : Out :=
  let w := s.diePower p0 p1
  let s := ({ s with fresh := s.fresh + 11 * p0.length + 1 }.advance t).showCap
  let p0 := w.1
  let p1 := w.2
  let s := (s.setFld R.pwrMeas0 (min (p0 / 100) 65535)).setFld R.pwrMeas1 (min (p1 / 100) 65535)
  let p : Int := p0 + p1
  let level := s.fld R.pwrLevel
  let s := { s with power.power := (s.power.power.set 0 p0).set 1 p1,
                    power.gain := if s.power.raised then s.power.gain.set (min level 6) (s.power.before - p) (by omega) else s.power.gain }
  let under := decide (p + s.gainOf level < s.fld R.pwrCapInForce * 1000)
  let since := if under then some (s.power.fits.getD s.time.now) else none
  let long := match since with | some f => decide (f + 1000000 ≤ s.time.now) | none => false
  let c := s.chooseLevel p level long
  let new := max c.1 (s.fld R.pwrFloor)
  let s := { s with power.raised := c.2, power.before := if c.2 then p else s.power.before, power.fits := if new = level then since else none }
  .next ((s.setFld R.pwrLevel new).setFld R.pwrCapLimited (b2n (decide (s.fld R.pwrFloor < new))))

/-- The highest junction reading of a die, and of the device with its place: the first of the highest. -/
def thermDie (x : ThermIn) (d : Nat) : Nat := (x.bunch.filter fun b => b.1 == d).foldl (fun m b => max m b.2.2) 0
/-- The first of the highest readings. -/
def thermHotOf (x : ThermIn) : Nat × Nat × Nat := x.bunch.foldl (fun m b => if m.2.2 < b.2.2 then b else m) (0, 0, 0)
/-- The highest stack reading. -/
def thermStk (x : ThermIn) : Nat := x.stk.foldl (fun m k => max m k.2) 0
/-- THERMAL_SAMPLE: the readings, the floor of Table 24.4, and the trip of R612. -/
def execThermalSample (x : ThermIn) (t : Nat) (s : State) : Out :=
  let s := s.advance t
  let h := thermHotOf x
  let hbm := thermStk x
  if 115000 ≤ h.2.2 ∨ 110000 ≤ hbm then .next { s.deviceReset 3 with pins.thermtrip := true }
  else
    let s := x.stk.foldl (fun s k => s.modHbm ⟨k.1 % 4, by omega⟩ fun c => { c with temp := k.2 }) s
    let s := ((s.setFld R.thermTj (min (h.2.2 / 1000) 255)).setFld R.thermHot (h.1 % 2 * 32 + h.2.1 % 32)).setFld R.thermHbm (min (hbm / 1000) 255)
    let since := if 105000 ≤ h.2.2 then some (s.power.hot.getD s.time.now) else none
    let long := match since with | some f => decide (f + 1000000 ≤ s.time.now) | none => false
    let floor := if long then 6 else if 100000 ≤ h.2.2 then 4 else if 95000 ≤ hbm then 1 else 0
    .next ({ s with power.hot := since, power.tj := (s.power.tj.set 0 (thermDie x 0)).set 1 (thermDie x 1),
                    health.tjMax := max s.health.tjMax (min (h.2.2 / 1000) 255) }.setFld R.pwrFloor floor)

/-! ## Port H and the clocks (R524, R601, R606, R613, R617, R653) -/

/-- HOSTWIN_CFG takes effect, or is refused (R653). -/
def State.hostWinLoad (s : State) : State :=
  let b := s.fld R.hostwinCfgBase
  let n := s.fld R.hostwinCfgLen
  let a := b * 2 ^ 28
  let z := n * 2 ^ 28
  if 256 < n ∨ s.workTop < a + z ∨ (n ≠ 0 ∧ (s.inFwSpan a z || s.inRegion a z) = true) then
    ((s.setFld R.hostwinBase 0).setFld R.hostwinLen 0).setFld R.hostwinErr 1
  else (s.setFld R.hostwinBase b).setFld R.hostwinLen n
/-- A write that waited for the host to give its line up takes effect; one of the device's own is in memory already. -/
def State.waitLand (s : State) (w : Nat × Nat × List Byte × Bool) : State :=
  if w.2.2.2 ∨ s.hbm.mergeFails 64 w.2.1 w.2.2.1.length then s else { s with hbm := s.hbm.put 64 w.2.1 w.2.2.1 }
/-- PERST_N, hot reset or link-down of port H: every instance is quiesced and its LHQI block reset but for GEN, VF Enable clears, the host
holds no line any more, and HOSTWIN_CFG takes effect (Table 24.6). -/
def State.portHReset (s : State) : State :=
  let s := s.flr0
  let s := (List.range 63).foldl (fun s k => if s.instOn (k + 1) ∨ s.flag (R.instRemoving (k + 1)) then s.lhqiReset (k + 1) else s) s
  let s := { s.cxl.waits.foldl State.waitLand s with cxl := CxlSt.reset }
  { s.hostWinLoad with pins.portH := false }
/-- PORT_H_RESET. -/
def execPortHReset (e : PortHEvent) (t : Nat) (s : State) : Out :=
  let s := (s.advance t).portHReset
  .next (match e with | .perst => { s with pins.perst := true } | .hotReset => s | .linkDown => s)
/-- PERST_N_DEASSERT: port H trains in common-clock mode when REFCLK_H is present, and with SRIS otherwise. -/
def execPerstNDeassert (refclkH : Bool) (s : State) : Out :=
  .next (if s.pins.perst then { s with pins.perst := false, pins.sris := !refclkH } else s)
/-- PORT_H_LINK_UP: port H trains after boot step 5 only, and not in recovery. -/
def execPortHLinkUp (s : State) : Out :=
  .next (if s.pins.perst = false ∧ 5 ≤ s.fld R.bootStep ∧ s.flag R.bootRecovery = false then { s with pins.portH := true } else s)
/-- REFCLK_SYS_LOSS: YIELD is sent and FENCED entered, as under R492. -/
def execRefclkSysLoss (s : State) : Out := .next s.yield
/-- REFCLK_ETH_LOSS: every network port and the twin link go down. -/
def execRefclkEthLoss (t : Nat) (s : State) : Out :=
  let s := s.advance t
  .next (((List.range 32).foldl (fun s p => if s.flag (R.portLinkUp p) then s.portDown p else s) s).setFld R.twinLinkUp 0)
/-- REFCLK_H_LOSS: in common-clock mode port H goes down. -/
def execRefclkHLoss (t : Nat) (s : State) : Out :=
  let s := s.advance t
  .next (if s.pins.sris ∨ s.pins.perst then s else s.portHReset)

/-! ## The TAP (R632) -/

/-- An instruction reaches the TAP: EXTEST, EXTEST_PULSE and EXTEST_TRAIN are taken as BYPASS unless SYS_RST_N is low. -/
def State.tapTake (s : State) (i : Tap) : State :=
  { s with pins.tap := match i with
      | .bypass => .bypass
      | .idcode => .idcode
      | .sample => .sample
      | .extest => if s.pins.sysRst then .extest else .bypass
      | .extestPulse => if s.pins.sysRst then .extestPulse else .bypass
      | .extestTrain => if s.pins.sysRst then .extestTrain else .bypass }
/-- JTAG_BYPASS. -/
def execJtagBypass (s : State) : Out := .next (s.tapTake .bypass)
/-- JTAG_IDCODE: the identity is shifted out. -/
def execJtagIdcode (s : State) : Out := .next ((s.tapTake .idcode).emit (.readData 0x28140A19))
/-- JTAG_SAMPLE_PRELOAD. -/
def execJtagSamplePreload (s : State) : Out := .next (s.tapTake .sample)
/-- JTAG_EXTEST. -/
def execJtagExtest (s : State) : Out := .next (s.tapTake .extest)
/-- JTAG_EXTEST_PULSE. -/
def execJtagExtestPulse (s : State) : Out := .next (s.tapTake .extestPulse)
/-- JTAG_EXTEST_TRAIN. -/
def execJtagExtestTrain (s : State) : Out := .next (s.tapTake .extestTrain)

/-! ## The CXL.mem window (R501, R502, R654) -/

/-- An access of the window: its working-partition address when it lies in the window and clear of the firmware-reserved span. -/
def State.winAddr (s : State) (off n : Nat) : Option Nat :=
  if off + n ≤ s.hostWin.2 ∧ s.inFwSpan (s.hostWin.1 + off) n = false then some (s.hostWin.1 + off) else none
/-- An access the Rind blocks is counted and recorded (R546, R547). -/
def State.winBlocked (s : State) (off n : Nat) : State :=
  if off + n ≤ s.hostWin.2 ∧ s.inFwSpan (s.hostWin.1 + off) n then s.rindBlock 13 0xFF else s
/-- The host takes a line: the snoop filter tracks it, and gives up its oldest when it is full. -/
def State.trackLine (s : State) (k : Nat) : State :=
  if s.cxl.tracked.contains k then s
  else
    let s := if 2 ^ 20 ≤ s.cxl.tracked.length then (match s.cxl.tracked with | o :: _ => s.snoop o | [] => s) else s
    { s with cxl.tracked := s.cxl.tracked ++ [k] }
/-- CXL_MEM_READ: a read of the window, by CXL.mem, which the host may cache, or through BAR4. An uncorrectable block answers an error: kind
5 (R230; log entry 59). -/
def execCxlMemRead (bar4 : Bool) (off len : Nat) (s : State) : Out :=
  match s.winAddr off len with
  | none => .next ((s.winBlocked off len).emit (.cxl 0 off (List.replicate len 0xFF#8)))
  | some a =>
    let s := if bar4 ∨ len = 0 then s else (List.range ((a + len - 1) / 64 + 1 - a / 64)).foldl (fun s i => s.trackLine (a / 64 + i)) s
    let s := s.hbmSeen a len
    .next (if s.hbmBad a len then s.emit (.cxl 5 off []) else s.emit (.cxl 0 off (s.hbmBytes a len)))
/-- Write bytes of the host at a working-partition address, byte by byte through the stacks, under what the device has written itself and the
host has not yet given the line up for. -/
def State.hostPut (s : State) (a : Nat) : List Byte → State
  | [] => s
  | b :: bs => State.hostPut { s with hbm := s.hbm.put 64 (s.workKey a) [b] } (a + 1) bs
/-- A BAR4 write, line by line: a line the host may hold is invalidated first, and its part of the write waits. -/
def State.bar4Lines (s : State) (a : Nat) (d : List Byte) : Nat → State
  | 0 => s
  | k + 1 =>
    if d.isEmpty then s
    else
      let n := 64 - a % 64
      let s := if s.cxl.tracked.contains (a / 64) ∨ s.cxl.snooping.contains (a / 64) then
          ({ s with cxl.waits := s.cxl.waits ++ [(a / 64, s.workKey a, d.take n, false)] } : State).snoop (a / 64)
        else s.hostPut a (d.take n)
      s.bar4Lines (a + n) (d.drop n) k
/-- CXL_MEM_WRITE: a write of the window. A BAR4 write to a line the host may hold waits for BISnpInv of it. -/
def execCxlMemWrite (bar4 : Bool) (off : Nat) (data : List Byte) (s : State) : Out :=
  let done := fun (s : State) => if bar4 then s else s.emit (.cxl 1 off [])
  match s.winAddr off data.length with
  | none => .next (done (s.winBlocked off data.length))
  | some a =>
    let lines := (s.cxl.tracked ++ s.cxl.snooping).filter fun k => a / 64 ≤ k && k * 64 < a + data.length
    let s := s.hbmMerged a data.length
    if s.hbmMergeBad a data.length then .next (done s)
    else if bar4 then .next (s.bar4Lines a data (data.length / 64 + 2))
    else
      let own := s.cxl.waits.filter fun w => w.2.2.2 && lines.contains w.1
      let s := s.hostPut a data
      .next (done (own.foldl (fun s w => { s with hbm := s.hbm.put 64 w.2.1 w.2.2.1 }) s))
/-- BACK_INVALIDATE_RESPONSE: the host has given a line up, and the writes waiting on it take effect in the order they came. -/
def execBackInvalidateResponse (line : Nat) (s : State) : Out :=
  let k := (s.hostWin.1 + line) / 64
  if s.cxl.snooping.contains k then
    let mine := s.cxl.waits.filter fun w => w.1 == k
    let s := { s with cxl.snooping := s.cxl.snooping.erase k, cxl.waits := s.cxl.waits.filter fun w => w.1 != k }
    .next (mine.foldl State.waitLand s)
  else .next s
/-- H2D_SNOOP: answered with RspIHitI; the device holds no host line. -/
def execH2dSnoop (addr : Nat) (s : State) : Out := .next (s.emit (.cxl 2 addr []))
/-- GLOBAL_PERSISTENT_FLUSH: acknowledged at once. -/
def execGlobalPersistentFlush (s : State) : Out := .next (s.emit (.cxl 4 0 []))

end Sys2Proof.Machine
end

