-- ==== Sys2Proof/Machine/Slot.lean ====
section
/-! DEFINITION. The start of a Beat Table slot: the season boundary, the events of the slot in table order, and beat misses (spec/07 R242
to R247, R250; spec/05 R187; spec/11 R361; spec/15 R446, R447; spec/22 R583; spec/23 R593). -/

namespace Sys2Proof.Machine

/-! ## Beat misses (R247) -/

/-- A beat miss is counted and reported to the time-and-schedule Steward; it is not retried. -/
def State.beatMiss (s : State) : State := (s.incFld R.btMiss).report 0 0x8000 5
/-- Count a beat miss when there is one. -/
def State.missIf (b : Bool) (s : State) : State := if b then s.beatMiss else s

/-! ## The events (Table 7.6) -/

/-- An event acts under its COND (Table 7.5). -/
def BeatEvent.acts (e : BeatEvent) (solo : Bool) : Bool := e.cond == 0 || (e.cond == 1 && !solo) || (e.cond == 2 && solo)

/-- START of a kernel on a core: a beat miss unless the core may start, holds the kernel, and is not fenced over a witnessed digest
(R247, R250, R469). A core without the event's kernel is then reloaded for its next event. -/
def State.eventKernel (s : State) (u : UnitId) (ki : Nat) (kat : Bool) : State :=
  if s.canLoad u = false ∨ s.witHolds u then s.beatMiss
  else if SMap.get (fun _ => 0) s.beat.kernelHeld u.val ≠ ki + 1 then s.beatMiss.reload u
  else
    let s := s.startCore u
    if kat then { s with beat.katRuns := s.beat.katRuns ++ [(u.val, ki)] } else s

/-- GATE: the gate state of a port; a beat miss for a code that is no port in the octet's mode (R361, Table 11.2). -/
def State.eventGate (s : State) (target arg : Nat) : State :=
  let p := target % 64
  if s.isPort p then
    ((s.setFld (R.txOpen p) (arg % 256)).setFld (R.txCellPcp p) (bits arg 8 3)).setFld (R.txCellTag p) (bits arg 11 1)
  else s.beatMiss

/-- The cell mover of an octet drives a leg: the leg sends on a port of that octet, on the twin link, or on none (log entry 167). -/
def LegE.onOctet (l : LegE) (o : Option Nat) : Bool := 32 ≤ l.txPort || o == some (l.txPort / 8)

/-- A leg event: CELL_TX with the octet its target names, CELL_RX or RENDEZVOUS; a beat miss under R282, and where that octet's cell mover does not
drive the leg. -/
def State.eventLeg (s : State) (im : Image) (die rslot li : Nat) (tx : Option Nat) : State :=
  match s.legE li with
  | none => s.beatMiss
  | some l =>
    if tx.isSome && !l.onOctet (tx.bind (octetOn die)) then s.beatMiss else
    match s.groupE l.group with
    | none => s.beatMiss
    | some g => if s.legMiss im rslot l then s.beatMiss else if tx.isSome then s.startTx die li l g else s.openRx die li l g

/-- SNAPSHOT of a die. -/
def State.eventSnapshot (s : State) (die mask : Nat) : State :=
  let r := s.snapDie die mask s.time.now
  r.1.missIf r.2

/-- One event of a die's table. SAMPLE acts before the others. -/
def State.event (im : Image) (die : Nat) (s : State) (e : BeatEvent) : State :=
  if e.kind = 1 then s.eventLeg im die (bits e.target 8 6) (e.arg % 2 ^ 32) (some (e.target % 4))
  else if e.kind = 2 then s.eventLeg im die (bits e.target 8 6) (e.arg % 2 ^ 32) none
  else if e.kind = 3 then s.eventKernel (coreUnit (die * 128 + e.target % 128)) (e.arg % 65536) false
  else if e.kind = 4 then s.eventGate e.target e.arg
  else if e.kind = 5 then s.eventKernel (coreUnit (die * 128 + e.target % 128)) (e.arg % 65536) true
  else if e.kind = 6 then s.eventSnapshot die (e.target % 4)
  else if e.kind = 8 then s.eventLeg im die (e.target % 64) (e.arg % 2 ^ 32) none
  else if e.kind = 9 then s.witStart (e.target % 8) s.time.now
  else s

/-! ## The slot -/

/-- The events of a slot in a die's table of the running variant that act under their COND. -/
def State.slotEvents (s : State) (im : Image) (die slot : Nat) : List BeatEvent :=
  (im.dieTable (s.fld R.btVariant) die).filter fun e => e.slot == slot && e.acts (s.flag R.btSolo)

/-- The counter groups that the SAMPLE events of a list name. -/
def sampleMask (es : List BeatEvent) : Nat := (es.filter (·.kind == 7)).foldl (fun m e => m ||| (e.target % 512)) 0

/-- A BT_ARM whose target slot starts is satisfied, with BT_NOW_LO at the start (R187). -/
def State.armStart (s : State) (slot : Nat) : State :=
  (List.finRange 264).foldl (fun s u =>
    if (s.core u).cnt.arm = some (BitVec.ofNat 16 slot) ∧ (s.core u).cnt.armAt = none then
      s.modCore u fun c => { c with cnt.armAt := some (BitVec.ofNat 32 s.time.now) }
    else s) s

/-- The events of a slot: the samples of both dies, then the events in table order. -/
def State.dispatch (s : State) (im : Image) (slot : Nat) : State :=
  let s := { s with beat.slot := slot }.armStart slot
  let e0 := s.slotEvents im 0 slot
  let e1 := s.slotEvents im 1 slot
  let m0 := sampleMask e0
  let m1 := sampleMask e1
  let s := if m0 = 0 ∧ m1 = 0 then s else s.teleSample m0 m1
  let s := e0.foldl (State.event im 0) s
  let s := e1.foldl (State.event im 1) s
  s.snapClose

/-- A slot starts at a fabric time: a season boundary is crossed first, with what takes effect there (R593), then the slot's events act.
Fabric times that start no slot start none. -/
def State.slotStart (s : State) : State :=
  let s := s.snapLate.cross.activateDue.switchDue
  match s.beat.running with
  | none => s
  | some im => if s.time.now % 10 = 0 then s.dispatch im (im.slotAt s.time.now) else s

/-- SLOT_START. -/
def execSlotStart (t : Nat) (s : State) : Out := .next (s.advance t).slotStart

/-- SCHEDULE_STOP: the season boundary at which a requested stop takes effect; the last slot has ended. -/
def execScheduleStop (t : Nat) (s : State) : Out := .next (s.advance t).snapLate.cross

end Sys2Proof.Machine
end

