-- ==== Sys2Proof/Machine/Regs.lean ====
section
/-! DEFINITION. Register accesses: who reaches which word, widths and alignment, the access codes, wide registers, and the actions that
register writes start (spec/00 R8 to R11, R660; spec/18 R505; spec/20 R541, R542, R547; spec/27 R646 to R652, R656). -/

namespace Sys2Proof.Machine

/-! ## Where an access falls (R646, R652, R656) -/

/-- What an access reaches. -/
inductive RegPlace where
  /-- A word of the register file. -/
  | word (key : Nat)
  /-- A word of a control block. -/
  | ctl (u : UnitId) (o : Nat)
  /-- Nothing assigned. -/
  | none
  deriving DecidableEq, Repr

/-- A key of the register file, when a register stands there. -/
def wordPlace (key : Nat) : RegPlace := if (regInfo key).isSome then .word key else .none

/-- The compute core whose physical name is `n` = (die × 17 + Bunch) × 9 + core (Table 27.6; a name that no logical core has: log entry 61). -/
def State.physical (s : State) (n : Nat) : Option UnitId :=
  ((List.range 256).find? fun k =>
    let id := (s.core ⟨k % 264, by omega⟩).ctl.id.toNat
    (bits id 7 1 * 17 + bits id 12 5) * 9 + bits id 8 4 == n).map fun k => ⟨k % 264, by omega⟩

/-- The place of an offset of the Steward-private region (Table 27.6). -/
def State.privPlace (s : State) (o : Nat) : RegPlace :=
  if o < 0x100000 then .ctl ⟨o / 0x1000 % 256, by omega⟩ (o % 0x1000)
  else if o < 0x300000 then
    match s.physical ((o - 0x100000) / 0x1000) with
    | some u => .ctl u (o % 0x1000)
    | none => .none
  else if o < 0x308000 then .ctl ⟨256 + (o - 0x300000) / 0x1000 % 8, by omega⟩ (o % 0x1000)
  else if 0x400000 ≤ o then wordPlace (0x20000000 + o)
  else .none

/-- The place of a word an agent addresses. The physical function addresses BAR0, a virtual function its VF BAR0, and a Steward the CSR window
by the BAR0 offset or the private region from 0x2000_0000 upward. -/
def State.regPlace (s : State) (a : RegAgent) (off : Nat) : RegPlace :=
  match a with
  | .pf => if off < 0x10000000 then wordPlace (keyOfBar0 off) else .none
  | .vf n => if off < 0x10000 then wordPlace (R.lhqiKey n.val + off) else .none
  | .steward _ =>
    if off < 0x10000000 then wordPlace (keyOfBar0 off)
    else if 0x20000000 ≤ off ∧ off < 0x30000000 then s.privPlace (off - 0x20000000) else .none

/-- The port code of a per-port register (R650). -/
def portOf (key : Nat) : Option Nat :=
  let o := key % 0x100000
  if 0x2000000 ≤ key ∧ key < 0x2400000 ∧ 0x10000 ≤ o then some ((key - 0x2000000) / 0x100000 * 8 + o / 0x1000 % 16) else none
/-- The register stands at a code that is no port in its octet's mode: it reads as zero and ignores writes (R333). -/
def State.noPort (s : State) (key : Nat) : Bool := match portOf key with | some p => !s.isPort p | none => false

/-! ## Access codes (R8, R9, R547) -/

/-- A word after a write: RW bits take the value, RWL bits before the lock, W1C bits are cleared by ones but for those the hardware sets
in the same cycle. -/
def RegInfo.write (i : RegInfo) (old v hw : Word) (locked : Bool) : Word :=
  let m := BitVec.ofNat 32 i.rw ||| (if locked then 0 else BitVec.ofNat 32 i.rwl)
  let c := BitVec.ofNat 32 i.w1c
  (((old &&& ~~~m) ||| (v &&& m)) &&& ~~~(v &&& c)) ||| (hw &&& c)
/-- A write after the lock carries another value for some RWL field. -/
def RegInfo.refused (i : RegInfo) (old v : Word) : Bool := (old ^^^ v) &&& BitVec.ofNat 32 i.rwl != 0

/-- Write one word under its access codes. -/
def State.codedWrite (s : State) (key : Nat) (v hw : Word) : State :=
  match regInfo key with
  | none => s
  | some i =>
    let old := s.csr.get key
    let locked := s.flag R.rindLock
    let s := s.setWord key (i.write old v hw locked)
    if locked ∧ i.refused old v then s.violate 5 0 13 0xFF 9 key v.toNat else s

/-- What a wide register's word `k` takes at a commit: the word held, or the current one. -/
def State.heldWord (s : State) (key : Nat) : Word := (SMap.get (fun _ => none) s.wide.hold key).getD (s.csr.get key)
/-- Commit a wide register of `n` words: its most significant word has been written (R648). -/
def State.wideCommit (s : State) (base n : Nat) (v : Word) : State :=
  let vs := (List.range n).map fun i => (base + 4 * i, if i + 1 = n then v else s.heldWord (base + 4 * i))
  let bad := s.flag R.rindLock && vs.any fun x => match regInfo x.1 with | some i => i.refused (s.csr.get x.1) x.2 | none => false
  let s := vs.foldl (fun s x =>
    match regInfo x.1 with
    | some i => s.setWord x.1 (i.write (s.csr.get x.1) x.2 0 (s.flag R.rindLock))
    | none => s) s
  let s := { s with wide.hold := s.wide.hold.filter fun h => !(base ≤ h.1 && h.1 < base + 4 * n) }
  if bad then s.violate 5 0 13 0xFF 9 (base + 4 * (n - 1)) v.toNat else s

/-! ## What a write starts -/

/-- BT_CTL (Table 7.9). -/
def State.btCtl (s : State) (v : Nat) : State :=
  match v % 8 with
  | 1 => s.btStage | 2 => s.btActivate | 3 => s.btAbort | 4 => s.btStop | 5 => s.btVariantCmd (bitAt v 3) | _ => s
/-- GRAFT_CTL (Table 20.9). -/
def State.graftCtl (s : State) (v : Nat) : State :=
  match v % 4 with
  | 1 => s.graftStart (bits v 8 8) (bitAt v 16) | 2 => s.graftRestart (bits v 8 8) | _ => s
/-- CLS_CTL (Table 10.7). -/
def State.clsCtl (s : State) (v : Nat) : State :=
  let t := v % 4
  let i := bits v 2 13
  let s := s.clsPoint t i
  let s := if bitAt v 16 then s.clsWrite t i else s
  let s := if bitAt v 17 then s.clsRead t i else s
  if bitAt v 18 then s.clsCommit else s
/-- LHQI_CTL of an instance: ENABLE, or a quiesce (R506, R526). -/
def State.lhqiCtl (s : State) (n v : Nat) : State := if bitAt v 0 then s.enable n else (s.setFld (R.lhqiEnable n) 0).quiesce n
/-- Vector control of an MSI-X entry: an unmasked vector that is pending is sent (R519). -/
def State.msixCtl (s : State) (n vec : Nat) : State :=
  if s.flag (R.msixPend n vec) ∧ s.fld (R.msixMask n vec) = 0 then s.msixSend n vec else s

/-- The actions of a written word of an LHQI block. -/
def State.lhqiAct (s : State) (n o : Nat) (v : Word) : State :=
  if o = 0x08 then s.lhqiCtl n v.toNat
  else if o = 0x28 then s.heartbeat n v
  else if 0x8000 ≤ o ∧ o < 0x8400 ∧ o % 16 = 12 then s.msixCtl n ((o - 0x8000) / 16)
  else s
/-- The actions of a written word of a domain block: the fences are copied to the Steward, and KICK restarts its watchdog (R542). -/
def State.domAct (s : State) (n o : Nat) (v : Word) : State :=
  if o = 0x80 then s.modCore (stewardUnit n) fun c => { c with ctl.fenceLo := BitVec.ofNat 32 (s.fld (R.domFenceLo n)) }
  else if o = 0x84 then s.modCore (stewardUnit n) fun c => { c with ctl.fenceHi := BitVec.ofNat 32 (s.fld (R.domFenceHi n)) }
  else if o = 0x88 ∧ v.getLsbD 16 then s.wdogKick n
  else s

/-- The actions of a written word, after the word itself has been written under its access codes. -/
def State.act (s : State) (key : Nat) (v : Word) : State :=
  let o := key % 0x100000
  if 0x20800000 ≤ key then s.domAct ((key - 0x20800000) / 0x1000) (key % 0x1000) v
  else if 0x20400000 ≤ key then s.lhqiAct ((key - 0x20400000) / 0x10000) (key % 0x10000) v
  else match key / 0x100000 with
    | 0x01 => if o = 0 then s.showCap else s
    | 0x03 => if o = 0 ∧ v.getLsbD 0 then (s.setFld R.rindLock 0).rindLockNow else if o = 0xC then s.showCap else s
    | 0x04 => if o = 0xC then s.graftCtl v.toNat else s
    | 0x06 => if o = 0x100 then s.btCtl v.toNat else s
    | 0x08 => if 0x100 ≤ o ∧ o % 32 = 0xC ∧ v.getLsbD 0 then s.copyStart ⟨(o - 0x100) / 32 % 4, by omega⟩ else s
    | 0x10 => if 0x80000 ≤ o ∧ o < 0x88000 ∧ o % 16 = 12 then s.msixCtl 0 ((o - 0x80000) / 16) else s
    | 0x11 => if o % 256 = 0x50 ∧ v.getLsbD 0 then s.quotaCommit (o / 256) else s
    | 0x20 | 0x21 | 0x22 | 0x23 => if 0x20000 ≤ o ∧ o % 0x1000 = 0 ∧ o < 0x28000 ∧ s.nosched then s.gateDefaults else s
    | 0x24 => if o = 0 then s.clsCtl v.toNat else s
    | _ => s

/-- A write of a word of the register file that has its own action in place of the plain write: MODE, EN, shaper and region registers. -/
def State.ownWrite (s : State) (key : Nat) (v hw : Word) : Option State :=
  let o := key % 0x100000
  if 0x2000000 ≤ key ∧ key < 0x2400000 then
    let k := (key - 0x2000000) / 0x100000
    let p := k * 8 + o / 0x1000 % 16
    if o = 0 then
      let mode := s.fld (R.octMode k)
      some ((s.codedWrite key (BitVec.ofNat 32 (putBits v.toNat 0 2 mode)) hw).octMode k (v.toNat % 4))
    else if 0x10000 ≤ o ∧ o < 0x18000 ∧ o % 0x1000 = 0 then
      let s := s.codedWrite key (BitVec.ofNat 32 (putBits v.toNat 0 1 (s.fld (R.portEn p)))) hw
      some (if v.getLsbD 0 then s.portEnable p else s.portDisable p)
    else if 0x20000 ≤ o ∧ o < 0x28000 ∧ 0x100 ≤ o % 0x1000 ∧ o % 0x40 < 0x10 then
      some (s.shaperWrite p ((o % 0x1000 - 0x100) / 0x40) (o % 0x40 / 4) v)
    else none
  else if 0xA00100 ≤ key ∧ key < 0xA00120 then some (s.rsWrite ((key - 0xA00100) / 8) (key % 8 == 4) v)
  else none

/-- A write of a word of the register file. A write of an FE register waits while its Steward is gone (R556). -/
def State.wordWrite (s : State) (key : Nat) (v hw : Word) : State :=
  if s.noPort key then s
  else if s.feWaits key then { s with wide.fe := s.wide.fe ++ [.write key v] }
  else match s.ownWrite key v hw with
    | some t => t
    | none =>
      match wideOf key with
      | some (base, n) =>
        if key = base + 4 * (n - 1) then s.wideCommit base n v
        else { s with wide.hold := SMap.set (fun _ => none) s.wide.hold key (some v) }
      | none => (s.codedWrite key v hw).act key v

/-- A write of one word at a place: an unassigned one is discarded and recorded (R649). -/
def State.placeWrite (s : State) (p : RegPlace) (off : Nat) (v hw : Word) : State :=
  let bad := s.violate 5 0 13 0xFF 5 off v.toNat
  match p with
  | .word key => s.wordWrite key v hw
  | .ctl u o => (s.ctlWrite u o v hw).getD bad
  | .none => bad

/-! ## Reads (R8, R10, R647, R648) -/

/-- Words whose RC bits are one field of 32 bits. -/
def rcWhole (key : Nat) : Bool :=
  key == 0x300004 || key == 0xD00010 || key == 0x240000C ||
  (0x2000000 ≤ key && key < 0x2400000 && (key % 0x1000 == 8 || key % 0x1000 == 0xC || (key % 0x100000 / 0x10000 == 2)))
/-- The RC fields of a word: lowest bit and width. -/
def rcFields (key : Nat) : List (Nat × Nat) :=
  match regInfo key with
  | none => []
  | some i =>
    if i.rc = 0 then []
    else if i.rc = 0xFFFF then [(0, 16)]
    else if i.rc = 0xFFFF0000 then [(16, 16)]
    else if i.rc = 0xFF00 then [(8, 8)]
    else if i.rc = 0xFFFF00 then [(8, 8), (16, 8)]
    else if i.rc = 0xFFFFFF then [(0, 24)]
    else if key = 0x900004 ∨ key = 0x900104 then [(0, 8), (8, 8), (16, 8), (24, 8)]
    else if rcWhole key then [(0, 32)]
    else [(0, 16), (16, 16)]
/-- A high-water mark: it takes the larger value instead of counting (R366). -/
def isHwm (key : Nat) : Bool :=
  0x2000000 ≤ key && key < 0x2400000 && key % 0x100000 / 0x10000 == 2 && 0x100 ≤ key % 0x1000 && (key % 0x40 == 0x14 || key % 0x40 == 0x18)

/-- The word as a read returns it, with what is computed when it is read: the state of a Steward in FW_STEWARDn_STAT,
and whether 1PPS is present in FT_STAT. -/
def State.wordValue (s : State) (key : Nat) : Word :=
  let v := s.csr.get key
  if 0x400100 ≤ key ∧ key < 0x400140 ∧ key % 8 = 0 then
    BitVec.ofNat 32 (putBits v.toNat 0 2 (s.core (stewardUnit ((key - 0x400100) / 8))).run.state.code)
  else if key = 0x600000 then BitVec.ofNat 32 (putBits v.toNat 4 1 (b2n s.ppsOk))
  else v

/-- A read clears the RC fields wholly inside the bits `lanes`; `upd` is the hardware's update of the same cycle, which is carried into the
value after the clear (R10). -/
def State.rcClear (s : State) (key : Nat) (lanes upd : Word) : State :=
  (rcFields key).foldl (fun s f =>
    let fld : Fld := ⟨key, f.1, f.2⟩
    let m := bits lanes.toNat f.1 f.2
    let s := if m = 2 ^ f.2 - 1 then s.setFld fld 0 else s
    let n := bits upd.toNat f.1 f.2
    if isHwm key then s.setFld fld (max (s.fld fld) n) else if n = 0 then s else s.incFld fld n) s

/-- A read of a word of the register file, addressing the bits `lanes` of it. -/
def State.wordRead (s : State) (key : Nat) (lanes upd : Word) : State × Word :=
  if s.noPort key then (s, 0)
  else match wideOf key with
    | some (base, n) =>
      if key = base then
        ({ s with wide.latch := (List.range n).foldl (fun m i =>
            if i = 0 then m else SMap.set (fun _ => none) m (base + 4 * i) (some (s.csr.get (base + 4 * i)))) s.wide.latch }, s.csr.get key)
      else (s, (SMap.get (fun _ => none) s.wide.latch key).getD (resetVal key))
    | none =>
      let s := if 0x800110 ≤ key ∧ key < 0x800190 ∧ key % 0x20 = 0x10 then s.showProgress ⟨(key - 0x800110) / 32 % 4, by omega⟩ else s
      (s.rcClear key lanes upd, s.wordValue key)

/-- A read of one word at a place; an unassigned one reads zero (R649). -/
def State.placeRead (s : State) (p : RegPlace) (lanes upd : Word) : State × Word :=
  match p with
  | .word key => s.wordRead key lanes upd
  | .ctl u o => (s.ctlRead u o).getD (s, 0)
  | .none => (s, 0)

/-! ## Accesses (R647, R541, R542) -/

/-- A Steward's access to the CSR window or the private region raises an exception (R541, R542). -/
def State.stewardExc (s : State) (n : Nat) (off size : Nat) (store : Bool) : Option Cause :=
  if size ≠ 4 ∨ off % 4 ≠ 0 then some .misaligned
  else
    let r := if off < 0x10000000 then domRight (s.fld (R.domCsr n (off / mib)))
      else if privListed ((off - 0x20000000) / mib) then domRight (s.fld (R.domPriv n ((off - 0x20000000) / mib))) else 0
    if r = 0 then some .unmapped else if store ∧ r = 1 then some .apDisabled else none
/-- The D-space address of a Steward's access. -/
def stewardAddr (off : Nat) : Word := BitVec.ofNat 32 (if off < 0x10000000 then 0x10000000 + off else off)

/-- The agent's access reaches the device: a virtual function exists and a Steward runs. -/
def State.agentOn (s : State) : RegAgent → Bool
  | .pf => true
  | .vf n => s.instOn n.val
  | .steward n => (s.core (stewardUnit n.val)).run.state == .running

/-- A Steward's refused access raises its exception. -/
def State.agentExc (s : State) (a : RegAgent) (off size : Nat) (store : Bool) : Option State :=
  match a with
  | .steward n =>
    (s.stewardExc n.val off size store).map fun k =>
      s.takeExc (stewardUnit n.val) k (s.core (stewardUnit n.val)).regs.pc (some (stewardAddr off)) ⟨false, false, false⟩
  | _ => none

/-- A register write by an agent: 4 aligned bytes, or 8 as two words, the lower first; any other is refused and recorded (R647). -/
def State.regWrite (s : State) (a : RegAgent) (off size : Nat) (v : BitVec 64) (hw : Word) : State :=
  if s.agentOn a = false then s
  else match s.agentExc a off size true with
    | some t => t
    | none =>
      if size = 4 ∧ off % 4 = 0 then s.placeWrite (s.regPlace a off) off (v.truncate 32) hw
      else if size = 8 ∧ off % 8 = 0 then
        let t := s.placeWrite (s.regPlace a off) off (v.truncate 32) hw
        t.placeWrite (t.regPlace a (off + 4)) (off + 4) ((v >>> 32).truncate 32) 0
      else s.violate 5 0 13 0xFF 4 off v.toNat

/-- A register read by an agent: 1, 2 or 4 aligned bytes, or 8 as two words; any other returns zero without effect and is recorded. -/
def State.regRead (s : State) (a : RegAgent) (off size : Nat) (upd : Word) : State × Nat :=
  if size = 8 ∧ off % 8 = 0 then
    let x := s.placeRead (s.regPlace a off) 0xFFFFFFFF#32 upd
    let y := x.1.placeRead (x.1.regPlace a (off + 4)) 0xFFFFFFFF#32 0
    (y.1, x.2.toNat + y.2.toNat * 2 ^ 32)
  else if (size = 1 ∨ size = 2 ∨ size = 4) ∧ off % size = 0 then
    let sh := off % 4 * 8
    let lanes := BitVec.ofNat 32 ((2 ^ (8 * size) - 1) * 2 ^ sh)
    let x := s.placeRead (s.regPlace a (off / 4 * 4)) lanes upd
    (x.1, bits x.2.toNat sh (8 * size))
  else (s.violate 5 0 13 0xFF 4 off 0, 0)

/-- A read by an agent reaches an FE register whose Steward is gone. -/
def State.feReads (s : State) (a : RegAgent) (off size : Nat) : Bool :=
  (if size = 8 then [off / 4 * 4, off / 4 * 4 + 4] else [off / 4 * 4]).any fun o => match s.regPlace a o with | .word key => s.feWaits key | _ => false
/-- Carry out an access to an FE register that waited. -/
def State.feDo (s : State) (x : FeAccess) : State :=
  match x with
  | .write key v => s.wordWrite key v 0
  | .read a off size upd =>
    if s.feReads a off size then { s with wide.fe := s.wide.fe ++ [x] }
    else let r := s.regRead a off size upd; r.1.emit (.readData r.2)
/-- The accesses that waited for a Steward act in their order once it runs; those that must wait longer wait again (R556). -/
def State.feRelease (s : State) : State := s.wide.fe.foldl State.feDo { s with wide.fe := [] }

/-- REGISTER_WRITE. -/
def execRegisterWrite (a : RegAgent) (off size : Nat) (v : BitVec 64) (hw : Word) (s : State) : Out := .next (s.feRelease.regWrite a off size v hw)

/-- RC_FIELD_READ: a register read, and the value it returns; a read of an FE register waits while its Steward is gone (R556). -/
def execRcFieldRead (a : RegAgent) (off size : Nat) (upd : Word) (s : State) : Out :=
  if s.agentOn a = false then .next s
  else match s.agentExc a off size false with
    | some t => .next t
    | none =>
      let s := s.feRelease
      if s.feReads a off size then .next { s with wide.fe := s.wide.fe ++ [.read a off size upd] }
      else
        let r := s.regRead a off size upd
        .next (r.1.emit (.readData r.2))

/-- REGISTER_WINDOW_WRITE: a write of a Steward to a control block's word in a cycle in which the hardware sets no bit of it; one that meets
such a set is REGISTER_WRITE (R9). -/
def execRegisterWindowWrite (u : UnitId) (off : BitVec 12) (v : Word) (s : State) : Out :=
  .next ((s.ctlWrite u off.toNat v 0).getD (s.violate 5 0 13 0xFF 5 (ctlKey u off.toNat) v.toNat))

end Sys2Proof.Machine
end

