-- ==== Sys2Proof/Machine/LoadStore.lean ====
section
/-! DEFINITION. Loads and stores: the bodies of LD, ST, LDA and STA, and pip pairs with their memory pips (spec/03 R92, R93, R102 to R111;
spec/05 R155, R173 to R180; spec/20 R541, R542). -/

namespace Sys2Proof.Machine

/-! ## D-space accesses -/

/-- Load `w` bytes at an address: the state after it and the bytes, or the exception it raises. A read of the CSR window or the private
region has the side effects of a register read. -/
def State.load (s : State) (u : UnitId) (a : Word) (w : Nat) : Except Cause (State × List Byte) :=
  match s.place u a w false with
  | .error k => .error k
  | .ok (.csr o) => let r := s.placeRead (wordPlace (keyOfBar0 o)) 0xFFFFFFFF#32 0; .ok (r.1, natLe 4 r.2.toNat)
  | .ok (.priv o) => let r := s.placeRead (s.privPlace o) 0xFFFFFFFF#32 0; .ok (r.1, natLe 4 r.2.toNat)
  | .ok p =>
    match s.ramAt u p with
    | some (r, pw, o) => if r.anyBad pw o w then .error .dataEcc else .ok (s.eccReads u [(p, w)], r.bytes.bytes o w)
    | none => .ok (s, [])

/-- Store bytes at an address: the state after it, or the exception it raises. A store narrower than the protection word reads and
merges it (R177, R228). -/
def State.store (s : State) (u : UnitId) (a : Word) (l : List Byte) : Except Cause State :=
  match s.place u a l.length true with
  | .error k => .error k
  | .ok (.csr o) => .ok (s.placeWrite (wordPlace (keyOfBar0 o)) o (BitVec.ofNat 32 (leNat l)) 0)
  | .ok (.priv o) => .ok (s.placeWrite (s.privPlace o) (0x20000000 + o) (BitVec.ofNat 32 (leNat l)) 0)
  | .ok p =>
    match s.ramAt u p with
    | some (r, pw, o) =>
      if r.mergeFails pw o l.length then .error .dataEcc
      else .ok ((if l.length < pw then s.eccReads u [(p, l.length)] else s).putAt u l p)
    | none => .ok s

/-- An address falls in an HBM aperture (event 0x08). -/
def inAperture (a : Word) : Bool := 0x40000000 ≤ a.toNat && a.toNat < 0x80000000

/-- Count a completed load. -/
def Core.countLoad (c : Core) (a : Word) : Core := (c.count 0x05 1).count 0x08 (b2n (inAperture a))

/-! ## LD, ST, LDA, STA (R173 to R177) -/

/-- The access width of a SIZE field in bytes. -/
def sizeBytes (z : BitVec 2) : Nat := 2 ^ z.toNat

/-- The value loaded into gT for SIZE below 3 (R176). -/
def loadValue (z : BitVec 2) (sx : Bool) (l : List Byte) : Word :=
  if sx ∧ z = 0 then (BitVec.ofNat 8 (leNat l)).signExtend 32
  else if sx ∧ z = 1 then (BitVec.ofNat 16 (leNat l)).signExtend 32
  else BitVec.ofNat 32 (leNat l)

/-- Update the base register (Table 5.4). -/
def Core.setBase (c : Core) (mode : BitVec 2) (b : BitVec 5) (old k : Word) : Core :=
  if mode = 0 then c else c.setG b (baseAfter mode old k)

/-- LD. -/
def bodyLd (f : FM) (u : UnitId) (s : State) : BodyOut :=
  let w := sizeBytes f.size
  let base := (s.core u).getG f.base
  let k := memOffset f.off w
  let a := accessAddr f.mode base k
  if s.heldAt u a w false then .held
  else match s.load u a w with
  | .error e => .exc e (some a) false
  | .ok (t, l) =>
    .ok (t.modCore u fun c =>
      let c := if f.size = 3 then c.setG2 f.t (BitVec.ofNat 64 (leNat l)) else c.setG f.t (loadValue f.size f.sx l)
      (c.setBase f.mode f.base base k).countLoad a) .seq

/-- ST. -/
def bodySt (f : FM) (u : UnitId) (s : State) : BodyOut :=
  let c := s.core u
  let w := sizeBytes f.size
  let base := c.getG f.base
  let k := memOffset f.off w
  let a := accessAddr f.mode base k
  let v := if f.size = 3 then (c.getG2 f.t).toNat else (c.getG f.t).toNat
  if s.heldAt u a w true then .held
  else match s.store u a (natLe w v) with
  | .error e => .exc e (some a) false
  | .ok t => .ok (t.modCore u fun c => (c.setBase f.mode f.base base k).count 0x06 1) .seq

/-- LDA: the low 40 bits of the 8 bytes (R76). -/
def bodyLda (f : FMA) (u : UnitId) (s : State) : BodyOut :=
  let base := (s.core u).getG f.base
  let k := memOffset f.off 8
  let a := accessAddr f.mode base k
  if s.heldAt u a 8 false then .held
  else match s.load u a 8 with
  | .error e => .exc e (some a) false
  | .ok (t, l) =>
    .ok (t.modCore u fun c => ((c.setAcc f.acc (BitVec.ofNat 40 (leNat l))).setBase f.mode f.base base k).countLoad a) .seq

/-- STA: the accumulator sign-extended to 8 bytes (R76). -/
def bodySta (f : FMA) (u : UnitId) (s : State) : BodyOut :=
  let c := s.core u
  let base := c.getG f.base
  let k := memOffset f.off 8
  let a := accessAddr f.mode base k
  if s.heldAt u a 8 true then .held
  else match s.store u a (natLe 8 ((c.getAcc f.acc).signExtend 64).toNat) with
  | .error e => .exc e (some a) false
  | .ok t => .ok (t.modCore u fun c => (c.setBase f.mode f.base base k).count 0x06 1) .seq

/-! ## Pip pairs (R92, R93, R155, R180) -/

/-- The access of a memory pip: its address and, for STW, the bytes it stores. -/
def pipAccess (q : Pip) (old : Core) : Option (Word × Option (List Byte)) :=
  if q.op = 0xE then some (old.getG q.d, some (natLe 4 (old.getG q.s).toNat))
  else if q.op = 0xF then some (old.getG q.s, none) else none

/-- The exception of a pip, with its BADADDR. -/
def State.pipFault (s : State) (u : UnitId) (q : Pip) : Option (Cause × Word) :=
  match pipAccess q (s.core u) with
  | none => none
  | some (a, none) => (match s.load u a 4 with | .error k => some (k, a) | .ok _ => none)
  | some (a, some l) => (match s.store u a l with | .error k => some (k, a) | .ok _ => none)

/-- The access of a pip is held. -/
def State.pipHeld (s : State) (u : UnitId) (q : Pip) : Bool :=
  match pipAccess q (s.core u) with
  | some (a, d) => s.heldAt u a 4 d.isSome
  | none => false

/-- The exception a pair takes: the lower priority number, the first pip's on a tie; whether it is the second pip's (R155). -/
def pairFault (e1 e2 : Option (Cause × Word)) : Option (Cause × Word × Bool) :=
  match e1, e2 with
  | none, none => none
  | some x, none => some (x.1, x.2, false)
  | none, some y => some (y.1, y.2, true)
  | some x, some y => if y.1.priority < x.1.priority then some (y.1, y.2, true) else some (x.1, x.2, false)

/-- The load of a pip: what it writes to gD once it has run, and the state after the read. -/
def State.pipLoad (s : State) (u : UnitId) (q : Pip) (old : Core) : State × Option (Word × Word) :=
  match pipAccess q old with
  | some (a, none) => (match s.load u a 4 with | .ok (t, l) => (t, some (a, BitVec.ofNat 32 (leNat l))) | .error _ => (s, none))
  | _ => (s, none)
/-- The store of a pip. -/
def State.pipStore (s : State) (u : UnitId) (q : Pip) (old : Core) : State :=
  match pipAccess q old with
  | some (a, some l) => (match s.store u a l with | .ok t => t.modCore u fun c => c.count 0x06 1 | .error _ => s)
  | _ => s
/-- Write the result of a loading pip. -/
def Core.pipLoaded (c : Core) (q : Pip) (v : Option (Word × Word)) : Core := match v with | some x => c.setG q.d x.2 | none => c
/-- Count the load of a loading pip. -/
def Core.pipCounted (c : Core) (v : Option (Word × Word)) : Core := match v with | some x => c.countLoad x.1 | none => c

/-- The status bits a pip sets. -/
def pipFlags (q : Pip) (old : Core) : Word := (pipAlu q old { old with ctl.status := 0 }).ctl.status
/-- Count the settings of the status bits of a pair, each bit once (R92). -/
def Core.countFlags (c : Core) (f : Word) : Core :=
  ((c.count 0x0C (b2n (f.getLsbD 0))).count 0x0D (b2n (f.getLsbD 1))).count 0x0E (b2n (f.getLsbD 2))

/-- The register part of a pair, whose operands stand in `old`: each pip writes in turn, its load's result included. -/
def pairRegs (q1 q2 : Pip) (v1 v2 : Option (Word × Word)) (old c : Core) : Core :=
  let d := (pipAlu q2 old ((pipAlu q1 old c).pipLoaded q1 v1)).pipLoaded q2 v2
  ((Core.countFlags { d with cnt := c.cnt } (pipFlags q1 old ||| pipFlags q2 old)).pipCounted v1).pipCounted v2

/-- A pip pair: loads read before stores write, the second pip's results remain. -/
def bodyPair (q1 q2 : Pip) (u : UnitId) (s : State) : BodyOut :=
  match pairFault (s.pipFault u q1) (s.pipFault u q2) with
  | some (k, a, second) => .exc k (some a) second
  | none =>
    if s.pipHeld u q1 || s.pipHeld u q2 then .held
    else
    let old := s.core u
    let l1 := s.pipLoad u q1 old
    let l2 := l1.1.pipLoad u q2 old
    let s := l2.1.modCore u (pairRegs q1 q2 l1.2 l2.2 old)
    let s := (s.pipStore u q1 old).pipStore u q2 old
    let s := if pipOvf q1 old then s.esOverflow u (s.unitCode u) else s
    .ok (if pipOvf q2 old then s.esOverflow u (s.unitCode u) else s) .seq

end Sys2Proof.Machine
end

