-- ==== Sys2Proof/Machine/CoreExec.lean ====
section
/-! DEFINITION. The issue of core instructions: fetch and decode conditions, guard, completion, REP, blocking ports and STEP, and the
meaning of every core instruction of the table (spec/03 R89 to R93, R100, R115 to R120, R127, R662; spec/04 R129 to R162). -/

namespace Sys2Proof.Machine

/-! ## Fetch and decode conditions -/

/-- The word of I-space at an address. -/
def State.imemWord (s : State) (u : UnitId) (a : BitVec 16) : Word :=
  BitVec.ofNat 32 (leNat ((s.imem[u.val]'u.isLt).bytes.bytes a.toNat 4))

/-- Read the word at an address of I-space: a corrected error is flagged and reported, an uncorrectable one is reported and answers true
(R120, R157). -/
def State.fetchAt (s : State) (u : UnitId) (a : BitVec 16) : State × Bool :=
  let r := s.imem[u.val]'u.isLt
  if r.anyBad 4 a.toNat 4 then (s.report 0x04 (s.unitCode u) (coreRow true a.toNat), true)
  else if r.anySoft 4 a.toNat 4 then ((s.modCore u fun c => c.setFlag 3).report 0x03 (s.unitCode u) (coreRow true a.toNat), false)
  else (s, false)

/-- The decode condition of an operation: whether it meets ILLEGAL, and in a pair whether its second pip does (R91, R155, R165). -/
def decodeFault (pc : BitVec 16) (op : CoreOp) : Option Bool :=
  if opLegal pc op then none else some (match op with | .pair q _ => pipOk q | _ => false)

/-- The width in bytes of the access of an operation. -/
def opWidth : CoreOp → Nat
  | .ld f => sizeBytes f.size
  | .st f => sizeBytes f.size
  | .lda _ => 8
  | .sta _ => 8
  | _ => 4

/-! ## Exceptions -/

/-- A unit raises an exception at an address: the words a failed access met are reported (R230), the entry is charged where a handler is
entered (Table 4.5), and the exception is taken. -/
def State.raise (s : State) (u : UnitId) (k : Cause) (epc : BitVec 16) (bad : Option Word) (i : ExcInfo) (width : Nat) : State :=
  let s := match k, bad with
    | .dataEcc, some a => (match s.place u a width false with | .ok p => s.eccReads u [(p, width)] | .error _ => s)
    | _, _ => s
  let s := if (s.core u).exl || !(s.core u).evecEn then s else s.modCore u Core.chargeExc
  s.takeExc u k epc bad i

/-! ## Waiting and settling -/

/-- A unit stands on a blocking port (R115). -/
def State.waitOn (s : State) (u : UnitId) (x : Issue) (op : CoreOp) (rep : Option (BitVec 5)) : State :=
  s.modCore u fun c => { c with run.state := .waiting, run.waitOp := some op, run.waitIssue := x, run.waitRep := rep }

/-- What one issued operation does once it is fetched and decoded. -/
def State.settle (s : State) (u : UnitId) (x : Issue) (op : CoreOp) (b : BodyOut) : State :=
  let pc := (s.core u).regs.pc
  match b with
  | .ok t f => t.finish u pc f
  | .exc k bad second => s.raise u k pc bad ⟨opIsPair op, second, false⟩ (opWidth op)
  | .wait => s.waitOn u x op none
  | .held => s

/-- A RUNNING unit issues an operation at PC: fetch conditions, decode conditions, then the operation. In any other state the unit issues
nothing. -/
def State.issueWith (s : State) (u : UnitId) (x : Issue) (op : CoreOp) (body : State → BodyOut) : State :=
  let c := s.core u
  if c.run.state ≠ .running then s
  else if c.regs.past then s.raise u .fetchRange 0 none ⟨false, false, false⟩ 4
  else
    let q := s.fetchAt u c.regs.pc
    if q.2 then q.1.raise u .fetchEcc c.regs.pc none ⟨false, false, false⟩ 4
    else
      match decodeFault c.regs.pc op with
      | some second => q.1.raise u .illegal c.regs.pc none ⟨opIsPair op, second, false⟩ 4
      | none => q.1.settle u x op (q.1.attempt u x op body)

/-! ## The body of every operation -/

/-- The body of an operation: what a REP repetition, a STEP and a waiting access run. -/
def bodyOf (u : UnitId) : CoreOp → State → BodyOut
  | .nop _ => pureBody u id
  | .add f => pureBody u (bodyAdd f) | .sub f => pureBody u (bodySub f) | .and f => pureBody u (bodyAnd f)
  | .or f => pureBody u (bodyOr f) | .xor f => pureBody u (bodyXor f) | .shl f => pureBody u (bodyShl f)
  | .shr f => pureBody u (bodyShr f) | .sar f => pureBody u (bodySar f) | .min f => pureBody u (bodyMin f)
  | .max f => pureBody u (bodyMax f) | .minu f => pureBody u (bodyMinu f) | .maxu f => pureBody u (bodyMaxu f)
  | .mul f => pureBody u (bodyMul f) | .mulh f => pureBody u (bodyMulh f) | .mulhu f => pureBody u (bodyMulhu f)
  | .fmul f => pureBody u (bodyFmul f)
  | .esadd f => fun s => esaddOut u (esaddOvf f (s.core u)) (bodyEsadd f) s
  | .esaddD f => fun s => esaddOut u (esaddDOvf f (s.core u)) (bodyEsaddD f) s
  | .sel f => pureBody u (bodySel f) | .addi f => pureBody u (bodyAddi f) | .andi f => pureBody u (bodyAndi f)
  | .ori f => pureBody u (bodyOri f) | .xori f => pureBody u (bodyXori f) | .movi f => pureBody u (bodyMovi f)
  | .movhi f => pureBody u (bodyMovhi f) | .cmp f => pureBody u (bodyCmp f) | .cmpi f => pureBody u (bodyCmpi f)
  | .mac f => pureBody u (bodyMac f) | .msu f => pureBody u (bodyMsu f) | .ext f => pureBody u (bodyExt f)
  | .accset f => pureBody u (bodyAccset f) | .accclr f => pureBody u (bodyAccclr f) | .accadd f => pureBody u (bodyAccadd f)
  | .ld f => bodyLd f u | .st f => bodySt f u | .lda f => bodyLda f u | .sta f => bodySta f u
  | .fence _ => pureBody u id
  | .inn f => bodyIn f u | .out f => bodyOut f u
  | .mfc f => pureBody u (bodyMfc f) | .mtc f => bodyMtc f u
  | .br f => bodyBr f u | .call f => bodyCall f u | .jmp f => bodyJmp f u | .callr f => bodyCallr f u
  | .ret _ => bodyRet u | .eret _ => bodyEret | .halt _ => bodyHalt | .brk _ => fun _ => bodyBreak
  | .loop f => bodyLoop f u | .loopx _ => bodyLoopx u | .lpop _ => bodyLpop
  | .rep _ => pureBody u id
  | .reserved _ _ => fun _ => .exc .illegal none false
  | .pair p q => bodyPair p q u

/-! ## REP (R145 to R153) -/

/-- One repetition of the target of the REP word at PC; its count stands in register `r`. One that is held leaves the REP under way, to go on when
the unit issues it again. -/
def State.repeatOne (s : State) (u : UnitId) (r : BitVec 5) (y : Issue) : State × Bool :=
  let pc := (s.core u).regs.pc
  let w := decodeWord (s.imemWord u (pc + 4))
  let x : Issue := { pred := w.pred, neg := w.neg, residue := y.residue, stop := y.stop }
  match s.attempt u x w.op (bodyOf u w.op) with
  | .ok t _ => t.repNext u r
  | .exc k bad second => (s.raise u k pc bad ⟨opIsPair w.op, second, true⟩ (opWidth w.op), false)
  | .wait => (s.waitOn u x w.op (some r), false)
  | .held => (s.modCore u fun c => { c with run.repHeld := true }, false)

/-- What follows a repetition that another would follow: a HALT_REQ that arrives at this boundary halts the unit at the REP word, with the
remaining count in the register; otherwise the Issue of the next repetition (R152). -/
def issueNext (y : Issue) : Option Issue :=
  match y.stop with
  | some 0 => none
  | some 1 => none
  | some (k + 2) => some { y with residue := false, stop := some (k + 1) }
  | none => some { y with residue := false }

/-- Repetitions until one of them ends the run or a HALT_REQ stops it. -/
def State.repLoop (u : UnitId) (r : BitVec 5) : Nat → Issue → State → State
  | 0, _, s => s
  | n + 1, y, s =>
    match s.repeatOne u r y, issueNext y with
    | (t, true), some z => State.repLoop u r n z t
    | (t, true), none => t.modCore u fun c => c.halted .request
    | (t, false), _ => t

/-- Run the repetitions that the count in `r` gives. -/
def State.repRun (s : State) (u : UnitId) (r : BitVec 5) (y : Issue) : State := State.repLoop u r ((s.core u).getG r).toNat y s

/-- REP with its target fetched and both decoded (R145 to R148). A STEP at a REP that does not execute for its guard halts with PC at the target,
which has not run (DESIGN CHOICE, log entry 152). -/
def State.repIssue (s : State) (u : UnitId) (x : Issue) (f : FREP) : State :=
  let c := s.core u
  let pc := c.regs.pc
  if c.guard x = false then
    let s := (s.modCore u fun c => c.count 0x03 1).chargeFree u 2 { retire := 0, pipEmpty := 0, predOff := 2 }
    (s.modCore u fun c => { c.fallThrough pc with loops.repPend := true }).stepEnd u
  else if c.getG f.a = 0 then
    let s := (s.modCore u fun c => c.count 0x02 1).chargeFree u 2 { retire := 2, pipEmpty := 0, predOff := 0 }
    (s.modCore u fun c => Core.follow (c.endCheck [pc, pc + 4]) (pc + 4)).stepEnd u
  else
    if c.run.repHeld then (s.modCore u fun c => { c with run.repHeld := false, loops.repPend := false }).repRun u f.a x
    else
      let s := (s.modCore u fun c => { c.count 0x02 1 with loops.repPend := false }).chargeFree u 1 { retire := 2, pipEmpty := 0, predOff := 0 }
      s.repRun u f.a x

/-- A RUNNING unit issues REP at PC: its own conditions first, then those of its target, whether or not it executes (R150, R156). An
uncorrectable error in the target's word raises FETCH_ECC at the REP word (DEDUCED, log entry 153). -/
def State.issueRep (s : State) (u : UnitId) (x : Issue) (f : FREP) : State :=
  let c := s.core u
  let pc := c.regs.pc
  let i : ExcInfo := ⟨false, false, false⟩
  if c.run.state ≠ .running then s
  else if c.regs.past then s.raise u .fetchRange 0 none i 4
  else
    let q := s.fetchAt u pc
    if q.2 then q.1.raise u .fetchEcc pc none i 4
    else if f.rsv ≠ 0 then q.1.raise u .illegal pc none i 4
    else if pc = 0xFFFC#16 then q.1.raise u .fetchRange pc none i 4
    else
      let p := q.1.fetchAt u (pc + 4)
      if p.2 then p.1.raise u .fetchEcc pc none i 4
      else
        match repTargetCause pc f.a (decodeWord (p.1.imemWord u (pc + 4))).op with
        | some k => p.1.raise u k pc none i 4
        | none => p.1.repIssue u x f

/-! ## Waiting accesses and STEP -/

/-- A WAITING unit whose port stays not ready for as long as the watchdog raises IO_TIMEOUT, and the access has no effect (R115). -/
def State.ioTimeout (s : State) (u : UnitId) (op : CoreOp) : State :=
  let c := s.core u
  (s.modCore u fun c => c.chargeIo (2 ^ (c.iowdExp + 10))).raise u .ioTimeout c.regs.pc (some (waitPort op))
    ⟨false, false, c.run.waitRep.isSome⟩ 4

/-- The access a WAITING unit stands on completes after the cycles it waited, and the unit goes on; after a wait as long as the watchdog it
raises IO_TIMEOUT instead (R115, R127). A port that is not ready keeps it waiting. -/
def State.ioReady (s : State) (u : UnitId) (cycles : Nat) : State :=
  let c := s.core u
  match c.run.state, c.run.waitOp with
  | .waiting, some op =>
    if 2 ^ (c.iowdExp + 10) ≤ cycles then s.ioTimeout u op
    else
      match s.ioComplete u op cycles, c.run.waitRep, issueNext c.run.waitIssue with
      | some (t, true), some r, some y => t.repRun u r y
      | some (t, true), some _, none => t.modCore u fun c => c.halted .request
      | some (t, _), _, _ => t
      | none, _, _ => s
  | _, _ => s

/-- The IO watchdog of a WAITING unit expires (R115). -/
def State.ioExpire (s : State) (u : UnitId) : State :=
  let c := s.core u
  match c.run.state, c.run.waitOp with
  | .waiting, some op =>
    match ioBody u op s with
    | .wait => s.ioTimeout u op
    | _ => s
  | _, _ => s

/-- A RUNNING unit issues the word that stands in I-space at PC. -/
def State.runNext (s : State) (u : UnitId) (residue : Bool) : State :=
  let w := decodeWord (s.imemWord u (s.core u).regs.pc)
  let x : Issue := { pred := w.pred, neg := w.neg, residue := residue, stop := none }
  match w.op with
  | .rep f => s.issueRep u x f
  | op => s.issueWith u x op (bodyOf u op)

/-- STEP of a unit (R662). -/
def State.coreStep (s : State) (u : UnitId) (residue : Bool) : State :=
  match (s.core u).run.state with
  | .halted => (s.stepBegin u).runNext u residue
  | _ => s.cmdErr u

/-- IO_PORT_READY. -/
def execIoPortReady (u : UnitId) (cycles : Nat) (s : State) : Out := .next (s.ioReady u cycles)
/-- IO_TIMEOUT. -/
def execIoTimeout (u : UnitId) (s : State) : Out := .next (s.ioExpire u)
/-- CORE_STEP. -/
def execCoreStep (u : UnitId) (residue : Bool) (s : State) : Out := .next (s.coreStep u residue)

/-! ## The instructions of the table -/

/-- A port of an engine (Table 5.8). -/
def enginePort (e : Fin 4) (o : Nat) : BitVec 16 := BitVec.ofNat 16 (e.val * 256 + o)
/-- A port of a run of eight (Tables 5.8 and 20.3). -/
def portRun (base : Nat) (n : Fin 8) : BitVec 16 := BitVec.ofNat 16 (base + n.val)

/-- NOP (R90). -/
def execNop (u : UnitId) (x : Issue) (f : FN) (s : State) : Out :=
  .next (s.issueWith u x (.nop f) (pureBody u id))
/-- ADD (R81). -/
def execAdd (u : UnitId) (x : Issue) (f : FRR) (s : State) : Out :=
  .next (s.issueWith u x (.add f) (pureBody u (bodyAdd f)))
/-- SUB (R81). -/
def execSub (u : UnitId) (x : Issue) (f : FRR) (s : State) : Out :=
  .next (s.issueWith u x (.sub f) (pureBody u (bodySub f)))
/-- AND (R166). -/
def execAnd (u : UnitId) (x : Issue) (f : FRR) (s : State) : Out :=
  .next (s.issueWith u x (.and f) (pureBody u (bodyAnd f)))
/-- OR (R166). -/
def execOr (u : UnitId) (x : Issue) (f : FRR) (s : State) : Out :=
  .next (s.issueWith u x (.or f) (pureBody u (bodyOr f)))
/-- XOR (R166). -/
def execXor (u : UnitId) (x : Issue) (f : FRR) (s : State) : Out :=
  .next (s.issueWith u x (.xor f) (pureBody u (bodyXor f)))
/-- SHL (R81). -/
def execShl (u : UnitId) (x : Issue) (f : FRR) (s : State) : Out :=
  .next (s.issueWith u x (.shl f) (pureBody u (bodyShl f)))
/-- SHR (R166). -/
def execShr (u : UnitId) (x : Issue) (f : FRR) (s : State) : Out :=
  .next (s.issueWith u x (.shr f) (pureBody u (bodyShr f)))
/-- SAR (R166). -/
def execSar (u : UnitId) (x : Issue) (f : FRR) (s : State) : Out :=
  .next (s.issueWith u x (.sar f) (pureBody u (bodySar f)))
/-- MIN (R166). -/
def execMin (u : UnitId) (x : Issue) (f : FRR) (s : State) : Out :=
  .next (s.issueWith u x (.min f) (pureBody u (bodyMin f)))
/-- MAX (R166). -/
def execMax (u : UnitId) (x : Issue) (f : FRR) (s : State) : Out :=
  .next (s.issueWith u x (.max f) (pureBody u (bodyMax f)))
/-- MINU (R166). -/
def execMinu (u : UnitId) (x : Issue) (f : FRR) (s : State) : Out :=
  .next (s.issueWith u x (.minu f) (pureBody u (bodyMinu f)))
/-- MAXU (R166). -/
def execMaxu (u : UnitId) (x : Issue) (f : FRR) (s : State) : Out :=
  .next (s.issueWith u x (.maxu f) (pureBody u (bodyMaxu f)))
/-- MUL (R167). -/
def execMul (u : UnitId) (x : Issue) (f : FRR) (s : State) : Out :=
  .next (s.issueWith u x (.mul f) (pureBody u (bodyMul f)))
/-- MULH (R167). -/
def execMulh (u : UnitId) (x : Issue) (f : FRR) (s : State) : Out :=
  .next (s.issueWith u x (.mulh f) (pureBody u (bodyMulh f)))
/-- MULHU (R167). -/
def execMulhu (u : UnitId) (x : Issue) (f : FRR) (s : State) : Out :=
  .next (s.issueWith u x (.mulhu f) (pureBody u (bodyMulhu f)))
/-- FMUL (R168). -/
def execFmul (u : UnitId) (x : Issue) (f : FRR) (s : State) : Out :=
  .next (s.issueWith u x (.fmul f) (pureBody u (bodyFmul f)))
/-- ESADD (R170). -/
def execEsadd (u : UnitId) (x : Issue) (f : FRR) (s : State) : Out :=
  .next (s.issueWith u x (.esadd f) (fun s => esaddOut u (esaddOvf f (s.core u)) (bodyEsadd f) s))
/-- ESADD_D (R170). -/
def execEsaddD (u : UnitId) (x : Issue) (f : FRR) (s : State) : Out :=
  .next (s.issueWith u x (.esaddD f) (fun s => esaddOut u (esaddDOvf f (s.core u)) (bodyEsaddD f) s))
/-- SEL (R166). -/
def execSel (u : UnitId) (x : Issue) (f : FRS) (s : State) : Out :=
  .next (s.issueWith u x (.sel f) (pureBody u (bodySel f)))
/-- ADDI (R81). -/
def execAddi (u : UnitId) (x : Issue) (f : FRI) (s : State) : Out :=
  .next (s.issueWith u x (.addi f) (pureBody u (bodyAddi f)))
/-- ANDI (R166). -/
def execAndi (u : UnitId) (x : Issue) (f : FRI) (s : State) : Out :=
  .next (s.issueWith u x (.andi f) (pureBody u (bodyAndi f)))
/-- ORI (R166). -/
def execOri (u : UnitId) (x : Issue) (f : FRI) (s : State) : Out :=
  .next (s.issueWith u x (.ori f) (pureBody u (bodyOri f)))
/-- XORI (R166). -/
def execXori (u : UnitId) (x : Issue) (f : FRI) (s : State) : Out :=
  .next (s.issueWith u x (.xori f) (pureBody u (bodyXori f)))
/-- MOVI (R166). -/
def execMovi (u : UnitId) (x : Issue) (f : FI16) (s : State) : Out :=
  .next (s.issueWith u x (.movi f) (pureBody u (bodyMovi f)))
/-- MOVHI (R166). -/
def execMovhi (u : UnitId) (x : Issue) (f : FI16) (s : State) : Out :=
  .next (s.issueWith u x (.movhi f) (pureBody u (bodyMovhi f)))
/-- CMP (R172). -/
def execCmp (u : UnitId) (x : Issue) (f : FPC) (s : State) : Out :=
  .next (s.issueWith u x (.cmp f) (pureBody u (bodyCmp f)))
/-- CMPI (R172). -/
def execCmpi (u : UnitId) (x : Issue) (f : FPCI) (s : State) : Out :=
  .next (s.issueWith u x (.cmpi f) (pureBody u (bodyCmpi f)))
/-- MAC (R78). -/
def execMac (u : UnitId) (x : Issue) (f : FAC) (s : State) : Out :=
  .next (s.issueWith u x (.mac f) (pureBody u (bodyMac f)))
/-- MSU (R78). -/
def execMsu (u : UnitId) (x : Issue) (f : FAC) (s : State) : Out :=
  .next (s.issueWith u x (.msu f) (pureBody u (bodyMsu f)))
/-- EXT (R80). -/
def execExt (u : UnitId) (x : Issue) (f : FEX) (s : State) : Out :=
  .next (s.issueWith u x (.ext f) (pureBody u (bodyExt f)))
/-- ACCSET (R166). -/
def execAccset (u : UnitId) (x : Issue) (f : FAR) (s : State) : Out :=
  .next (s.issueWith u x (.accset f) (pureBody u (bodyAccset f)))
/-- ACCCLR (R166). -/
def execAccclr (u : UnitId) (x : Issue) (f : FAR) (s : State) : Out :=
  .next (s.issueWith u x (.accclr f) (pureBody u (bodyAccclr f)))
/-- ACCADD (R79). -/
def execAccadd (u : UnitId) (x : Issue) (f : FAA) (s : State) : Out :=
  .next (s.issueWith u x (.accadd f) (pureBody u (bodyAccadd f)))
/-- LD (R173). -/
def execLd (u : UnitId) (x : Issue) (f : FM) (s : State) : Out :=
  .next (s.issueWith u x (.ld f) (bodyLd f u))
/-- ST (R173). -/
def execSt (u : UnitId) (x : Issue) (f : FM) (s : State) : Out :=
  .next (s.issueWith u x (.st f) (bodySt f u))
/-- LDA (R76). -/
def execLda (u : UnitId) (x : Issue) (f : FMA) (s : State) : Out :=
  .next (s.issueWith u x (.lda f) (bodyLda f u))
/-- STA (R76). -/
def execSta (u : UnitId) (x : Issue) (f : FMA) (s : State) : Out :=
  .next (s.issueWith u x (.sta f) (bodySta f u))
/-- FENCE (R109). -/
def execFence (u : UnitId) (x : Issue) (f : FN) (s : State) : Out :=
  .next (s.issueWith u x (.fence f) (pureBody u id))
/-- MFC (R95). -/
def execMfc (u : UnitId) (x : Issue) (f : FCR) (s : State) : Out :=
  .next (s.issueWith u x (.mfc f) (pureBody u (bodyMfc f)))
/-- MTC (R95). -/
def execMtc (u : UnitId) (x : Issue) (f : FCR) (s : State) : Out :=
  .next (s.issueWith u x (.mtc f) (bodyMtc f u))
/-- BR (R129). -/
def execBr (u : UnitId) (x : Issue) (f : FB) (s : State) : Out :=
  .next (s.issueWith u x (.br f) (bodyBr f u))
/-- CALL (R129). -/
def execCall (u : UnitId) (x : Issue) (f : FB) (s : State) : Out :=
  .next (s.issueWith u x (.call f) (bodyCall f u))
/-- JMP (R129). -/
def execJmp (u : UnitId) (x : Issue) (f : FJ) (s : State) : Out :=
  .next (s.issueWith u x (.jmp f) (bodyJmp f u))
/-- CALLR (R132). -/
def execCallr (u : UnitId) (x : Issue) (f : FJ) (s : State) : Out :=
  .next (s.issueWith u x (.callr f) (bodyCallr f u))
/-- RET (R129). -/
def execRet (u : UnitId) (x : Issue) (f : FN) (s : State) : Out :=
  .next (s.issueWith u x (.ret f) (bodyRet u))
/-- ERET (R143). -/
def execEret (u : UnitId) (x : Issue) (f : FN) (s : State) : Out :=
  .next (s.issueWith u x (.eret f) bodyEret)
/-- HALT (R125). -/
def execHalt (u : UnitId) (x : Issue) (f : FN) (s : State) : Out :=
  .next (s.issueWith u x (.halt f) bodyHalt)
/-- BREAK (R129). -/
def execBrk (u : UnitId) (x : Issue) (f : FN) (s : State) : Out :=
  .next (s.issueWith u x (.brk f) (fun _ => bodyBreak))
/-- LOOP (R136). -/
def execLoop (u : UnitId) (x : Issue) (f : FL) (s : State) : Out :=
  .next (s.issueWith u x (.loop f) (bodyLoop f u))
/-- LOOPX (R136). -/
def execLoopx (u : UnitId) (x : Issue) (f : FN) (s : State) : Out :=
  .next (s.issueWith u x (.loopx f) (bodyLoopx u))
/-- LPOP (R136). -/
def execLpop (u : UnitId) (x : Issue) (f : FN) (s : State) : Out :=
  .next (s.issueWith u x (.lpop f) bodyLpop)
/-- REP (R145). -/
def execRep (u : UnitId) (x : Issue) (f : FREP) (s : State) : Out :=
  .next (s.issueRep u x f)
/-- PIP_PAIR (R92). -/
def execPipPair (u : UnitId) (pred : BitVec 3) (residue : Bool) (p1 p2 : Pip) (s : State) : Out :=
  .next (s.issueWith u ⟨pred, false, residue, none⟩ (.pair p1 p2) (bodyPair p1 p2 u))
/-- ECMD_PUSH (R185). -/
def execEcmdPush (u : UnitId) (x : Issue) (e : Fin 4) (r : BitVec 5) (s : State) : Out :=
  .next (s.issueWith u x (.out ⟨r, enginePort e 0⟩) (bodyOut ⟨r, enginePort e 0⟩ u))
/-- ECPL_POP (R183). -/
def execEcplPop (u : UnitId) (x : Issue) (e : Fin 4) (r : BitVec 5) (s : State) : Out :=
  .next (s.issueWith u x (.inn ⟨r, enginePort e 1⟩) (bodyIn ⟨r, enginePort e 1⟩ u))
/-- ECTL_DISCARD (R185). -/
def execEctlDiscard (u : UnitId) (x : Issue) (e : Fin 4) (r : BitVec 5) (s : State) : Out :=
  .next (s.issueWith u x (.out ⟨r, enginePort e 3⟩) (bodyOut ⟨r, enginePort e 3⟩ u))
/-- DCMD_PUSH (R185). -/
def execDcmdPush (u : UnitId) (x : Issue) (r : BitVec 5) (s : State) : Out :=
  .next (s.issueWith u x (.out ⟨r, 0x0400#16⟩) (bodyOut ⟨r, 0x0400#16⟩ u))
/-- DCPL_POP (R183). -/
def execDcplPop (u : UnitId) (x : Issue) (r : BitVec 5) (s : State) : Out :=
  .next (s.issueWith u x (.inn ⟨r, 0x0401#16⟩) (bodyIn ⟨r, 0x0401#16⟩ u))
/-- DCTL_DISCARD (R185). -/
def execDctlDiscard (u : UnitId) (x : Issue) (r : BitVec 5) (s : State) : Out :=
  .next (s.issueWith u x (.out ⟨r, 0x0403#16⟩) (bodyOut ⟨r, 0x0403#16⟩ u))
/-- MB_TX (R183). -/
def execMbTx (u : UnitId) (x : Issue) (r : BitVec 5) (s : State) : Out :=
  .next (s.issueWith u x (.out ⟨r, 0x0500#16⟩) (bodyOut ⟨r, 0x0500#16⟩ u))
/-- MB_RX (R183). -/
def execMbRx (u : UnitId) (x : Issue) (r : BitVec 5) (s : State) : Out :=
  .next (s.issueWith u x (.inn ⟨r, 0x0501#16⟩) (bodyIn ⟨r, 0x0501#16⟩ u))
/-- PEER_TX (R189). -/
def execPeerTx (u : UnitId) (x : Issue) (n : Fin 8) (r : BitVec 5) (s : State) : Out :=
  .next (s.issueWith u x (.out ⟨r, portRun 0x0510 n⟩) (bodyOut ⟨r, portRun 0x0510 n⟩ u))
/-- PEER_RX (R183). -/
def execPeerRx (u : UnitId) (x : Issue) (n : Fin 8) (r : BitVec 5) (s : State) : Out :=
  .next (s.issueWith u x (.inn ⟨r, portRun 0x0520 n⟩) (bodyIn ⟨r, portRun 0x0520 n⟩ u))
/-- CNT_WRITE (R188). -/
def execCntWrite (u : UnitId) (x : Issue) (n : Fin 8) (r : BitVec 5) (s : State) : Out :=
  .next (s.issueWith u x (.out ⟨r, portRun 0x0600 n⟩) (bodyOut ⟨r, portRun 0x0600 n⟩ u))
/-- CNT_SEL_WRITE (R579). -/
def execCntSelWrite (u : UnitId) (x : Issue) (n : Fin 8) (r : BitVec 5) (s : State) : Out :=
  .next (s.issueWith u x (.out ⟨r, portRun 0x0610 n⟩) (bodyOut ⟨r, portRun 0x0610 n⟩ u))
/-- CNT_OVF_CLEAR (R188). -/
def execCntOvfClear (u : UnitId) (x : Issue) (r : BitVec 5) (s : State) : Out :=
  .next (s.issueWith u x (.out ⟨r, 0x0620#16⟩) (bodyOut ⟨r, 0x0620#16⟩ u))
/-- CYC_LO_READ (R665). -/
def execCycLoRead (u : UnitId) (x : Issue) (r : BitVec 5) (s : State) : Out :=
  .next (s.issueWith u x (.inn ⟨r, 0x0621#16⟩) (bodyIn ⟨r, 0x0621#16⟩ u))
/-- BT_NOW_LO_READ (R231). -/
def execBtNowLoRead (u : UnitId) (x : Issue) (r : BitVec 5) (t : Nat) (s : State) : Out :=
  .next ((s.advance t).issueWith u x (.inn ⟨r, 0x0700#16⟩) (bodyIn ⟨r, 0x0700#16⟩ u))
/-- BT_ARM (R187). -/
def execBtArm (u : UnitId) (x : Issue) (r : BitVec 5) (s : State) : Out :=
  .next (s.issueWith u x (.out ⟨r, 0x0704#16⟩) (bodyOut ⟨r, 0x0704#16⟩ u))
/-- BT_WAIT (R187). -/
def execBtWait (u : UnitId) (x : Issue) (r : BitVec 5) (s : State) : Out :=
  .next (s.issueWith u x (.inn ⟨r, 0x0705#16⟩) (bodyIn ⟨r, 0x0705#16⟩ u))
/-- SMB_TX (R543). -/
def execSmbTx (st : Fin 8) (x : Issue) (n : Fin 8) (r : BitVec 5) (s : State) : Out :=
  .next (s.issueWith (stewardUnit st) x (.out ⟨r, portRun 0x0500 n⟩) (bodyOut ⟨r, portRun 0x0500 n⟩ (stewardUnit st)))
/-- SMB_RX (R543). -/
def execSmbRx (st : Fin 8) (x : Issue) (n : Fin 8) (r : BitVec 5) (s : State) : Out :=
  .next (s.issueWith (stewardUnit st) x (.inn ⟨r, portRun 0x0510 n⟩) (bodyIn ⟨r, portRun 0x0510 n⟩ (stewardUnit st)))
/-- CMSG_POP (R543). -/
def execCmsgPop (st : Fin 8) (x : Issue) (r : BitVec 5) (s : State) : Out :=
  .next (s.issueWith (stewardUnit st) x (.inn ⟨r, 0x0530#16⟩) (bodyIn ⟨r, 0x0530#16⟩ (stewardUnit st)))
/-- CTX_WRITE (R543). -/
def execCtxWrite (st : Fin 8) (x : Issue) (r : BitVec 5) (s : State) : Out :=
  .next (s.issueWith (stewardUnit st) x (.out ⟨r, 0x0533#16⟩) (bodyOut ⟨r, 0x0533#16⟩ (stewardUnit st)))
/-- UNCATALOGUED_PORT_ACCESS (R113). -/
def execUncataloguedPortAccess (u : UnitId) (x : Issue) (out : Bool) (f : FIO) (s : State) : Out :=
  .next (if out then s.issueWith u x (.out f) (bodyOut f u) else s.issueWith u x (.inn f) (bodyIn f u))

end Sys2Proof.Machine
end

