-- ==== Sys2Proof/Machine/FwRows.lean ====
section
/-! DEFINITION. The commands that start a Graft or a restart, and those after which a Steward runs again, with the accesses to FE registers that had
waited for it (spec/20 R553 to R561). -/

namespace Sys2Proof.Machine

/-- Steward 2 runs again: cores are loaded for their next events, and for an activation to come. -/
def State.coresBack (s : State) : State :=
  let s := (List.range 256).foldl (fun s n => s.reload (coreUnit n)) s
  if s.beat.activation then s.preload else s
/-- Steward 6 runs again: the records due are sent, and those that came are applied. -/
def State.mirrorBack (s : State) : State :=
  (s.twin.unsent.foldl (fun (s : State) m => s.emit (.mirror m.1 m.2)) { s with twin.unsent := [] }).mirConfirm
/-- A Steward runs again: what waited for it goes on (Table 20.6, Table 23.2, R594). -/
def State.stewardBack (s : State) (n : Nat) : State :=
  let s :=
    if n = 0 then s.recordAgain.recordStart
    else if n = 1 then (if s.fld R.twinState = 2 then s else s.lateQuiesce)
    else if n = 2 then s.coresBack
    else if n = 4 then s.blkRun
    else if n = 5 then s.trimReports
    else if n = 6 then s.mirrorBack
    else s
  s.takeoverBack.ckptBack
/-- The new firmware has not taken over: it is halted, FLAGS.RETURN is set in the record, and the old image runs from it (R558 step 5). -/
def State.graftReturn (s : State) (n len status : Nat) : State :=
  let a := s.recordAddr n + 30
  let b := s.hbm.bytes.get (s.workKey a)
  let s := (s.hbmStore a [b ||| 1#8]).haltReq (stewardUnit n)
  ((s.runSteward n (s.fwImage n) 0xBF000000 len).graftEnd status).stewardBack n

/-- STEWARD_RESTART: the loader restarts a stopped Steward from its image in force, from its handover record where a Graft left one. -/
def execStewardRestart (n : Fin 8) (t : Nat) (s : State) : Out :=
  let s := s.advance t
  if !s.stopped.contains n.val ∨ s.stopped.contains (stewardLoader n.val) then .next s
  else
    let k := (s.fw.back.find? fun b => b.1 == n.val).map (·.2)
    let s := { s with stopped := s.stopped.erase n.val, fw.back := s.fw.back.filter fun b => b.1 != n.val }
    let s := match k with
      | some k => s.runSteward n.val (s.fwImage n.val) 0xBF000000 k
      | none => s.runSteward n.val (s.fwImage n.val) 0 0
    .next ((((s.setFld (R.fwRestarting n.val) 0).stewardBack n.val).handover).feRelease)

/-- GRAFT. -/
def execGraft (mask : BitVec 8) (persist : Bool) (t : Nat) (s : State) : Out := 
  .next ((s.advance t).feCmd 0x40000C (1 + mask.toNat * 256 + b2n persist * 65536) fun s => s.graftStart mask.toNat persist)

/-- GRAFT_RESTART_CMD. -/
def execGraftRestartCmd (mask : BitVec 8) (t : Nat) (s : State) : Out := 
  .next ((s.advance t).feCmd 0x40000C (2 + mask.toNat * 256) fun s => s.graftRestart mask.toNat)

/-- GRAFT_HANDOVER_TIMEOUT: no answer to HANDOVER within 2 ms. -/
def execGraftHandoverTimeout (t : Nat) (s : State) : Out :=
  let s := s.advance t
  match s.fw.graft with
  | some g =>
    if g.sent ∧ g.recLen.isNone ∧ !g.targets.isEmpty ∧ g.since + 2000000 ≤ s.time.now then .next ((s.graftEnd 6).stewardBack (g.targets.headD 0)).feRelease else .next s
  | none => .next s
/-- ACCEPT: the new firmware runs, and the Graft moves to the next target. -/
def execAccept (n : Fin 8) (t : Nat) (s : State) : Out :=
  let s := s.advance t
  match s.grafting n.val with
  | none => .next s
  | some g =>
    if g.recLen.isNone then .next s
    else
      let s := { s with fw.images := s.fw.images.set n.val (pkgImage g.pkg n.val) (by omega) }.setFld (R.fwGrafting n.val) 0
      let s := s.setFld R.graftDone (s.fld R.graftDone ||| 2 ^ n.val)
      .next ((s.stewardBack n.val).graftNext).feRelease

/-- REFUSE: the code the new firmware gives is a refusal under R560. -/
def execRefuse (n : Fin 8) (code : BitVec 8) (t : Nat) (s : State) : Out :=
  let s := s.advance t
  match s.grafting n.val with
  | some g => (match g.recLen with | some k => .next ((s.graftReturn n.val k 8).emit (.toSteward (stewardLoader n.val) 3 code.toNat 0)).feRelease | none => .next s)
  | none => .next s
/-- GRAFT_START_TIMEOUT: no answer within 4 ms. -/
def execGraftStartTimeout (t : Nat) (s : State) : Out :=
  let s := s.advance t
  match s.fw.graft with
  | some g =>
    (match g.recLen, g.targets with
     | some k, n :: _ => if g.since + 4000000 ≤ s.time.now then .next (s.graftReturn n k 9).feRelease else .next s
     | _, _ => .next s)
  | none => .next s

end Sys2Proof.Machine
end

