-- ==== Sys2Proof/Machine/LftRows.lean ====
section
/-! DEFINITION. The commands of the transport: control operations, work requests, packets and timers (spec/09), and what waits for space
and credit (spec/09 R319, spec/11 R357, spec/19 R534). -/

namespace Sys2Proof.Machine

/-- After the transport has acted: notify completions are posted, the block service takes up what has finished, and what the twin and
witness functions had posted ends without more. -/
def State.lftDone (s : State) : State :=
  let s := s.lftNotified.blkRun
  { s with lft.finished := s.lft.finished.filter fun f => f.1 != 18 && f.1 != 19 }

/-- QP_CREATE. -/
def execQpCreate (c : CtlSrc) (notifyRing : Nat) (a : QpAttr) (s : State) : Out :=
  .next (s.ctlOp c false (qpParamLen 1 a) 0 3 fun s owner w st => s.qpCreate owner w st notifyRing a)
/-- QP_QUARANTINE_END. -/
def execQpQuarantineEnd (qpn t : Nat) (s : State) : Out := .next ((s.advance t).quarantineEnd qpn)
/-- QP_MODIFY. -/
def execQpModify (c : CtlSrc) (qpn mask : Nat) (a : QpAttr) (s : State) : Out :=
  .next (s.ctlOp c false (qpParamLen 3 a) 0 3 fun s owner _ _ => s.qpModify owner qpn mask a).lftDone
/-- QP_CONNECT. -/
def execQpConnect (c : CtlSrc) (qpn t : Nat) (s : State) : Out :=
  .next ((s.advance t).ctlOp c false 2 0 3 fun s owner _ _ => s.qpConnect owner qpn)
/-- QP_RESET. -/
def execQpReset (c : CtlSrc) (qpn : Nat) (s : State) : Out :=
  .next (s.ctlOp c false 2 0 3 fun s owner _ _ => s.qpReset owner qpn).lftDone
/-- QP_DESTROY. -/
def execQpDestroy (c : CtlSrc) (qpn t : Nat) (s : State) : Out :=
  .next ((s.advance t).ctlOp c false 2 0 3 fun s owner _ _ => s.qpDestroy owner qpn).lftDone
/-- QP_CONTEXT_LOADED. -/
def execQpContextLoaded (qpn t : Nat) (s : State) : Out := .next (s.lftLoaded qpn t).lftDone
/-- REGION_REGISTER. -/
def execRegionRegister (c : CtlSrc) (base len access : Nat) (s : State) : Out :=
  .next (s.ctlOp c false 17 0 3 fun s owner _ _ => s.regionRegister owner base len access)
/-- REGION_DEREGISTER. -/
def execRegionDeregister (c : CtlSrc) (rkey : Nat) (s : State) : Out :=
  .next (s.ctlOp c false 4 0 3 fun s owner _ _ => s.regionDeregister owner rkey)

/-- LFT_WRITE. -/
def execLftWrite (src : LftSrc) (b : LftBody) (t : Nat) (s : State) : Out := .next (s.lftRequest 1 src b t).lftDone
/-- LFT_READ. -/
def execLftRead (src : LftSrc) (b : LftBody) (t : Nat) (s : State) : Out := .next (s.lftRequest 2 src b t).lftDone
/-- LFT_WAIT. -/
def execLftWait (src : LftSrc) (b : LftBody) (t : Nat) (s : State) : Out := .next (s.lftRequest 3 src b t).lftDone
/-- A queue pair whose pending wait is met is loaded (R329). -/
def State.waitLoad (s : State) (n : Nat) : State :=
  match s.qp n with
  | some q => if q.resident = false ∧ q.reqs.any (fun r => s.pendingWait q r && s.waitMet r) then s.loadQp n else s
  | none => s
/-- WAIT_MET: the waits of a queue pair are looked at, and what waited goes on (R326, R327). -/
def execWaitMet (qpn t : Nat) (s : State) : Out := .next (((s.advance t).waitLoad qpn).lftSettle (some qpn)).lftDone

/-- LFT_WRITE_PACKET. -/
def execLftWritePacket (port : Fin 33) (p : LftPkt) (t : Nat) (s : State) : Out := .next (s.lftArrive port.val 1 p t).lftDone
/-- LFT_READ_REQ_PACKET. -/
def execLftReadReqPacket (port : Fin 33) (p : LftPkt) (t : Nat) (s : State) : Out := .next (s.lftArrive port.val 2 p t).lftDone
/-- LFT_READ_RESP_PACKET. -/
def execLftReadRespPacket (port : Fin 33) (p : LftPkt) (t : Nat) (s : State) : Out := .next (s.lftArrive port.val 3 p t).lftDone
/-- LFT_ACK_PACKET. -/
def execLftAckPacket (port : Fin 33) (p : LftPkt) (t : Nat) (s : State) : Out := .next (s.lftArrive port.val 4 p t).lftDone
/-- LFT_NAK_PACKET. -/
def execLftNakPacket (port : Fin 33) (p : LftPkt) (t : Nat) (s : State) : Out := .next (s.lftArrive port.val 5 p t).lftDone
/-- LFT_HELLO_PACKET. -/
def execLftHelloPacket (port : Fin 33) (p : LftPkt) (t : Nat) (s : State) : Out := .next (s.lftArrive port.val 6 p t).lftDone
/-- LFT_HELLO_ACK_PACKET. -/
def execLftHelloAckPacket (port : Fin 33) (p : LftPkt) (t : Nat) (s : State) : Out := .next (s.lftArrive port.val 7 p t).lftDone
/-- LFT_RETRY_TIMEOUT. -/
def execLftRetryTimeout (qpn t : Nat) (s : State) : Out := .next (s.lftRetry qpn t).lftDone
/-- ACK_DELAY_TIMER. -/
def execAckDelayTimer (qpn t : Nat) (s : State) : Out := .next (s.lftAckDelay qpn t)

/-- NOTIFY_COMPLETION_POST: the ring has a free slot, and the notify completions that waited for it are posted (R319, R513). -/
def execNotifyCompletionPost (i : InstId) (r : Fin 64) (s : State) : Out :=
  .next (if (s.ring i.val r.val).used < (s.ring i.val r.val).cqN then s.retryHeld.lftDone else s)
/-- TOKEN_BUCKET_REFILLED: frames and operations that waited for a ceiling go on (R534, R549). -/
def execTokenBucketRefilled (t : Nat) (s : State) : Out := .next ((s.advance t).txAdmit.lftSettle none).lftDone

end Sys2Proof.Machine
end

