-- ==== Sys2Proof/Machine/Dispatch.lean ====
section
/-! DEFINITION. One arm per command: the direct call of its meaning. -/

namespace Sys2Proof.Machine

/-- The effect of a command on everything but the queue. -/
def exec (i : Instr) (s : State) : Host.Outcome State Fault Refusal :=
  match i with
  | .registerWrite a off size v hw => Sys2Proof.Machine.execRegisterWrite a off size v hw s
  | .rcFieldRead a off size upd => Sys2Proof.Machine.execRcFieldRead a off size upd s
  | .qpContextLoaded qpn t => Sys2Proof.Machine.execQpContextLoaded qpn t s
  | .instanceQuantumExpiry t => Sys2Proof.Machine.execInstanceQuantumExpiry t s
  | .instanceContextLoaded ins t => Sys2Proof.Machine.execInstanceContextLoaded ins t s
  | .nop u x f => Sys2Proof.Machine.execNop u x f s
  | .add u x f => Sys2Proof.Machine.execAdd u x f s
  | .sub u x f => Sys2Proof.Machine.execSub u x f s
  | .and u x f => Sys2Proof.Machine.execAnd u x f s
  | .or u x f => Sys2Proof.Machine.execOr u x f s
  | .xor u x f => Sys2Proof.Machine.execXor u x f s
  | .shl u x f => Sys2Proof.Machine.execShl u x f s
  | .shr u x f => Sys2Proof.Machine.execShr u x f s
  | .sar u x f => Sys2Proof.Machine.execSar u x f s
  | .min u x f => Sys2Proof.Machine.execMin u x f s
  | .max u x f => Sys2Proof.Machine.execMax u x f s
  | .minu u x f => Sys2Proof.Machine.execMinu u x f s
  | .maxu u x f => Sys2Proof.Machine.execMaxu u x f s
  | .mul u x f => Sys2Proof.Machine.execMul u x f s
  | .mulh u x f => Sys2Proof.Machine.execMulh u x f s
  | .mulhu u x f => Sys2Proof.Machine.execMulhu u x f s
  | .fmul u x f => Sys2Proof.Machine.execFmul u x f s
  | .esadd u x f => Sys2Proof.Machine.execEsadd u x f s
  | .esaddD u x f => Sys2Proof.Machine.execEsaddD u x f s
  | .sel u x f => Sys2Proof.Machine.execSel u x f s
  | .addi u x f => Sys2Proof.Machine.execAddi u x f s
  | .andi u x f => Sys2Proof.Machine.execAndi u x f s
  | .ori u x f => Sys2Proof.Machine.execOri u x f s
  | .xori u x f => Sys2Proof.Machine.execXori u x f s
  | .movi u x f => Sys2Proof.Machine.execMovi u x f s
  | .movhi u x f => Sys2Proof.Machine.execMovhi u x f s
  | .cmp u x f => Sys2Proof.Machine.execCmp u x f s
  | .cmpi u x f => Sys2Proof.Machine.execCmpi u x f s
  | .mac u x f => Sys2Proof.Machine.execMac u x f s
  | .msu u x f => Sys2Proof.Machine.execMsu u x f s
  | .ext u x f => Sys2Proof.Machine.execExt u x f s
  | .accset u x f => Sys2Proof.Machine.execAccset u x f s
  | .accclr u x f => Sys2Proof.Machine.execAccclr u x f s
  | .accadd u x f => Sys2Proof.Machine.execAccadd u x f s
  | .ld u x f => Sys2Proof.Machine.execLd u x f s
  | .st u x f => Sys2Proof.Machine.execSt u x f s
  | .lda u x f => Sys2Proof.Machine.execLda u x f s
  | .sta u x f => Sys2Proof.Machine.execSta u x f s
  | .fence u x f => Sys2Proof.Machine.execFence u x f s
  | .mfc u x f => Sys2Proof.Machine.execMfc u x f s
  | .mtc u x f => Sys2Proof.Machine.execMtc u x f s
  | .br u x f => Sys2Proof.Machine.execBr u x f s
  | .call u x f => Sys2Proof.Machine.execCall u x f s
  | .jmp u x f => Sys2Proof.Machine.execJmp u x f s
  | .callr u x f => Sys2Proof.Machine.execCallr u x f s
  | .ret u x f => Sys2Proof.Machine.execRet u x f s
  | .eret u x f => Sys2Proof.Machine.execEret u x f s
  | .halt u x f => Sys2Proof.Machine.execHalt u x f s
  | .brk u x f => Sys2Proof.Machine.execBrk u x f s
  | .loop u x f => Sys2Proof.Machine.execLoop u x f s
  | .loopx u x f => Sys2Proof.Machine.execLoopx u x f s
  | .lpop u x f => Sys2Proof.Machine.execLpop u x f s
  | .rep u x f => Sys2Proof.Machine.execRep u x f s
  | .pipPair u pred residue p1 p2 => Sys2Proof.Machine.execPipPair u pred residue p1 p2 s
  | .ecmdPush u x e r => Sys2Proof.Machine.execEcmdPush u x e r s
  | .ecplPop u x e r => Sys2Proof.Machine.execEcplPop u x e r s
  | .ectlDiscard u x e r => Sys2Proof.Machine.execEctlDiscard u x e r s
  | .dcmdPush u x r => Sys2Proof.Machine.execDcmdPush u x r s
  | .dcplPop u x r => Sys2Proof.Machine.execDcplPop u x r s
  | .dctlDiscard u x r => Sys2Proof.Machine.execDctlDiscard u x r s
  | .mbTx u x r => Sys2Proof.Machine.execMbTx u x r s
  | .mbRx u x r => Sys2Proof.Machine.execMbRx u x r s
  | .peerTx u x n r => Sys2Proof.Machine.execPeerTx u x n r s
  | .peerRx u x n r => Sys2Proof.Machine.execPeerRx u x n r s
  | .cntWrite u x n r => Sys2Proof.Machine.execCntWrite u x n r s
  | .cntSelWrite u x n r => Sys2Proof.Machine.execCntSelWrite u x n r s
  | .cntOvfClear u x r => Sys2Proof.Machine.execCntOvfClear u x r s
  | .cycLoRead u x r => Sys2Proof.Machine.execCycLoRead u x r s
  | .btNowLoRead u x r t => Sys2Proof.Machine.execBtNowLoRead u x r t s
  | .btArm u x r => Sys2Proof.Machine.execBtArm u x r s
  | .btWait u x r => Sys2Proof.Machine.execBtWait u x r s
  | .ioPortReady u cycles => Sys2Proof.Machine.execIoPortReady u cycles s
  | .ioTimeout u => Sys2Proof.Machine.execIoTimeout u s
  | .coreStart u => Sys2Proof.Machine.execCoreStart u s
  | .coreResume u => Sys2Proof.Machine.execCoreResume u s
  | .coreHaltReq u => Sys2Proof.Machine.execCoreHaltReq u s
  | .coreStep u residue => Sys2Proof.Machine.execCoreStep u residue s
  | .coreReset u => Sys2Proof.Machine.execCoreReset u s
  | .registerWindowWrite u off v => Sys2Proof.Machine.execRegisterWindowWrite u off v s
  | .haltMessageLatchRelease u => Sys2Proof.Machine.execHaltMessageLatchRelease u s
  | .convFwd u e residue => Sys2Proof.Machine.execConvFwd u e residue s
  | .convRev u e residue => Sys2Proof.Machine.execConvRev u e residue s
  | .convEs u e residue => Sys2Proof.Machine.execConvEs u e residue s
  | .esaddV u e residue => Sys2Proof.Machine.execEsaddV u e residue s
  | .scout u e residue => Sys2Proof.Machine.execScout u e residue s
  | .smax u e residue => Sys2Proof.Machine.execSmax u e residue s
  | .macV u e residue => Sys2Proof.Machine.execMacV u e residue s
  | .dmaCopy u => Sys2Proof.Machine.execDmaCopy u s
  | .dmaFill u => Sys2Proof.Machine.execDmaFill u s
  | .dmaCopy2d u => Sys2Proof.Machine.execDmaCopy2d u s
  | .loadI u => Sys2Proof.Machine.execLoadI u s
  | .d2dFlitCrcFail dir again lane => Sys2Proof.Machine.execD2dFlitCrcFail dir again lane s
  | .hbmRefresh stack => Sys2Proof.Machine.execHbmRefresh stack s
  | .hbmTempReadout t0 t1 t2 t3 => Sys2Proof.Machine.execHbmTempReadout t0 t1 t2 t3 s
  | .hbmCopyStart n => Sys2Proof.Machine.execHbmCopyStart n s
  | .hbmCopyIssue n => Sys2Proof.Machine.execHbmCopyIssue n s
  | .hbmCopyEnd n uncorr => Sys2Proof.Machine.execHbmCopyEnd n uncorr s
  | .hbmCopyTimeout n progress => Sys2Proof.Machine.execHbmCopyTimeout n progress s
  | .patrolScrub w => Sys2Proof.Machine.execPatrolScrub w s
  | .ptpSync port m t => Sys2Proof.Machine.execPtpSync port m t s
  | .ptpFollowUp port m t => Sys2Proof.Machine.execPtpFollowUp port m t s
  | .ptpPdelayReq port m t => Sys2Proof.Machine.execPtpPdelayReq port m t s
  | .ptpPdelayResp port m t => Sys2Proof.Machine.execPtpPdelayResp port m t s
  | .ptpPdelayRespFollowUp port m t => Sys2Proof.Machine.execPtpPdelayRespFollowUp port m t s
  | .ptpAnnounce port m t => Sys2Proof.Machine.execPtpAnnounce port m t s
  | .ptpUnusedMessage port m t => Sys2Proof.Machine.execPtpUnusedMessage port m t s
  | .syncInterval port t => Sys2Proof.Machine.execSyncInterval port t s
  | .pdelayReqInterval port t => Sys2Proof.Machine.execPdelayReqInterval port t s
  | .announceInterval port t => Sys2Proof.Machine.execAnnounceInterval port t s
  | .announceReceiptTimeout port t => Sys2Proof.Machine.execAnnounceReceiptTimeout port t s
  | .linkBeaconTransmit t => Sys2Proof.Machine.execLinkBeaconTransmit t s
  | .linkBeaconReceive link b t => Sys2Proof.Machine.execLinkBeaconReceive link b t s
  | .upstreamLost t => Sys2Proof.Machine.execUpstreamLost t s
  | .timeLockAcquired t => Sys2Proof.Machine.execTimeLockAcquired t s
  | .holdoverLimit t => Sys2Proof.Machine.execHoldoverLimit t s
  | .ppsEdge t second => Sys2Proof.Machine.execPpsEdge t second s
  | .slotStart t => Sys2Proof.Machine.execSlotStart t s
  | .btStage t => Sys2Proof.Machine.execBtStage t s
  | .stagingEnd t => Sys2Proof.Machine.execStagingEnd t s
  | .btActivate t => Sys2Proof.Machine.execBtActivate t s
  | .activationStart t => Sys2Proof.Machine.execActivationStart t s
  | .btAbort => Sys2Proof.Machine.execBtAbort s
  | .btStop => Sys2Proof.Machine.execBtStop s
  | .scheduleStop t => Sys2Proof.Machine.execScheduleStop t s
  | .btVariant single t => Sys2Proof.Machine.execBtVariant single t s
  | .variantSwitch t => Sys2Proof.Machine.execVariantSwitch t s
  | .kernelReload core => Sys2Proof.Machine.execKernelReload core s
  | .switchNoticeReceive link n t => Sys2Proof.Machine.execSwitchNoticeReceive link n t s
  | .imageMismatchStop t => Sys2Proof.Machine.execImageMismatchStop t s
  | .windowHelloOpen k port ws => Sys2Proof.Machine.execWindowHelloOpen k port ws s
  | .windowHelloClose k port => Sys2Proof.Machine.execWindowHelloClose k port s
  | .windowSqDoorbell k port q ws tail => Sys2Proof.Machine.execWindowSqDoorbell k port q ws tail s
  | .windowCqDoorbell k port q head => Sys2Proof.Machine.execWindowCqDoorbell k port q head s
  | .feedWindowBadWrite port off value => Sys2Proof.Machine.execFeedWindowBadWrite port off value s
  | .accelLinkDown port dpc => Sys2Proof.Machine.execAccelLinkDown port dpc s
  | .feedCollective port data => Sys2Proof.Machine.execFeedCollective port data s
  | .feedNop port => Sys2Proof.Machine.execFeedNop port s
  | .feedCompletionPost port q => Sys2Proof.Machine.execFeedCompletionPost port q s
  | .cellDataReceive port c residue t => Sys2Proof.Machine.execCellDataReceive port c residue t s
  | .cellScoutReceive port c t => Sys2Proof.Machine.execCellScoutReceive port c t s
  | .cellVerdictReceive port c t => Sys2Proof.Machine.execCellVerdictReceive port c t s
  | .cellSettleReceive port c t => Sys2Proof.Machine.execCellSettleReceive port c t s
  | .receiveWindowClose leg t => Sys2Proof.Machine.execReceiveWindowClose leg t s
  | .verdictSend leg t => Sys2Proof.Machine.execVerdictSend leg t s
  | .verdictWindowClose leg t => Sys2Proof.Machine.execVerdictWindowClose leg t s
  | .staleHoldTimeout t => Sys2Proof.Machine.execStaleHoldTimeout t s
  | .qpCreate c notifyRing a => Sys2Proof.Machine.execQpCreate c notifyRing a s
  | .qpQuarantineEnd qpn t => Sys2Proof.Machine.execQpQuarantineEnd qpn t s
  | .qpModify c qpn mask a => Sys2Proof.Machine.execQpModify c qpn mask a s
  | .qpConnect c qpn t => Sys2Proof.Machine.execQpConnect c qpn t s
  | .qpReset c qpn => Sys2Proof.Machine.execQpReset c qpn s
  | .qpDestroy c qpn t => Sys2Proof.Machine.execQpDestroy c qpn t s
  | .regionRegister c base len access => Sys2Proof.Machine.execRegionRegister c base len access s
  | .regionDeregister c rkey => Sys2Proof.Machine.execRegionDeregister c rkey s
  | .lftWrite src b t => Sys2Proof.Machine.execLftWrite src b t s
  | .lftRead src b t => Sys2Proof.Machine.execLftRead src b t s
  | .lftWait src b t => Sys2Proof.Machine.execLftWait src b t s
  | .waitMet qpn t => Sys2Proof.Machine.execWaitMet qpn t s
  | .lftWritePacket port p t => Sys2Proof.Machine.execLftWritePacket port p t s
  | .lftReadReqPacket port p t => Sys2Proof.Machine.execLftReadReqPacket port p t s
  | .lftReadRespPacket port p t => Sys2Proof.Machine.execLftReadRespPacket port p t s
  | .lftAckPacket port p t => Sys2Proof.Machine.execLftAckPacket port p t s
  | .lftNakPacket port p t => Sys2Proof.Machine.execLftNakPacket port p t s
  | .lftHelloPacket port p t => Sys2Proof.Machine.execLftHelloPacket port p t s
  | .lftHelloAckPacket port p t => Sys2Proof.Machine.execLftHelloAckPacket port p t s
  | .lftRetryTimeout qpn t => Sys2Proof.Machine.execLftRetryTimeout qpn t s
  | .ackDelayTimer qpn t => Sys2Proof.Machine.execAckDelayTimer qpn t s
  | .notifyCompletionPost ins r => Sys2Proof.Machine.execNotifyCompletionPost ins r s
  | .portLinkUp port => Sys2Proof.Machine.execPortLinkUp port s
  | .portLinkDown port remoteFault hiSer => Sys2Proof.Machine.execPortLinkDown port remoteFault hiSer s
  | .anComplete port offered => Sys2Proof.Machine.execAnComplete port offered s
  | .octetModeWrite k mode => Sys2Proof.Machine.execOctetModeWrite k mode s
  | .portEnable port t => Sys2Proof.Machine.execPortEnable port t s
  | .frameReceive port data fcsOk fecOk sec t => Sys2Proof.Machine.execFrameReceive port data fcsOk fecOk sec t s
  | .reorderRelease port t => Sys2Proof.Machine.execReorderRelease port t s
  | .clsWrite table index => Sys2Proof.Machine.execClsWrite table index s
  | .clsRead table index => Sys2Proof.Machine.execClsRead table index s
  | .clsCommit => Sys2Proof.Machine.execClsCommit s
  | .clsCommitDone => Sys2Proof.Machine.execClsCommitDone s
  | .slowPathReinject die port dest data t => Sys2Proof.Machine.execSlowPathReinject die port dest data t s
  | .egressArbitration port t => Sys2Proof.Machine.execEgressArbitration port t s
  | .queueShaperWrite port q reg v t => Sys2Proof.Machine.execQueueShaperWrite port q reg v t s
  | .gcmEnc q => Sys2Proof.Machine.execGcmEnc q s
  | .gcmDec q => Sys2Proof.Machine.execGcmDec q s
  | .xtsEnc q => Sys2Proof.Machine.execXtsEnc q s
  | .xtsDec q => Sys2Proof.Machine.execXtsDec q s
  | .keyWrite q k => Sys2Proof.Machine.execKeyWrite q k s
  | .keyErase q => Sys2Proof.Machine.execKeyErase q s
  | .blkRead src b t => Sys2Proof.Machine.execBlkRead src b t s
  | .blkWrite src b t => Sys2Proof.Machine.execBlkWrite src b t s
  | .blkFlush src b t => Sys2Proof.Machine.execBlkFlush src b t s
  | .blkWriteZeroes src b t => Sys2Proof.Machine.execBlkWriteZeroes src b t s
  | .blkDeallocate src b t => Sys2Proof.Machine.execBlkDeallocate src b t s
  | .blkAbort src b t => Sys2Proof.Machine.execBlkAbort src b t s
  | .blkSanitize src b t => Sys2Proof.Machine.execBlkSanitize src b t s
  | .blkFormat src b t => Sys2Proof.Machine.execBlkFormat src b t s
  | .destage vol lba nlb t => Sys2Proof.Machine.execDestage vol lba nlb t s
  | .nvmeCompletion port cid status phaseOk t => Sys2Proof.Machine.execNvmeCompletion port cid status phaseOk t s
  | .nvmeCommandTimeout port cid t => Sys2Proof.Machine.execNvmeCommandTimeout port cid t s
  | .nvmeAbortTimeout port cid resetOk t => Sys2Proof.Machine.execNvmeAbortTimeout port cid resetOk t s
  | .storageLinkDown port t => Sys2Proof.Machine.execStorageLinkDown port t s
  | .sanitizeProgress port sixteenths t => Sys2Proof.Machine.execSanitizeProgress port sixteenths t s
  | .decCandidates port q cands t => Sys2Proof.Machine.execDecCandidates port q cands t s
  | .decPassDone port q t => Sys2Proof.Machine.execDecPassDone port q t s
  | .chunkLoaded seq data t => Sys2Proof.Machine.execChunkLoaded seq data t s
  | .tokenPost seq t => Sys2Proof.Machine.execTokenPost seq t s
  | .tierDemotion ins tier t => Sys2Proof.Machine.execTierDemotion ins tier t s
  | .pageMoveEnd seq pn data t => Sys2Proof.Machine.execPageMoveEnd seq pn data t s
  | .decodeHeldPost seq t => Sys2Proof.Machine.execDecodeHeldPost seq t s
  | .rsRegionWrite n len v => Sys2Proof.Machine.execRsRegionWrite n len v s
  | .harvestChunkDone stack t => Sys2Proof.Machine.execHarvestChunkDone stack t s
  | .manifestWriteDone t => Sys2Proof.Machine.execManifestWriteDone t s
  | .restoreDone a b shards t => Sys2Proof.Machine.execRestoreDone a b shards t s
  | .healthEvent t => Sys2Proof.Machine.execHealthEvent t s
  | .katBudgetExpiry core => Sys2Proof.Machine.execKatBudgetExpiry core s
  | .katJudge core t => Sys2Proof.Machine.execKatJudge core t s
  | .ageingRewrite t => Sys2Proof.Machine.execAgeingRewrite t s
  | .witnessDigestDone w t => Sys2Proof.Machine.execWitnessDigestDone w t s
  | .witnessRecordReceive x t => Sys2Proof.Machine.execWitnessRecordReceive x t s
  | .witnessDeadline w t => Sys2Proof.Machine.execWitnessDeadline w t s
  | .twinHelloTimer t => Sys2Proof.Machine.execTwinHelloTimer t s
  | .twinHello r t => Sys2Proof.Machine.execTwinHello r t s
  | .twinHeartbeatTimer t => Sys2Proof.Machine.execTwinHeartbeatTimer t s
  | .twinHeartbeat r t => Sys2Proof.Machine.execTwinHeartbeat r t s
  | .backupWriteTimer t => Sys2Proof.Machine.execBackupWriteTimer t s
  | .twinMirror r m t => Sys2Proof.Machine.execTwinMirror r m t s
  | .twinConfirm r t => Sys2Proof.Machine.execTwinConfirm r t s
  | .mirrorRetransmitTimeout t => Sys2Proof.Machine.execMirrorRetransmitTimeout t s
  | .twinAudit r agree t => Sys2Proof.Machine.execTwinAudit r agree t s
  | .auditTimer t => Sys2Proof.Machine.execAuditTimer t s
  | .twinYield r t => Sys2Proof.Machine.execTwinYield r t s
  | .twinResyncDone r t => Sys2Proof.Machine.execTwinResyncDone r t s
  | .twinLinkSilence t => Sys2Proof.Machine.execTwinLinkSilence t s
  | .backupSilence t => Sys2Proof.Machine.execBackupSilence t s
  | .arbitrationResult ok failed conflict t => Sys2Proof.Machine.execArbitrationResult ok failed conflict t s
  | .lhqiEnable ins t => Sys2Proof.Machine.execLhqiEnable ins t s
  | .lhqiDisable ins t => Sys2Proof.Machine.execLhqiDisable ins t s
  | .lhqiHeartbeat ins v t => Sys2Proof.Machine.execLhqiHeartbeat ins v t s
  | .lhqiHbTimeout ins t => Sys2Proof.Machine.execLhqiHbTimeout ins t s
  | .lhqiSqDoorbell ins r v t => Sys2Proof.Machine.execLhqiSqDoorbell ins r v t s
  | .lhqiCqDoorbell ins r v t => Sys2Proof.Machine.execLhqiCqDoorbell ins r v t s
  | .doorbellPageBadWrite ins off value => Sys2Proof.Machine.execDoorbellPageBadWrite ins off value s
  | .ringDrained ins r => Sys2Proof.Machine.execRingDrained ins r s
  | .coalesceTimer ins r t => Sys2Proof.Machine.execCoalesceTimer ins r t s
  | .identify ins r h => Sys2Proof.Machine.execIdentify ins r h s
  | .ringCreate ins r h p => Sys2Proof.Machine.execRingCreate ins r h p s
  | .ringDelete ins r h ring => Sys2Proof.Machine.execRingDelete ins r h ring s
  | .logRead ins r h log first count => Sys2Proof.Machine.execLogRead ins r h log first count s
  | .keyLoad ins r h slot mode wrapped => Sys2Proof.Machine.execKeyLoad ins r h slot mode wrapped s
  | .keyRelease ins r h slot => Sys2Proof.Machine.execKeyRelease ins r h slot s
  | .volCreate ins r h v => Sys2Proof.Machine.execVolCreate ins r h v s
  | .volDestroy ins r h vol => Sys2Proof.Machine.execVolDestroy ins r h vol s
  | .volAttach ins r h vol kind index ro => Sys2Proof.Machine.execVolAttach ins r h vol kind index ro s
  | .volDetach ins r h vol kind index => Sys2Proof.Machine.execVolDetach ins r h vol kind index s
  | .poolDefine ins r h inst p => Sys2Proof.Machine.execPoolDefine ins r h inst p s
  | .seqCreate ins r h a => Sys2Proof.Machine.execSeqCreate ins r h a s
  | .seqDestroy ins r h seq => Sys2Proof.Machine.execSeqDestroy ins r h seq s
  | .rsDefine ins r h d => Sys2Proof.Machine.execRsDefine ins r h d s
  | .shardLoad ins r h shard src off len => Sys2Proof.Machine.execShardLoad ins r h shard src off len s
  | .ckptArm ins r h seq target keySlot found => Sys2Proof.Machine.execCkptArm ins r h seq target keySlot found s
  | .ckptRestore ins r h target keySlot slot chain => Sys2Proof.Machine.execCkptRestore ins r h target keySlot slot chain s
  | .ckptAbort ins r h => Sys2Proof.Machine.execCkptAbort ins r h s
  | .witDefine ins r h d => Sys2Proof.Machine.execWitDefine ins r h d s
  | .txDescriptor ins r d t => Sys2Proof.Machine.execTxDescriptor ins r d t s
  | .rxDescriptor ins r tag len addr rsv => Sys2Proof.Machine.execRxDescriptor ins r tag len addr rsv s
  | .telemetryDescriptor ins r tag len addr rsv t => Sys2Proof.Machine.execTelemetryDescriptor ins r tag len addr rsv t s
  | .accelUpstreamUr port addr translation => Sys2Proof.Machine.execAccelUpstreamUr port addr translation s
  | .flr ins t => Sys2Proof.Machine.execFlr ins t s
  | .portHReset e t => Sys2Proof.Machine.execPortHReset e t s
  | .vfEnable enable num t => Sys2Proof.Machine.execVfEnable enable num t s
  | .instanceRemoval ins t => Sys2Proof.Machine.execInstanceRemoval ins t s
  | .instCommit ins t => Sys2Proof.Machine.execInstCommit ins t s
  | .smbTx st x n r => Sys2Proof.Machine.execSmbTx st x n r s
  | .smbRx st x n r => Sys2Proof.Machine.execSmbRx st x n r s
  | .cmsgPop st x r => Sys2Proof.Machine.execCmsgPop st x r s
  | .ctxWrite st x r => Sys2Proof.Machine.execCtxWrite st x r s
  | .rindLock => Sys2Proof.Machine.execRindLock s
  | .stewardWatchdogExpiry n t => Sys2Proof.Machine.execStewardWatchdogExpiry n t s
  | .watchdogKick n t => Sys2Proof.Machine.execWatchdogKick n t s
  | .stewardRestart n t => Sys2Proof.Machine.execStewardRestart n t s
  | .graft mask persist t => Sys2Proof.Machine.execGraft mask persist t s
  | .graftRestartCmd mask t => Sys2Proof.Machine.execGraftRestartCmd mask t s
  | .handoverAnswer n len t => Sys2Proof.Machine.execHandoverAnswer n len t s
  | .graftHandoverTimeout t => Sys2Proof.Machine.execGraftHandoverTimeout t s
  | .accept n t => Sys2Proof.Machine.execAccept n t s
  | .refuse n code t => Sys2Proof.Machine.execRefuse n code t s
  | .graftStartTimeout t => Sys2Proof.Machine.execGraftStartTimeout t s
  | .powerOn => Sys2Proof.Machine.execPowerOn s
  | .railFault => Sys2Proof.Machine.execRailFault s
  | .sysReset cool => Sys2Proof.Machine.execSysReset cool s
  | .devReset => Sys2Proof.Machine.execDevReset s
  | .boot b => Sys2Proof.Machine.execBoot b s
  | .drUpdate u => Sys2Proof.Machine.execDrUpdate u s
  | .drWrite => Sys2Proof.Machine.execDrWrite s
  | .pkgUpload pkg => Sys2Proof.Machine.execPkgUpload pkg s
  | .spdmGetVersion doe => Sys2Proof.Machine.execSpdmGetVersion doe s
  | .spdmGetCapabilities doe => Sys2Proof.Machine.execSpdmGetCapabilities doe s
  | .spdmNegotiateAlgorithms doe => Sys2Proof.Machine.execSpdmNegotiateAlgorithms doe s
  | .spdmGetDigests doe sess => Sys2Proof.Machine.execSpdmGetDigests doe sess s
  | .spdmGetCertificate doe sess slot off len => Sys2Proof.Machine.execSpdmGetCertificate doe sess slot off len s
  | .spdmChallenge doe slot nonce => Sys2Proof.Machine.execSpdmChallenge doe slot nonce s
  | .spdmGetMeasurements doe sess index sign nonce => Sys2Proof.Machine.execSpdmGetMeasurements doe sess index sign nonce s
  | .spdmKeyExchange doe slot data => Sys2Proof.Machine.execSpdmKeyExchange doe slot data s
  | .spdmFinish doe sess ok => Sys2Proof.Machine.execSpdmFinish doe sess ok s
  | .spdmHeartbeat doe sess => Sys2Proof.Machine.execSpdmHeartbeat doe sess s
  | .spdmKeyUpdate doe sess => Sys2Proof.Machine.execSpdmKeyUpdate doe sess s
  | .spdmEndSession doe sess => Sys2Proof.Machine.execSpdmEndSession doe sess s
  | .getKek doe sess ins => Sys2Proof.Machine.execGetKek doe sess ins s
  | .telemetryPeriodSample t => Sys2Proof.Machine.execTelemetryPeriodSample t s
  | .telemetryBufferTimeout ins t => Sys2Proof.Machine.execTelemetryBufferTimeout ins t s
  | .telemSubscribe mask div => Sys2Proof.Machine.execTelemSubscribe mask div s
  | .powerEvaluation p0 p1 t => Sys2Proof.Machine.execPowerEvaluation p0 p1 t s
  | .thermalSample x t => Sys2Proof.Machine.execThermalSample x t s
  | .pwrSet w => Sys2Proof.Machine.execPwrSet w s
  | .refclkSysLoss => Sys2Proof.Machine.execRefclkSysLoss s
  | .refclkEthLoss t => Sys2Proof.Machine.execRefclkEthLoss t s
  | .refclkHLoss t => Sys2Proof.Machine.execRefclkHLoss t s
  | .jtagBypass => Sys2Proof.Machine.execJtagBypass s
  | .jtagIdcode => Sys2Proof.Machine.execJtagIdcode s
  | .jtagSamplePreload => Sys2Proof.Machine.execJtagSamplePreload s
  | .jtagExtest => Sys2Proof.Machine.execJtagExtest s
  | .jtagExtestPulse => Sys2Proof.Machine.execJtagExtestPulse s
  | .jtagExtestTrain => Sys2Proof.Machine.execJtagExtestTrain s
  | .cxlMemRead bar4 off len => Sys2Proof.Machine.execCxlMemRead bar4 off len s
  | .cxlMemWrite bar4 off data => Sys2Proof.Machine.execCxlMemWrite bar4 off data s
  | .h2dSnoop addr => Sys2Proof.Machine.execH2dSnoop addr s
  | .uncataloguedPortAccess u x out f => Sys2Proof.Machine.execUncataloguedPortAccess u x out f s
  | .accelLinkUp port rate width flit => Sys2Proof.Machine.execAccelLinkUp port rate width flit s
  | .storageLinkUp port d t => Sys2Proof.Machine.execStorageLinkUp port d t s
  | .twinLinkUp => Sys2Proof.Machine.execTwinLinkUp s
  | .twinLinkDown => Sys2Proof.Machine.execTwinLinkDown s
  | .twinLinkOtherFrame => Sys2Proof.Machine.execTwinLinkOtherFrame s
  | .perstNDeassert refclkH => Sys2Proof.Machine.execPerstNDeassert refclkH s
  | .portHLinkUp => Sys2Proof.Machine.execPortHLinkUp s
  | .ref10mValidityChange valid => Sys2Proof.Machine.execRef10mValidityChange valid s
  | .sequenceContextLoaded seq t => Sys2Proof.Machine.execSequenceContextLoaded seq t s
  | .tokenBucketRefilled t => Sys2Proof.Machine.execTokenBucketRefilled t s
  | .flashWriteDone ok => Sys2Proof.Machine.execFlashWriteDone ok s
  | .globalPersistentFlush => Sys2Proof.Machine.execGlobalPersistentFlush s
  | .storageAerCorrectable port => Sys2Proof.Machine.execStorageAerCorrectable port s
  | .driveDma port cid off len write data t => Sys2Proof.Machine.execDriveDma port cid off len write data t s
  | .backInvalidateResponse line => Sys2Proof.Machine.execBackInvalidateResponse line s

end Sys2Proof.Machine
end

