-- ==== Sys2Proof/Machine/Package.lean ====
section
/-! DEFINITION. The signal of each ball of the package (spec/25 R619 to R625). It is a map of the part, which no step reads. -/

namespace Sys2Proof.Machine

/-- A supply rail (Table 24.1). -/
inductive Rail where
  | vdd1v8 | vppHbm | vddhSerdes | vddHbm | vddqHbm | vddSram
  | vddSoc (die : Nat)
  | vinBunch (die : Nat)
  | vddaSerdes
  deriving DecidableEq, Repr

/-- A group of SerDes lanes (R623). -/
inductive LaneGroup where
  | net | acc | stor | host | twin
  deriving DecidableEq, Repr

/-- What a ball carries: ground, a rail, a leg of a SerDes pair of a lane of a group, or the low-speed signal of an index of Table 25.5. -/
inductive Ball where
  | gnd
  | power (r : Rail)
  | serdes (g : LaneGroup) (lane : Nat) (tx positive : Bool)
  | low (s : Nat)
  deriving DecidableEq, Repr

/-- The tile of a walk index of die 0 (Table 25.2). -/
def walkTile (k : Nat) : Nat × Nat :=
  if k < 8 then (17, 8 - k)
  else if k < 26 then (17 - (k - 8), 0)
  else if k < 34 then (0, k - 25)
  else if k < 41 then (16, 8 - (k - 34))
  else if k < 57 then (16 - (k - 41), 1)
  else (1, k - 55)
/-- The walk index of a tile of die 0. -/
def walkIndex (i j : Nat) : Nat := ((List.range 64).find? fun k => walkTile k == (i, j)).getD 64
/-- The group and lane, in the numbering of the signal names, of a walk index of a die (Table 25.3). -/
def walkLane (d k : Nat) : LaneGroup × Nat :=
  if k < 8 then (.stor, 2 * (4 * d + k / 2) + k % 2)
  else if k < 24 then (.net, 16 * d + (k - 8))
  else if k < 32 then (if d = 0 then (.host, k - 24) else (.twin, k - 24))
  else (.acc, 8 * (4 * d + (k - 32) / 8) + (k - 32) % 8)
/-- The ball at an offset of a SerDes tile (Table 25.4). -/
def serdesBall (g : LaneGroup × Nat) (r c : Nat) : Ball :=
  if (r = 0 ∨ r = 2) ∧ (c = 1 ∨ c = 2) then .serdes g.1 g.2 (r == 0) (c == 1) else .gnd
/-- The rail of a power tile (Table 25.6), the first rule that matches. -/
def tileRail (i j : Nat) : Rail :=
  let die := if j ≤ 8 then 0 else 1
  if i = 2 ∧ (j = 2 ∨ j = 15) then .vdd1v8
  else if i = 15 then (if j % 2 = 0 then .vddaSerdes else .vddhSerdes)
  else if j = 2 ∨ j = 15 then (if i % 2 = 1 then .vddaSerdes else .vddhSerdes)
  else if i = 3 ∨ i = 14 then (if j % 3 = 0 then .vddHbm else if j % 3 = 1 then .vddqHbm else .vppHbm)
  else if j = 3 ∨ j = 14 then .vddSram
  else if i = 4 ∨ i = 13 then .vddSoc die
  else .vinBunch die
/-- The signal of the ball in a row and a column, each from 1 to 74 (R620, R623 to R625). -/
def ballSignal (row col : Nat) : Ball :=
  if row = 1 ∨ row = 74 ∨ col = 1 ∨ col = 74 then .gnd
  else
    let i := (row - 2) / 4
    let r := (row - 2) % 4
    let j := (col - 2) / 4
    let c := (col - 2) % 4
    if min (min i j) (min (17 - i) (17 - j)) ≤ 1 then
      let d := if j ≤ 8 then 0 else 1
      serdesBall (walkLane d (walkIndex i (if d = 0 then j else 17 - j))) r c
    else if i = 2 ∧ 3 ≤ j ∧ j ≤ 14 then
      let t := 2 * r + c / 2
      if c ≠ 2 * (t % 2) + r % 2 then .gnd else .low (8 * (j - 3) + t)
    else if (r + c) % 2 = 1 then .gnd
    else .power (tileRail i j)

end Sys2Proof.Machine
end

