-- ==== Sys2Proof/Safety.lean ====
section
/-! DEFINITION. The terms claims are stated in: a unit that is ready to issue, what an issued instruction may change, and the invariant
core instructions keep. -/

namespace Sys2Proof.Machine

/-- A command answers a next state of which `P` holds. -/
def Runs (i : Instr) (s : State) (P : State → Prop) : Prop := ∃ t, exec i s = .next t ∧ P t

/-- Nothing differs between two states but the units and the counter of free values. -/
def CoresOnly (s t : State) : Prop := t = { s with cores := t.cores, fresh := t.fresh }

/-- Nothing differs between two states but one unit and the counter of free values. -/
def UnitOnly (u : UnitId) (s t : State) : Prop := CoresOnly s t ∧ ∀ v, v ≠ u → t.core v = s.core v

/-- A unit is ready to issue the instruction at PC: it is RUNNING, fetch is inside I-space, and the word there holds no error. -/
def State.Ready (s : State) (u : UnitId) : Prop :=
  (s.core u).run.state = .running ∧ (s.core u).regs.past = false ∧
  (s.imem[u.val]'u.isLt).anyBad 4 (s.core u).regs.pc.toNat 4 = false ∧
  (s.imem[u.val]'u.isLt).anySoft 4 (s.core u).regs.pc.toNat 4 = false

/-- A unit issues an operation: it is ready, the operation meets no decode condition, its guard holds, and no residue check fails. -/
structure State.Issues (s : State) (u : UnitId) (x : Issue) (op : CoreOp) : Prop where
  ready : s.Ready u
  legal : opLegal (s.core u).regs.pc op = true
  guard : (s.core u).guard x = true
  clean : x.residue = false

/-! ## What an instruction leaves of its core -/

/-- Beside registers, predicates, control registers and counters, an instruction that falls through leaves the loop registers, the queues
and, unless it was stepped, the run state; with no loop active it goes on at PC + 4. -/
def Core.Kept (c d : Core) : Prop :=
  d.loops.ls = c.loops.ls ∧ d.loops.le = c.loops.le ∧ d.loops.lc = c.loops.lc ∧ d.ports = c.ports ∧
  (c.run.stepping = false → d.run = c.run) ∧
  (c.loops.active = [] → d.loops.active = [] ∧ d.regs.pc = (c.regs.pc + 4) &&& 0xFFFC#16 ∧ d.regs.past = (c.regs.pc == 0xFFFC#16))

/-- An instruction left the general registers `g`, the accumulators `a`, the predicates `p` and the control registers `k`, and fell
through. -/
def Core.Now (c d : Core) (g : BitVec 5 → Word) (a : BitVec 3 → BitVec 40) (p : BitVec 3 → Bool) (k : Ctl) : Prop :=
  (∀ i, d.getG i = g i) ∧ (∀ i, d.getAcc i = a i) ∧ (∀ i, d.getP i = p i) ∧ d.ctl = k ∧ Core.Kept c d

/-- It wrote `v` to a general register and nothing else, and left the control registers `k`. -/
def Core.WroteG (c d : Core) (r : BitVec 5) (v : Word) (k : Ctl) : Prop :=
  Core.Now c d (fun i => if i = r then v else c.getG i) c.getAcc c.getP k

/-- It wrote a register pair: the low word to gN, the high word to gN+1 (R75). -/
def Core.WroteG2 (c d : Core) (r : BitVec 5) (v : DWord) (k : Ctl) : Prop :=
  Core.Now c d (fun i => if i = r + 1 then (v >>> 32).truncate 32 else if i = r then v.truncate 32 else c.getG i) c.getAcc c.getP k

/-- It wrote an accumulator. -/
def Core.WroteAcc (c d : Core) (r : BitVec 3) (v : BitVec 40) (k : Ctl) : Prop :=
  Core.Now c d c.getG (fun i => if i = r then v else c.getAcc i) c.getP k

/-- It wrote a predicate; p0 reads as 1 whatever is written to it (R74). -/
def Core.WroteP (c d : Core) (r : BitVec 3) (v : Bool) : Prop :=
  Core.Now c d c.getG c.getAcc (fun i => if i = 0 then true else if i = r then v else c.getP i) c.ctl

/-- It wrote nothing. -/
def Core.WroteNone (c d : Core) : Prop := Core.Now c d c.getG c.getAcc c.getP c.ctl

/-- The control registers with sticky bits of CORE_STATUS set. -/
def Ctl.flagged (k : Ctl) (f : Word) : Ctl := { k with status := k.status ||| f }
/-- The control registers after a rounding under mode `rm`: under RKS, code 4, KS_CTR has counted one draw (R85, R86). -/
def Ctl.drew (k : Ctl) (rm : Nat) : Ctl := { k with ksCtr := k.ksCtr + if rm = 4 then 1 else 0 }

/-- What a signed exact result becomes at `w` bits: itself where it fits; else, with saturation on, the nearest bound, with SAT; else it
wraps, with OVF. `f` holds the sticky bits set, SAT in bit 0 and OVF in bit 1. -/
def Narrowed (w : Nat) (sat : Bool) (n : Int) (v : BitVec w) (f : Word) : Prop :=
  if -(2 ^ (w - 1)) ≤ n ∧ n < 2 ^ (w - 1) then v.toInt = n ∧ f = 0
  else if sat = true then v.toInt = (if n < 0 then -(2 ^ (w - 1)) else 2 ^ (w - 1) - 1) ∧ f = 1#32
  else v = BitVec.ofInt w n ∧ f = 2#32

/-- `v` is n / 2^k rounded by a mode of Table 2.4 with the draw `r`. -/
def RoundsTo (rm r : Nat) (n : Int) (k : Nat) (v : Int) : Prop :=
  match rm with
  | 0 => 2 * |n - v * 2 ^ k| ≤ 2 ^ k ∧ (2 * |n - v * 2 ^ k| = 2 ^ k → v % 2 = 0)
  | 1 => 2 * |n - v * 2 ^ k| ≤ 2 ^ k ∧ (2 * |n - v * 2 ^ k| = 2 ^ k → |n| ≤ |v| * 2 ^ k)
  | 2 => |v| * 2 ^ k ≤ |n| ∧ |n| < (|v| + 1) * 2 ^ k ∧ 0 ≤ n * v
  | 3 => v * 2 ^ k ≤ n ∧ n < (v + 1) * 2 ^ k
  | _ => ∃ fl : Int, fl * 2 ^ k ≤ n ∧ n < (fl + 1) * 2 ^ k ∧ v = if (r : Int) < (n - fl * 2 ^ k) * 2 ^ 32 / 2 ^ k then fl + 1 else fl

/-- `v` is the number `n` of `w` bytes extended to a word, with its sign under SX (R176). -/
def Loaded (w : Nat) (sx : Bool) (n : Nat) (v : Word) : Prop :=
  v = BitVec.ofInt 32 (if sx = true ∧ 2 ^ (8 * w - 1) ≤ n then (n : Int) - 2 ^ (8 * w) else n)

/-- The base register after an access: k added under MODE 1 and 2 (Table 5.4). -/
def Core.based (c : Core) (mode : BitVec 2) (b : BitVec 5) (k : Int) (i : BitVec 5) : Word :=
  if mode ≠ 0 ∧ i = b then c.getG b + BitVec.ofInt 32 k else c.getG i
/-- The address of an access: the base register, and k with it but under MODE 1 (Table 5.4). -/
def Core.address (c : Core) (mode : BitVec 2) (b : BitVec 5) (k : Int) : Word :=
  if mode = 1 then c.getG b else c.getG b + BitVec.ofInt 32 k

/-- What taking an exception leaves of its core (R117 to R119, R135): CAUSE, EPC and, where it has a value, BADADDR are written; registers,
accumulators, predicates, loop registers and active loops stand; with EXL set the core halts with DOUBLE, with EVEC_EN clear with
EXCEPTION, and otherwise EXL is set and it goes on at EVEC. `tag` is PAIR, PIP and REP of CAUSE. -/
def Core.Took (c d : Core) (k : Cause) (epc : BitVec 16) (bad : Option Word) (tag : Nat) : Prop :=
  d.regs.g = c.regs.g ∧ d.regs.acc = c.regs.acc ∧ d.regs.p = c.regs.p ∧
  d.loops.ls = c.loops.ls ∧ d.loops.le = c.loops.le ∧ d.loops.lc = c.loops.lc ∧ d.loops.active = c.loops.active ∧
  d.ctl = { c.ctl with cause := BitVec.ofNat 32 (k.code + 256 * tag), epc := epc, badaddr := bad.getD c.ctl.badaddr,
                       mode := if c.exl || !c.evecEn then c.ctl.mode else c.ctl.mode ||| 0x20#32 } ∧
  (if c.exl = true then d.run.state = .halted ∧ d.run.reason = .double ∧ d.regs.pc = c.regs.pc
   else if c.evecEn = false then d.run.state = .halted ∧ d.run.reason = .exception ∧ d.regs.pc = c.regs.pc
   else d.run.state = .running ∧ d.regs.pc = c.ctl.evec ∧ d.regs.past = false)

/-! ## Memories -/

/-- A byte memory of the device. -/
inductive MemSel where
  | imem (u : UnitId)
  | lmem (u : UnitId)
  | bmem (b : Fin 32)
  | hbm
  deriving DecidableEq, Repr

/-- One byte of a memory. -/
def State.peek (s : State) : MemSel → Nat → Byte
  | .imem u => (s.imem[u.val]'u.isLt).bytes.get
  | .lmem u => (s.lmem[u.val]'u.isLt).bytes.get
  | .bmem b => (s.bmem[b.val]'b.isLt).bytes.get
  | .hbm => s.hbm.bytes.get

/-- Every byte of every memory reads as before. -/
def SameMem (s t : State) : Prop := ∀ m a, t.peek m a = s.peek m a

/-- The bytes `l` stand at an address of a memory, and every other byte of every memory reads as before. -/
def Stored (s t : State) (m : MemSel) (o : Nat) (l : List Byte) : Prop :=
  ∀ n b, t.peek n b = if n = m ∧ o ≤ b ∧ b < o + l.length then l.getD (b - o) 0 else s.peek n b

/-- The memory cell of a place of D-space, when it is one. -/
def memCell (u : UnitId) : Place → Option (MemSel × Nat)
  | .lmem o => some (.lmem u, o)
  | .bmem o => some (.bmem (bunchOf u), o)
  | .hbm k => some (.hbm, k)
  | .csr _ => none
  | .priv _ => none

/-- A place of `w` bytes is memory whose protection words hold no error. -/
def State.Clean (s : State) (u : UnitId) (p : Place) (w : Nat) : Prop :=
  match s.ramAt u p with
  | some (r, pw, o) => r.anyBad pw o w = false ∧ r.anySoft pw o w = false
  | none => False

/-- Nothing differs between two states but the registers of one unit, the memories, the counter of free values, and what a write of HBM
sends to the host of the CXL.mem window. -/
def StoreOnly (u : UnitId) (s t : State) : Prop :=
  t = { s with cores := t.cores, fresh := t.fresh, lmem := t.lmem, bmem := t.bmem, hbm := t.hbm, cxl := t.cxl, out := t.out } ∧
  ∀ v, v ≠ u → t.core v = s.core v

/-! ## The instructions of a unit -/

/-- What a command issues: its unit, its guard and its operation. BT_NOW_LO_READ is not among them, since fabric time advances with it. -/
def opOf : Instr → Option (UnitId × Issue × CoreOp)
  | .nop u x f => some (u, x, .nop f) | .add u x f => some (u, x, .add f) | .sub u x f => some (u, x, .sub f)
  | .and u x f => some (u, x, .and f) | .or u x f => some (u, x, .or f) | .xor u x f => some (u, x, .xor f)
  | .shl u x f => some (u, x, .shl f) | .shr u x f => some (u, x, .shr f) | .sar u x f => some (u, x, .sar f)
  | .min u x f => some (u, x, .min f) | .max u x f => some (u, x, .max f) | .minu u x f => some (u, x, .minu f)
  | .maxu u x f => some (u, x, .maxu f) | .mul u x f => some (u, x, .mul f) | .mulh u x f => some (u, x, .mulh f)
  | .mulhu u x f => some (u, x, .mulhu f) | .fmul u x f => some (u, x, .fmul f) | .esadd u x f => some (u, x, .esadd f)
  | .esaddD u x f => some (u, x, .esaddD f) | .sel u x f => some (u, x, .sel f) | .addi u x f => some (u, x, .addi f)
  | .andi u x f => some (u, x, .andi f) | .ori u x f => some (u, x, .ori f) | .xori u x f => some (u, x, .xori f)
  | .movi u x f => some (u, x, .movi f) | .movhi u x f => some (u, x, .movhi f) | .cmp u x f => some (u, x, .cmp f)
  | .cmpi u x f => some (u, x, .cmpi f) | .mac u x f => some (u, x, .mac f) | .msu u x f => some (u, x, .msu f)
  | .ext u x f => some (u, x, .ext f) | .accset u x f => some (u, x, .accset f) | .accclr u x f => some (u, x, .accclr f)
  | .accadd u x f => some (u, x, .accadd f) | .ld u x f => some (u, x, .ld f) | .st u x f => some (u, x, .st f)
  | .lda u x f => some (u, x, .lda f) | .sta u x f => some (u, x, .sta f) | .fence u x f => some (u, x, .fence f)
  | .mfc u x f => some (u, x, .mfc f) | .mtc u x f => some (u, x, .mtc f) | .br u x f => some (u, x, .br f)
  | .call u x f => some (u, x, .call f) | .jmp u x f => some (u, x, .jmp f) | .callr u x f => some (u, x, .callr f)
  | .ret u x f => some (u, x, .ret f) | .eret u x f => some (u, x, .eret f) | .halt u x f => some (u, x, .halt f)
  | .brk u x f => some (u, x, .brk f) | .loop u x f => some (u, x, .loop f) | .loopx u x f => some (u, x, .loopx f)
  | .lpop u x f => some (u, x, .lpop f) | .rep u x f => some (u, x, .rep f)
  | .pipPair u p r p1 p2 => some (u, ⟨p, false, r, none⟩, .pair p1 p2)
  | .uncataloguedPortAccess u x o f => some (u, x, if o then .out f else .inn f)
  | .ecmdPush u x e r => some (u, x, .out ⟨r, enginePort e 0⟩)
  | .ecplPop u x e r => some (u, x, .inn ⟨r, enginePort e 1⟩)
  | .ectlDiscard u x e r => some (u, x, .out ⟨r, enginePort e 3⟩)
  | .dcmdPush u x r => some (u, x, .out ⟨r, 0x0400#16⟩)
  | .dcplPop u x r => some (u, x, .inn ⟨r, 0x0401#16⟩)
  | .dctlDiscard u x r => some (u, x, .out ⟨r, 0x0403#16⟩)
  | .mbTx u x r => some (u, x, .out ⟨r, 0x0500#16⟩)
  | .mbRx u x r => some (u, x, .inn ⟨r, 0x0501#16⟩)
  | .peerTx u x n r => some (u, x, .out ⟨r, portRun 0x0510 n⟩)
  | .peerRx u x n r => some (u, x, .inn ⟨r, portRun 0x0520 n⟩)
  | .cntWrite u x n r => some (u, x, .out ⟨r, portRun 0x0600 n⟩)
  | .cntSelWrite u x n r => some (u, x, .out ⟨r, portRun 0x0610 n⟩)
  | .cntOvfClear u x r => some (u, x, .out ⟨r, 0x0620#16⟩)
  | .cycLoRead u x r => some (u, x, .inn ⟨r, 0x0621#16⟩)
  | .btArm u x r => some (u, x, .out ⟨r, 0x0704#16⟩)
  | .btWait u x r => some (u, x, .inn ⟨r, 0x0705#16⟩)
  | .smbTx n x m r => some (stewardUnit n, x, .out ⟨r, portRun 0x0500 m⟩)
  | .smbRx n x m r => some (stewardUnit n, x, .inn ⟨r, portRun 0x0510 m⟩)
  | .cmsgPop n x r => some (stewardUnit n, x, .inn ⟨r, 0x0530#16⟩)
  | .ctxWrite n x r => some (stewardUnit n, x, .out ⟨r, 0x0533#16⟩)
  | _ => none

/-! ## Engine commands -/

/-- The front command of an engine's queue: its words, all committed, as many as its first word says, and the words behind it. -/
def EngineQ.Front (q : EngineQ) (len : Nat) (ws rest : List Word) : Prop :=
  q.held = none ∧ q.cmd = ws ++ rest ∧ ws.length = len ∧ len ≤ q.committed

/-- A queue after its front command of `len` words has been taken and the completion word `w` posted: a full completion queue holds it
back (log entry 20). -/
def EngineQ.Done (q n : EngineQ) (len cap : Nat) (rest : List Word) (w : Word) : Prop :=
  n.cmd = rest ∧ n.committed = q.committed - len ∧
  if q.cpl.length < cap then n.cpl = q.cpl ++ [w] ∧ n.held = none else n.cpl = q.cpl ∧ n.held = some w

/-- The memory cell of an engine operand's address: core-local SRAM, or the Bunch SRAM window from 0x0100_0000 (R191). -/
def winCell (u : UnitId) (a : Nat) : MemSel × Nat := if a < 0x1000000 then (.lmem u, a) else (.bmem (bunchOf u), a - 0x1000000)

/-- The number that `n` bytes of an engine's window spell, little-endian. -/
def State.winNat (s : State) (u : UnitId) (a n : Nat) : Nat :=
  leNat ((List.range n).map fun i => s.peek (winCell u a).1 ((winCell u a).2 + i))

/-- What an engine command of an operation may write: its destination operand, and the flag byte of the descriptor that takes its flags
(Table 6.2, R71). -/
def State.engineDst (s : State) (u : UnitId) (op : Nat) (ws : List Word) : List (Nat × Nat) :=
  let a := wordAt ws
  let d := fun k => s.segAt u (a k)
  if op = 1 then [(a 4, a 6 * (d 1).blockLen * esBytes (d 1).fmt), (a 1 + 6, 1)]
  else if op = 2 then [(a 4, a 6 * (d 1).blockLen * fpBytes (d 1).outfmt), (a 1 + 6, 1)]
  else if op = 3 then [(a 4, a 5 * esBytes (d 2).fmt), (a 2 + 6, 1)]
  else if op = 4 then [(a 4, a 5 * esBytes (d 1).fmt), (a 1 + 6, 1)]
  else if op = 5 then [(a 3, 2 * a 5)]
  else if op = 6 then [(a 3, 2 * a 4)]
  else [(a 4, a 5 * if bitAt (a 0) 28 then 8 else 4)]

/-- Every byte of memory outside some extents of an engine's window reads as before. -/
def KeptOutside (s t : State) (u : UnitId) (xs : List (Nat × Nat)) : Prop :=
  ∀ m b, (∀ x ∈ xs, ¬(m = (winCell u x.1).1 ∧ (winCell u x.1).2 ≤ b ∧ b < (winCell u x.1).2 + x.2)) → t.peek m b = s.peek m b

/-- The memory cell of byte `i` of a mover operand: a window of the issuer, or the working partition (R211). -/
def State.sideCell (s : State) (u : UnitId) (i : Nat) : Side → MemSel × Nat
  | .win a => winCell u (a + i)
  | .hbm a => (.hbm, s.workKey (a + i))
/-- One byte of a mover operand. -/
def State.sideAt (s : State) (u : UnitId) (d : Side) (i : Nat) : Byte := s.peek (s.sideCell u i d).1 (s.sideCell u i d).2
/-- A mover operand of `n` bytes that its issuer may name, in memories without uncorrectable words; the working partition of a stack is no
larger than the stack (R211, R216). -/
def State.SideReady (s : State) (u : UnitId) (d : Side) (n : Nat) : Prop :=
  s.sideOk u n d = true ∧ s.fld R.hbmWorkMib ≤ 36864 ∧ (s.lmem[u.val]'u.isLt).bad = [] ∧
  (s.bmem[(bunchOf u).val]'(bunchOf u).isLt).bad = [] ∧ s.hbm.bad = []
/-- Two operands of `n` and `k` bytes share no byte. -/
def Apart (x : Side) (n : Nat) (y : Side) (k : Nat) : Prop :=
  match x, y with
  | .win a, .win b => a + n ≤ b ∨ b + k ≤ a
  | .hbm a, .hbm b => a + n ≤ b ∨ b + k ≤ a
  | _, _ => True

/-! ## What is sent -/

/-- A time frame went out: into the time queue of a network port, or at once on the twin link (R355). -/
def TimeSent (s t : State) (p : Nat) (f : Frame) : Prop :=
  if 32 ≤ p then t.out = .frame p none f :: s.out
  else t.out = s.out ∧ ∃ x : EgFrame, x.frame = f ∧ (t.eg p).tq = (s.eg p).tq ++ [x]

/-- Nothing differs between two states but fabric time, the states of links and PTP ports, and what waits or has gone out. -/
def TimeOnly (s t : State) : Prop := t = { s with time := t.time, net := t.net, out := t.out }

/-! ## What is recorded -/

/-- A violation was recorded as the newest entry of the log, at the fabric time reached (R520). -/
def Logged (s t : State) (cls partner protocol status reason ctx0 ctx1 : Nat) : Prop :=
  t.vlog.entries = ({ time := t.time.now, cls := cls, partner := partner, protocol := protocol, status := status, reason := reason,
                      ctx0 := ctx0, ctx1 := ctx1 } :: s.vlog.entries).take 4096 ∧ t.vlog.next = (s.vlog.next + 1) % 2 ^ 32

/-- A frame went into an egress queue of a port, or waits for space there behind those that wait (Table 11.1). -/
def FrameQueued (s t : State) (p q : Nat) (f : Frame) : Prop :=
  (∃ x : EgFrame, x.frame = f ∧ (t.eg p).queue q = (s.eg p).queue q ++ [x]) ∨ (t.eg p).wait = (s.eg p).wait ++ [(q, f)]

/-! ## Collectives -/

/-- A cell of a kind passes every check of its receiver and belongs to the step, attempt and round in progress on a leg that is no
rendezvous leg and whose receive window is open (R284, R289, R298). -/
def State.CellFits (s : State) (kind : Nat) (c : Cell) (g : GroupE) (l : LegE) (r : GroupRun) : Prop :=
  s.groupE c.group = some g ∧ s.legE c.leg = some l ∧ s.coll.groups.find? (fun r => r.group == c.group) = some r ∧
  s.cellBad kind c = none ∧ c.gen = r.gen ∧ c.step = r.step ∧ c.attempt = r.attempt ∧ c.round = r.round ∧ l.rv = false ∧
  (s.legRun c.leg).rxClosed = false ∧ (s.legRun c.leg).verdictClosed = false

/-! ## Host rings -/

/-- A host ring can have its next descriptor of a type taken, and completed without a signal and without a twin to confirm (R511, R512). -/
def State.RingReady (s : State) (n r typ : Nat) : Prop :=
  let x := s.ring n r
  s.fld (R.lhqiReady n) = 1 ∧ s.fld (R.instResident n) = 1 ∧ s.stewardGone 1 = false ∧ s.stewardGone 7 = false ∧ x.st = .active ∧ x.typ = typ ∧
  x.sqN ≠ 0 ∧ x.taken < x.tail ∧ x.live.length + (x.posted - x.released) < x.cqN ∧ x.taken ∉ x.live ∧ x.unsig + 1 < x.coalCount ∧
  s.held = false ∧ s.fld R.twinState ≠ 6 ∧ s.deferred = [] ∧ s.inst.pend = []
/-- Its next descriptor was taken and is running. -/
def RingTook (s t : State) (n r : Nat) : Prop :=
  t.ring n r = { s.ring n r with taken := (s.ring n r).taken + 1, live := (s.ring n r).live ++ [(s.ring n r).taken] }
/-- Its next descriptor was taken and completed: the completion stands in the ring's next slot, with PHASE, the ring's generation and the
head after it (Table 18.5). -/
def RingDone (s t : State) (n r tag st r1 r2 : Nat) : Prop :=
  let x := s.ring n r
  (∃ f, t.ring n r = { x with taken := x.taken + 1, posted := x.posted + 1, unsig := x.unsig + 1, firstUnsig := f }) ∧
  Emit.hostWrite n (x.cqBase + 16 * (x.posted % x.cqN)) (cplBytes tag st ((1 + x.posted / x.cqN) % 2) 0 x.gen ((x.taken + 1) % x.sqN) r1 r2) ∈ t.out
/-- The transport and the block service have nothing to do. -/
def State.Still (s : State) : Prop := s.lft.qps = [] ∧ s.lft.notified = [] ∧ s.lft.finished = [] ∧ s.blk.ops = []

/-! ## The transport -/

/-- One queue pair exists and is resident, with nothing of it waiting to be sent; no packet, notify completion, block operation or key erasure waits, and no twin confirms. -/
def State.QpAlone (s : State) (n : Nat) (q : Qp) : Prop :=
  s.lft.qps = [(n, some q)] ∧ n < 65536 ∧ q.resident = true ∧ q.waits = [] ∧ q.again = [] ∧ s.lft.notified = [] ∧ s.lft.finished = [] ∧ s.lft.miss = [] ∧
  s.lft.quarantine = [] ∧ s.lft.creating = [] ∧ s.blk.ops = [] ∧ s.keys.erase = [] ∧ s.held = false ∧ s.fld R.twinState ≠ 6 ∧
  s.twin.addrs = []
/-- It has one path, which is up, no encryption and no owner with a ceiling, and the device may send (R321, R328). -/
def State.PathUp (s : State) (q : Qp) (x : LftPath) : Prop :=
  q.a.paths = [x] ∧ s.portUp x.port = true ∧ s.lftQuiet = false ∧ q.owner = 64 ∧ q.a.enc = false
/-- Its requests are all sent and its PSNs are 32 bits wide. -/
def Qp.Level (q : Qp) : Prop := q.sent = q.next ∧ q.next < 2 ^ 32 ∧ q.acked < 2 ^ 32 ∧ q.edge < 2 ^ 32
/-- A packet passes the checks of its arrival at a queue pair without encryption (R308, R312, R313, R321). -/
def State.PktFits (s : State) (n : Nat) (q : Qp) (p : LftPkt) (now : Nat) : Prop :=
  p.csumOk = true ∧ now ≤ p.txTime + 2000000 ∧ p.txTime ≤ now + 1000 ∧ p.verMajor = 1 ∧ 1 ≤ p.opcode ∧ p.opcode ≤ 7 ∧ p.destQpn = n ∧
  n ≠ s.fld R.twinBkQpn ∧ p.srcQpn = q.a.peerQpn ∧ (∃ x ∈ q.a.paths, x.peer = p.src) ∧ q.a.enc = false ∧ bitAt p.flags 2 = false ∧
  p.psn < 2 ^ 32
/-- A packet went into the egress queue of a path, from its address to its peer's. -/
def PktQueued (s t : State) (q : Qp) (x : LftPath) (f : LftPkt) : Prop :=
  FrameQueued s t x.port (s.classQueue x.port (q.a.trafficClass / 32)) (.lft f) ∧ f.src = x.addr ∧ f.dst = x.peer ∧ f.destQpn = q.a.peerQpn
/-- Bytes stand in the working partition from an address on, and every other byte of every memory reads as before. -/
def StoredWork (s t : State) (a : Nat) (l : List Byte) : Prop :=
  (∀ i, i < l.length → t.peek .hbm (s.workKey (a + i)) = l.getD i 0) ∧
  ∀ m b, (∀ i, i < l.length → (m, b) ≠ (MemSel.hbm, s.workKey (a + i))) → t.peek m b = s.peek m b

/-! ## Work of a ring that ends later, and control descriptors -/

/-- A ring can take the completion of a piece of work, without a signal (R512). -/
def State.RingOwes (s : State) (w : Work) : Prop :=
  let x := s.ring w.inst w.ring
  x.st = .active ∧ x.gen = w.gen ∧ x.cqN ≠ 0 ∧ x.sqN ≠ 0 ∧ x.unsig + 1 < x.coalCount ∧ s.deferred = [] ∧ s.inst.pend = []
/-- It owes it, and no twin has to confirm it (R489). -/
def State.Owes (s : State) (w : Work) : Prop := s.RingOwes w ∧ s.held = false ∧ s.fld R.twinState ≠ 6
/-- It has been paid: the completion stands in the ring's next slot and the work is no longer running (Table 18.5). -/
def Paid (s t : State) (w : Work) (st r1 r2 : Nat) : Prop :=
  let x := s.ring w.inst w.ring
  (∃ f, t.ring w.inst w.ring = { x with live := x.live.erase w.ix, posted := x.posted + 1, unsig := x.unsig + 1, firstUnsig := f }) ∧
  Emit.hostWrite w.inst (x.cqBase + 16 * (x.posted % x.cqN)) (cplBytes w.tag st ((1 + x.posted / x.cqN) % 2) 0 x.gen (x.taken % x.sqN) r1 r2) ∈ t.out
/-- A control descriptor can be taken and passes the shared checks of Table 18.9: `plen` bytes of parameters, `outNeed` of output, and
whether only the physical function may issue it. -/
def State.CtlFits (s : State) (i : InstId) (r : Fin 64) (h : CtlHdr) (pf : Bool) (plen outNeed : Nat) : Prop :=
  s.RingReady i.val r.val 0 ∧ s.ctlCheck i.val h pf plen outNeed = none

/-! ## The twin -/

/-- Nothing is unconfirmed or held, no context comes back, and no service has anything to send. -/
def State.TwinQuiet (s : State) : Prop :=
  s.twin.unconf = [] ∧ s.twin.held = [] ∧ s.twin.ahead = [] ∧ s.twin.resync = none ∧ s.dec.seqs = [] ∧ s.ckpt.run = none ∧ s.Still
/-- The conditions that refuse a twin record, each with its REASON, in the order in which they are checked (R486, R487). -/
def State.twinChecks (s : State) (r : TwinRec) : List (Bool × Nat) :=
  let st := s.fld R.twinState
  let hello := r.kind == 0 && st != 1 && st != 2 && st != 4
  [(decide (6 < r.kind) || decide (6 < r.state) || (r.kind == 2 && (r.cls == 0 || decide (8 < r.cls))), 1),
   (r.rsv || (r.kind != 2 && r.cls != 0) || (r.kind != 2 && r.kind != 4 && r.seq != 0), 2),
   (r.kind != 0 && r.verMajor != 1, 3),
   (!hello && s.twin.peerSerial != none && s.twin.peerSerial != some r.serial, 6),
   (r.kind == 2 && decide (s.twin.applied + 4096 < r.seq), 7)]
/-- A record of a kind was sent on the twin link, and nothing else. -/
def TwinSent (s t : State) (kind seq len : Nat) : Prop :=
  ∃ x : TwinRec, t.out = .twin false x :: s.out ∧ x.kind = kind ∧ x.seq = seq ∧ x.len = len ∧ x.confirmed = t.twin.applied ∧ x.serial = s.serial

/-! ## The block service -/

/-- A volume is one extent of a namespace, on a drive whose own path works. -/
def State.OneDrive (s : State) (v : Volume) (k : Fin 8) (nsid first n : Nat) : Prop :=
  v.a.layout = 0 ∧ v.a.members = [.drive k.val nsid first n] ∧ s.pathOk k.val = true ∧ (v.a.bs = 512 ∨ v.a.bs = 4096)
/-- The conditions of Table 13.6 that end a command of a ring, each with its status, in the order in which they are checked. -/
def State.blkChecks (s : State) (i : InstId) (r : Fin 64) (op : Nat) (b : BlkBody) (x : Option Attach) (v : Option Volume) : List (Bool × Nat) :=
  let rw := op == 1 || op == 2
  let vol := decide (op ≤ 5)
  let bytes := b.nlb * (v.map (·.a.bs)).getD 0
  [(s.blkBadField op b, 2),
   (s.blk.tags.any fun u => !u.acc && u.inst == i.val && u.ring == r.val && u.tag == b.tag && decide ((s.ring i.val r.val).released ≤ u.index), 3),
   (!vol && op != 6 && i.val != 0, 4),
   (vol && (x.isNone || !(v.map s.served).getD false), 5),
   (vol && writeOp op && (x.map (·.ro)).getD false, 6),
   (vol && ((op != 3 && b.nlb == 0) || (rw && b.bufLen == 0)), 7),
   (vol && decide ((v.map fun v => volCapacity v.a).getD 0 < b.lba + b.nlb), 8),
   (rw && (decide (2 ^ 26 < bytes) || decide (b.bufLen < bytes)), 9),
   (rw && !(if b.bufHbm then s.sliceOk i.val b.bufAddr bytes && !s.inFwSpan b.bufAddr bytes else s.hostOk i.val b.bufAddr bytes), 0xA),
   (vol && (v.map fun v => (volDrives v.a).any fun d => s.sanitizing d.1 d.2).getD false, 0xB),
   (vol && (v.map (·.failed)).getD false, 0xC)]

/-! ## Stewards -/

/-- A Steward runs an image from its first instruction, with two arguments (R545, R553, R558). -/
def StewardRuns (t : State) (n : Fin 8) (im : FwImage) (a0 a1 : Word) : Prop :=
  let u := stewardUnit n.val
  (t.core u).run.state = .running ∧ (t.core u).regs.pc = 0 ∧ (t.core u).getG 1 = a0 ∧ (t.core u).getG 2 = a1 ∧ t.fld (R.fwVer n.val) = im.version % 2 ^ 32 ∧
  (∀ j, j < im.text.length → t.peek (.imem u) j = im.text.getD j 0) ∧ ∀ j, j < im.data.length → t.peek (.lmem u) j = im.data.getD j 0

/-! ## The invariant of core instructions -/

/-- What holds of every unit: PC and EVEC are word-aligned, at most four loops are active, DEF_RM is a code of Table 2.4, and the reserved
bits of CORE_MODE and CORE_STATUS are clear. -/
def Core.Inv (c : Core) : Prop :=
  c.regs.pc &&& 3#16 = 0 ∧ c.ctl.evec &&& 3#16 = 0 ∧ c.loops.active.length ≤ 4 ∧ c.ctl.mode &&& 0xFFF0FFC0#32 = 0 ∧
  c.ctl.mode.toNat % 8 < 5 ∧ c.ctl.status &&& 0xFFFFFFF0#32 = 0

/-- The byte memories are in canonical form, and every unit meets its invariant. -/
def State.Inv (s : State) : Prop :=
  (∀ u : UnitId, (s.core u).Inv) ∧ (∀ u : UnitId, (s.imem[u.val]'u.isLt).bytes.wf = true) ∧
  (∀ u : UnitId, (s.lmem[u.val]'u.isLt).bytes.wf = true) ∧ (∀ b : Fin 32, (s.bmem[b.val]'b.isLt).bytes.wf = true) ∧
  s.hbm.bytes.wf = true

end Sys2Proof.Machine
end

