-- ==== Sys2Proof/Certificates/Slice0/Obligations.lean ====
section
/-! DEFINITION. The statements about the block, family by family. -/

open Sys2Proof Sys2Proof.Machine

/-! ## The queue, reset and the invariant -/

/-- One step takes the command at the front of the queue and does what exec does with the queue's rest; with an empty queue the block idles (log entry
1: the idling is the model's own). -/
def Obligations.StepRunsFront : Prop :=
  (∀ (s : State) (i : Instr) (rest : List Instr), s.pending = i :: rest → step s = exec i { s with pending := rest }) ∧
  ∀ s : State, s.pending = [] → step s = .next s

/-! ## Core instructions: arithmetic (spec/02, spec/03, spec/05) -/

/-- ADD, SUB, MUL, SHL and ADDI write their signed result narrowed to 32 bits, with SAT or OVF set where it does not fit, and change nothing else of
their core (R81, R164, R166, R167). -/
def Obligations.NarrowedResults : Prop := ∀ (s : State) (u : UnitId) (x : Issue),
  let c := s.core u
  let gives := fun (i : Instr) (op : CoreOp) (d : BitVec 5) (sat : Bool) (n : Int) =>
    s.Issues u x op → ∃ v b, Narrowed 32 sat n v b ∧ Runs i s fun t => UnitOnly u s t ∧ Core.WroteG c (t.core u) d v (c.ctl.flagged b)
  (∀ f : FRR, gives (.add u x f) (.add f) f.d f.sat ((c.getG f.a).toInt + (c.getG f.b).toInt)) ∧
  (∀ f : FRR, gives (.sub u x f) (.sub f) f.d f.sat ((c.getG f.a).toInt - (c.getG f.b).toInt)) ∧
  (∀ f : FRR, gives (.mul u x f) (.mul f) f.d f.sat ((c.getG f.a).toInt * (c.getG f.b).toInt)) ∧
  (∀ f : FRR, gives (.shl u x f) (.shl f) f.d f.sat ((c.getG f.a).toInt * 2 ^ ((c.getG f.b).toNat % 32))) ∧
  ∀ f : FRI, gives (.addi u x f) (.addi f) f.d f.sat ((c.getG f.a).toInt + f.imm.toInt)

/-- ACCSET, ACCCLR and ACCADD write an accumulator: the sign-extended register, zero, or the sum narrowed to 40 bits (R79, R166). FMUL, MAC, MSU and
EXT round by their RM with the draw that the keyed generator gives for KS_KEY and KS_CTR, narrow the result, and take one draw when RM is 4 and none
otherwise (R59, R60, R78 to R80, R85, R86, R168, R169). -/
def Obligations.AccumulatorAndRoundedResults : Prop :=
  (∀ (s : State) (u : UnitId) (x : Issue),
  let c := s.core u
  (∀ f : FAR, s.Issues u x (.accset f) →
    Runs (.accset u x f) s fun t => UnitOnly u s t ∧ Core.WroteAcc c (t.core u) f.acc (BitVec.ofInt 40 (c.getG f.a).toInt) c.ctl) ∧
  (∀ f : FAR, s.Issues u x (.accclr f) →
    Runs (.accclr u x f) s fun t => UnitOnly u s t ∧ Core.WroteAcc c (t.core u) f.acc 0 c.ctl) ∧
  ∀ f : FAA, s.Issues u x (.accadd f) → ∃ v b, Narrowed 40 f.sat ((c.getAcc f.acc).toInt + (c.getAcc f.accs).toInt) v b ∧
    Runs (.accadd u x f) s fun t => UnitOnly u s t ∧ Core.WroteAcc c (t.core u) f.acc v (c.ctl.flagged b)) ∧
  (∀ (s : State) (u : UnitId) (x : Issue),
  let c := s.core u
  let r := draw c.ctl.ksKey.toNat (c.ctl.ksCtr.toNat % 2 ^ 32) (c.ctl.ksCtr.toNat / 2 ^ 32 % 2 ^ 32) (c.ctl.ksCtr.toNat / 2 ^ 64 % 2 ^ 32)
    (c.ctl.ksCtr.toNat / 2 ^ 96)
  (∀ f : FRR, s.Issues u x (.fmul f) → ∃ p v b, RoundsTo f.rm.toNat r ((c.getG f.a).toInt * (c.getG f.b).toInt) 31 p ∧
    Narrowed 32 f.sat p v b ∧
    Runs (.fmul u x f) s fun t => UnitOnly u s t ∧ Core.WroteG c (t.core u) f.d v ((c.ctl.drew f.rm.toNat).flagged b)) ∧
  (∀ f : FEX, s.Issues u x (.ext f) → ∃ p v b, RoundsTo f.rm.toNat r (c.getAcc f.acc).toInt f.sh.toNat p ∧ Narrowed 32 f.sat p v b ∧
    Runs (.ext u x f) s fun t => UnitOnly u s t ∧ Core.WroteG c (t.core u) f.d v ((c.ctl.drew f.rm.toNat).flagged b)) ∧
  (∀ f : FAC, s.Issues u x (.mac f) → ∃ p v b, RoundsTo f.rm.toNat r ((c.getG f.a).toInt * (c.getG f.b).toInt) 31 p ∧
    Narrowed 40 f.sat ((c.getAcc f.acc).toInt + p) v b ∧
    Runs (.mac u x f) s fun t => UnitOnly u s t ∧ Core.WroteAcc c (t.core u) f.acc v ((c.ctl.drew f.rm.toNat).flagged b)) ∧
  ∀ f : FAC, s.Issues u x (.msu f) → ∃ p v b, RoundsTo f.rm.toNat r ((c.getG f.a).toInt * (c.getG f.b).toInt) 31 p ∧
    Narrowed 40 f.sat ((c.getAcc f.acc).toInt - p) v b ∧
    Runs (.msu u x f) s fun t => UnitOnly u s t ∧ Core.WroteAcc c (t.core u) f.acc v ((c.ctl.drew f.rm.toNat).flagged b))

/-- ESADD and ESADD_D wrap whatever SAT says and never set SAT or OVF; where the exact sum does not fit they set CHK, and OVF_SEEN and OVF_COUNT of
the die's exact-sum unit, and report an arithmetic check failure of the unit (R56, R82, R120, R170). -/
def Obligations.ExactSumResults : Prop := ∀ (s : State) (u : UnitId) (x : Issue) (f : FRR),
  let c := s.core u
  let reported := fun (t : State) => t.reports = s.reports ++ [⟨0x01, s.unitCode u, 0⟩] ∧ t.fld (R.esuOvf (dieOf u)) = 1 ∧
    t.fld (R.esuOvfCount (dieOf u)) = min (s.fld (R.esuOvfCount (dieOf u)) + 1) 65535
  (∀ n : Int, s.Issues u x (.esadd f) → n = (c.getG f.a).toInt + (c.getG f.b).toInt →
    (-(2 ^ 31) ≤ n ∧ n < 2 ^ 31 →
      Runs (.esadd u x f) s fun t => UnitOnly u s t ∧ ∃ v, v.toInt = n ∧ Core.WroteG c (t.core u) f.d v c.ctl) ∧
    (¬(-(2 ^ 31) ≤ n ∧ n < 2 ^ 31) →
      Runs (.esadd u x f) s fun t => reported t ∧ Core.WroteG c (t.core u) f.d (BitVec.ofInt 32 n) (c.ctl.flagged 4))) ∧
  (∀ n : Int, s.Issues u x (.esaddD f) → n = (c.getG2 f.a).toInt + (c.getG2 f.b).toInt →
    (-(2 ^ 63) ≤ n ∧ n < 2 ^ 63 →
      Runs (.esaddD u x f) s fun t => UnitOnly u s t ∧ ∃ v, v.toInt = n ∧ Core.WroteG2 c (t.core u) f.d v c.ctl) ∧
    (¬(-(2 ^ 63) ≤ n ∧ n < 2 ^ 63) →
      Runs (.esaddD u x f) s fun t => reported t ∧ Core.WroteG2 c (t.core u) f.d (BitVec.ofInt 64 n) (c.ctl.flagged 4)))

/-- The logical and shift operations, the minima and maxima, the high products, SEL, the immediates and MFC write their result and set no flag (R81,
R95, R166, R167). CMP and CMPI write their predicate by the condition codes of Table 5.3, the immediate sign-extended and codes 4 and 5 unsigned; a
write to p0 is discarded (R74, R172). -/
def Obligations.PlainAndComparisonResults : Prop :=
  (∀ (s : State) (u : UnitId) (x : Issue),
  let c := s.core u
  let gives := fun (i : Instr) (op : CoreOp) (d : BitVec 5) (v : Word) =>
    s.Issues u x op → Runs i s fun t => UnitOnly u s t ∧ Core.WroteG c (t.core u) d v c.ctl
  (∀ f : FRR, let a := c.getG f.a; let b := c.getG f.b
    gives (.and u x f) (.and f) f.d (a &&& b) ∧ gives (.or u x f) (.or f) f.d (a ||| b) ∧
    gives (.xor u x f) (.xor f) f.d (a ^^^ b) ∧
    gives (.shr u x f) (.shr f) f.d (BitVec.ofNat 32 (a.toNat / 2 ^ (b.toNat % 32))) ∧
    gives (.sar u x f) (.sar f) f.d (BitVec.ofInt 32 (a.toInt / 2 ^ (b.toNat % 32))) ∧
    gives (.min u x f) (.min f) f.d (BitVec.ofInt 32 (min a.toInt b.toInt)) ∧
    gives (.max u x f) (.max f) f.d (BitVec.ofInt 32 (max a.toInt b.toInt)) ∧
    gives (.minu u x f) (.minu f) f.d (BitVec.ofNat 32 (min a.toNat b.toNat)) ∧
    gives (.maxu u x f) (.maxu f) f.d (BitVec.ofNat 32 (max a.toNat b.toNat)) ∧
    gives (.mulh u x f) (.mulh f) f.d (BitVec.ofInt 32 (a.toInt * b.toInt / 2 ^ 32)) ∧
    gives (.mulhu u x f) (.mulhu f) f.d (BitVec.ofNat 32 (a.toNat * b.toNat / 2 ^ 32))) ∧
  (∀ f : FRS, gives (.sel u x f) (.sel f) f.d (if c.getP f.ps then c.getG f.a else c.getG f.b)) ∧
  (∀ f : FRI, let a := c.getG f.a; let m : Word := BitVec.ofInt 32 f.imm.toInt
    gives (.andi u x f) (.andi f) f.d (a &&& m) ∧ gives (.ori u x f) (.ori f) f.d (a ||| m) ∧
    gives (.xori u x f) (.xori f) f.d (a ^^^ m)) ∧
  (∀ f : FI16, gives (.movi u x f) (.movi f) f.d (BitVec.ofInt 32 f.imm.toInt) ∧
    gives (.movhi u x f) (.movhi f) f.d (BitVec.ofNat 32 (f.imm.toNat * 65536 + (c.getG f.d).toNat % 65536))) ∧
  ∀ f : FCR, gives (.mfc u x f) (.mfc f) f.t (c.getCr f.c.toNat)) ∧
  (∀ (s : State) (u : UnitId) (x : Issue),
  let c := s.core u
  let holds := fun (k : BitVec 3) (a b : Word) => match k.toNat with
    | 0 => a = b
    | 1 => a ≠ b
    | 2 => a.toInt < b.toInt
    | 3 => a.toInt ≥ b.toInt
    | 4 => a.toNat < b.toNat
    | 5 => a.toNat ≥ b.toNat
    | 6 => a &&& b ≠ 0
    | _ => a &&& b = 0
  (∀ f : FPC, s.Issues u x (.cmp f) → ∃ v : Bool, (v = true ↔ holds f.cond (c.getG f.a) (c.getG f.b)) ∧
    Runs (.cmp u x f) s fun t => UnitOnly u s t ∧ Core.WroteP c (t.core u) f.pd v) ∧
  ∀ f : FPCI, s.Issues u x (.cmpi f) → ∃ v : Bool, (v = true ↔ holds f.cond (c.getG f.a) (BitVec.ofInt 32 f.imm.toInt)) ∧
    Runs (.cmpi u x f) s fun t => UnitOnly u s t ∧ Core.WroteP c (t.core u) f.pd v)

/-! ## Core instructions: memory (spec/03, spec/05) -/

/-- LD and LDA whose address falls in a memory without errors, and in no stack whose accesses an in-stack copy holds, load its little-endian bytes,
extended under SX or as a pair or as the low 40 bits of an accumulator, update their base by Table 5.4, and change no byte of memory (R75, R76, R103,
R173, R174, R176). ST and STA whose address falls in a memory without errors, and in no stack whose accesses an in-stack copy holds, store the low
bytes of the register, the pair, or the accumulator sign-extended to 64 bits, little-endian, update their base, and change no other byte of any memory
and no register (R75, R76, R103, R173, R174, R176). -/
def Obligations.MemoryAccesses : Prop :=
  (∀ (s : State) (u : UnitId) (x : Issue) (p : Place) (m : MemSel) (o : Nat),
  let c := s.core u
  memCell u p = some (m, o) → s.placeHeld p = false →
  (∀ (f : FM) (w : Nat) (k : Int) (n : Nat), s.Issues u x (.ld f) → w = 2 ^ f.size.toNat → k = f.off.toInt * w →
    s.place u (c.address f.mode f.base k) w false = .ok p → s.Clean u p w → n = leNat ((List.range w).map fun i => s.peek m (o + i)) →
    ∃ v : Word, (w < 8 → Loaded w f.sx n v) ∧ Runs (.ld u x f) s fun t => UnitOnly u s t ∧
      Core.Now c (t.core u) (fun i => if w = 8 then (if i = f.t then BitVec.ofNat 32 n else if i = f.t + 1 then BitVec.ofNat 32 (n / 2 ^ 32)
        else c.based f.mode f.base k i) else if i = f.t then v else c.based f.mode f.base k i) c.getAcc c.getP c.ctl) ∧
  ∀ (f : FMA) (k : Int) (n : Nat), s.Issues u x (.lda f) → k = f.off.toInt * 8 →
    s.place u (c.address f.mode f.base k) 8 false = .ok p → s.Clean u p 8 → n = leNat ((List.range 8).map fun i => s.peek m (o + i)) →
    Runs (.lda u x f) s fun t => UnitOnly u s t ∧
      Core.Now c (t.core u) (c.based f.mode f.base k) (fun i => if i = f.acc then BitVec.ofNat 40 n else c.getAcc i) c.getP c.ctl) ∧
  (∀ (s : State) (u : UnitId) (x : Issue) (p : Place) (m : MemSel) (o : Nat),
  let c := s.core u
  memCell u p = some (m, o) → s.placeHeld p = false →
  (∀ (f : FM) (w : Nat) (k : Int), s.Issues u x (.st f) → w = 2 ^ f.size.toNat → k = f.off.toInt * w →
    s.place u (c.address f.mode f.base k) w true = .ok p → s.Clean u p w →
    Runs (.st u x f) s fun t => StoreOnly u s t ∧
      Stored s t m o (natLe w (if w = 8 then (c.getG f.t).toNat + (c.getG (f.t + 1)).toNat * 2 ^ 32 else (c.getG f.t).toNat)) ∧
      Core.Now c (t.core u) (c.based f.mode f.base k) c.getAcc c.getP c.ctl) ∧
  ∀ (f : FMA) (k : Int), s.Issues u x (.sta f) → k = f.off.toInt * 8 →
    s.place u (c.address f.mode f.base k) 8 true = .ok p → s.Clean u p 8 →
    Runs (.sta u x f) s fun t => StoreOnly u s t ∧
      Stored s t m o (natLe 8 (BitVec.ofInt 64 (c.getAcc f.acc).toInt).toNat) ∧
      Core.Now c (t.core u) (c.based f.mode f.base k) c.getAcc c.getP c.ctl)

/-- Where a D-space access of `w` bytes falls or what it raises: MISALIGNED first; core-local SRAM below 256 KiB; Bunch SRAM from 0x0100_0000 for 4
MiB and nothing else below the apertures on a compute core; each aperture only when enabled, for a store only when writes are enabled, and only
between the fences and below the working space's top (R102, R103, R104, R105, R154). An access of LD, ST, LDA or STA that falls nowhere raises the
exception of its address, with the address in BADADDR and the base unchanged; an access that meets an uncorrectable word of a memory raises DATA_ECC;
one that an in-stack copy or a Graft gap holds waits, its unit standing on the instruction with nothing changed (R103, R105, R117, R174, R218, R556). -/
def Obligations.DSpaceAccesses : Prop :=
  (∀ (s : State) (u : UnitId) (a : Word) (w : Nat) (store : Bool),
  let c := s.core u
  let n := a.toNat
  (n % w ≠ 0 → s.place u a w store = .error .misaligned) ∧
  (n % w = 0 → n < 0x40000 → s.place u a w store = .ok (.lmem n)) ∧
  (n % w = 0 → u.val < 256 → 0x1000000 ≤ n → n < 0x1400000 → s.place u a w store = .ok (.bmem (n - 0x1000000))) ∧
  (n % w = 0 → u.val < 256 → (0x40000 ≤ n ∧ n < 0x1000000 ∨ 0x1400000 ≤ n ∧ n < 0x40000000 ∨ 0x80000000 ≤ n) →
    s.place u a w store = .error .unmapped) ∧
  ∀ k : Fin 4, n % w = 0 → 0x40000000 + k.val * 0x10000000 ≤ n → n < 0x50000000 + k.val * 0x10000000 →
    let ctl := c.ctl.apCtl[k]
    let b := c.ctl.apBase[k].toNat * 2 ^ 20 + n % 0x10000000
    (ctl.getLsbD 0 = false ∨ store = true ∧ ctl.getLsbD 1 = false → s.place u a w store = .error .apDisabled) ∧
    (ctl.getLsbD 0 = true → (store = true → ctl.getLsbD 1 = true) →
      (c.ctl.fenceLo.toNat * 2 ^ 20 ≤ b ∧ b < c.ctl.fenceHi.toNat * 2 ^ 20 ∧ b < s.workTop → s.place u a w store = .ok (.hbm (s.workKey b))) ∧
      (b < c.ctl.fenceLo.toNat * 2 ^ 20 ∨ c.ctl.fenceHi.toNat * 2 ^ 20 ≤ b ∨ s.workTop ≤ b → s.place u a w store = .error .apFence))) ∧
  (∀ (s : State) (u : UnitId) (x : Issue) (i : Instr) (op : CoreOp) (a : Word) (w : Nat) (store : Bool),
  let c := s.core u
  (opOf i = some (u, x, op) ∧ s.Issues u x op ∧
    match op with
    | .ld f => w = 2 ^ f.size.toNat ∧ a = c.address f.mode f.base (f.off.toInt * w) ∧ store = false
    | .st f => w = 2 ^ f.size.toNat ∧ a = c.address f.mode f.base (f.off.toInt * w) ∧ store = true
    | .lda f => w = 8 ∧ a = c.address f.mode f.base (f.off.toInt * w) ∧ store = false
    | .sta f => w = 8 ∧ a = c.address f.mode f.base (f.off.toInt * w) ∧ store = true
    | _ => False) →
  (∀ k, s.place u a w store = .error k → Runs i s fun t => SameMem s t ∧ Core.Took c (t.core u) k c.regs.pc (some a) 0) ∧
  (∀ p, s.place u a w store = .ok p → s.placeHeld p = true → exec i s = .next s) ∧
  ∀ p r pw o, s.place u a w store = .ok p → s.placeHeld p = false → s.ramAt u p = some (r, pw, o) → r.anyBad pw o w = true → r.anySoft pw o w = false → store = false →
    Runs i s fun t => SameMem s t ∧ Core.Took c (t.core u) .dataEcc c.regs.pc (some a) 0)

/-! ## Core instructions: guards, control registers, control transfer -/

/-- MTC writes a control register under its access code: CORE_MODE and EVEC take their writable bits, ones clear the sticky bits of CORE_STATUS, the
rest take the value, and a register the core may only read is unchanged; a reserved code in DEF_RM is ILLEGAL and writes nothing (R84, R95, R97, R98,
R142). -/
def Obligations.ControlRegisterWrites : Prop := ∀ (s : State) (u : UnitId) (x : Issue) (f : FCR),
  let c := s.core u
  let v := c.getG f.t
  let n := f.c.toNat
  s.Issues u x (.mtc f) →
  (n = 1 → 5 ≤ v.toNat % 8 → Runs (.mtc u x f) s fun t => Core.Took c (t.core u) .illegal c.regs.pc none 0) ∧
  (¬(n = 1 ∧ 5 ≤ v.toNat % 8) → Runs (.mtc u x f) s fun t => UnitOnly u s t ∧
    (∀ i, (t.core u).getG i = c.getG i) ∧ (∀ i, (t.core u).getAcc i = c.getAcc i) ∧ (∀ i, (t.core u).getP i = c.getP i) ∧
    ∀ r, crListed r = true → (t.core u).getCr r =
      if r ≠ n then c.getCr r
      else if n = 1 then v &&& 0xF003F#32
      else if n = 2 then c.getCr 2 &&& ~~~(v &&& 0xF#32)
      else if n = 4 then v &&& 0xFFFF#32
      else if n = 6 then v &&& 0xFFFC#32
      else if 8 ≤ n ∧ n < 16 then v &&& 0xFFFF#32
      else if 16 ≤ n ∧ n < 26 then v
      else if 32 ≤ n ∧ n < 36 then v &&& 0x3FFFF#32
      else if 36 ≤ n ∧ n < 40 then v &&& 3#32
      else c.getCr n)

/-- The taken control transfers go to their target, bits [31:16] and [1:0] of a register target ignored; CALL and CALLR write the return address to
g31, and CALLR g31 has read its target first (R129, R131, R132). -/
def Obligations.ControlTransfers : Prop := ∀ (s : State) (u : UnitId) (x : Issue),
  let c := s.core u
  let goes := fun (i : Instr) (op : CoreOp) (dest : Nat) (link : Bool) => s.Issues u x op → Runs i s fun t => UnitOnly u s t ∧
    (t.core u).regs.pc.toNat = dest % 65536 / 4 * 4 ∧ (t.core u).regs.past = false ∧
    (∀ j, (t.core u).getG j = if j = 31 ∧ link = true then BitVec.ofNat 32 ((c.regs.pc.toNat + 4) % 65536) else c.getG j) ∧
    (t.core u).regs.acc = c.regs.acc ∧ (t.core u).regs.p = c.regs.p ∧ (t.core u).ctl = c.ctl ∧
    (c.loops.active = [] → (t.core u).loops.active = [])
  (∀ f : FB, goes (.br u x f) (.br f) (c.regs.pc.toNat + 4 * f.off.toNat) false ∧
    goes (.call u x f) (.call f) (c.regs.pc.toNat + 4 * f.off.toNat) true) ∧
  (∀ f : FJ, goes (.jmp u x f) (.jmp f) (c.getG f.a).toNat false ∧ goes (.callr u x f) (.callr f) (c.getG f.a).toNat true) ∧
  ∀ f : FN, goes (.ret u x f) (.ret f) (c.getG 31).toNat false

/-- HALT completes and halts its unit with the reason HALT instruction, at the next instruction; a compute core's halt message, with its reason and
PC, stands at its owner's queue or in the core's latch (R125, R544). A stepped HALT halts with the reason STEP and sends no message (R118, R662).
BREAK raises the BREAK exception (R129). ERET clears EXL, deactivates the loops entered while EXL was 1, and continues at EPC; with EXL clear it
continues at EPC and leaves it clear (R119, R134, R143). Stated with no loop at its running end. -/
def Obligations.StopsAndReturns : Prop :=
  (∀ (s : State) (u : UnitId) (x : Issue) (f : FN),
  let c := s.core u
  (s.Issues u x (.halt f) → c.run.stepping = true → c.loops.active = [] → Runs (.halt u x f) s fun t => UnitOnly u s t ∧
    (t.core u).run.state = .halted ∧ (t.core u).run.reason = .step ∧ (t.core u).regs.pc = (c.regs.pc + 4) &&& 0xFFFC#16 ∧
    (t.core u).regs.g = c.regs.g ∧ (t.core u).ctl = c.ctl) ∧
  (s.Issues u x (.halt f) → u.val < 256 → c.run.stepping = false → c.loops.active = [] → Runs (.halt u x f) s fun t =>
    (t.core u).run.state = .halted ∧ (t.core u).run.reason = .halt ∧ (t.core u).regs.pc = (c.regs.pc + 4) &&& 0xFFFC#16 ∧
    (t.core u).regs.g = c.regs.g ∧ (t.core u).ctl = c.ctl ∧
    (let h := BitVec.ofNat 32 (u.val + 256 + (t.core u).stat % 65536 * 65536)
     let w : Word := ((c.regs.pc + 4) &&& 0xFFFC#16).zeroExtend 32
     let q := (s.core c.ownerUnit).ports.cmsg
     if q.length + 2 ≤ 256 then ∃ l, (t.core c.ownerUnit).ports.cmsg = q ++ [h, w] ++ l else (t.core u).run.haltMsg = some (h, w))) ∧
  (s.Issues u x (.brk f) → Runs (.brk u x f) s fun t => SameMem s t ∧ Core.Took c (t.core u) .brk c.regs.pc none 0)) ∧
  (∀ (s : State) (u : UnitId) (x : Issue) (f : FN),
  let c := s.core u
  s.Issues u x (.eret f) → (∀ l ∈ c.loops.active, l.stop ≠ c.regs.pc) → c.loops.repPend = false →
  Runs (.eret u x f) s fun t => UnitOnly u s t ∧ (t.core u).regs.pc = c.ctl.epc &&& 0xFFFC#16 ∧
    (t.core u).ctl = { c.ctl with mode := c.ctl.mode &&& ~~~(0x20#32) } ∧ (t.core u).regs.g = c.regs.g ∧
    (t.core u).regs.acc = c.regs.acc ∧ (t.core u).regs.p = c.regs.p ∧
    (t.core u).loops.active = c.loops.active.filter (fun l => !l.entryExl))

/-! ## Core instructions: loops and REP (spec/04) -/

/-- LOOP and LOOPX enter level D: LOOP writes the level's registers first; a count of 0 goes on after the body's end, any other count goes on at the
body's start with the level active; with four levels active they raise LOOP_DEPTH and write no loop register. LPOP removes the innermost level (R136,
R137, R138). Stated with no active loop at its running end. The end check of an instruction at the running end of the innermost loop, entered under
the present EXL: with more than one iteration left it counts down and loops back; on the last it removes the level and goes on to the next level, or
at PC + 4; a loop entered under the other EXL, or that ends elsewhere, is left alone. Stated of NOP (R139, R143). REP: with gN = 0 the target does not
run and fetch goes on after it; when REP's guard does not hold REP has no effect and the target is the next instruction; with gN = 1 and a target that
adds an immediate to another register, the target runs once, gN becomes 0 and fetch goes on after the target (R145 to R148). With gN = 2 and a
HALT_REQ that arrives after the first repetition, the unit halts at the REP word with gN = 1 (R152). -/
def Obligations.LoopsAndRepetition : Prop :=
  (∀ (s : State) (u : UnitId) (x : Issue),
  let c := s.core u
  (∀ l ∈ c.loops.active, l.stop ≠ c.regs.pc) → c.loops.repPend = false →
  (∀ (d : Fin 4), c.loops.active.length = d.val →
    let enters := fun (t : Core) (n : Word) (start stop : BitVec 16) => if n = 0 then t.loops.active = c.loops.active ∧ t.regs.pc = (stop + 4) &&& 0xFFFC#16
      else t.loops.active = { start := start, stop := stop, remaining := n, entryExl := c.exl } :: c.loops.active ∧ t.regs.pc = start &&& 0xFFFC#16
    (∀ f : FL, s.Issues u x (.loop f) → Runs (.loop u x f) s fun t => UnitOnly u s t ∧
      enters (t.core u) (c.getG f.a) (c.regs.pc + 4) (c.regs.pc + 4 + 4 * f.eoff.zeroExtend 16) ∧
      (t.core u).loops.ls = c.loops.ls.set d (c.regs.pc + 4) ∧ (t.core u).loops.le = c.loops.le.set d (c.regs.pc + 4 + 4 * f.eoff.zeroExtend 16) ∧
      (t.core u).loops.lc = c.loops.lc.set d (c.getG f.a) ∧ (t.core u).regs.g = c.regs.g ∧ (t.core u).ctl = c.ctl) ∧
    (∀ f : FN, s.Issues u x (.loopx f) → Runs (.loopx u x f) s fun t => UnitOnly u s t ∧
      enters (t.core u) c.loops.lc[d] c.loops.ls[d] c.loops.le[d] ∧ (t.core u).loops.ls = c.loops.ls ∧ (t.core u).loops.le = c.loops.le ∧
      (t.core u).loops.lc = c.loops.lc ∧ (t.core u).regs.g = c.regs.g ∧ (t.core u).ctl = c.ctl)) ∧
  (c.loops.active.length = 4 →
    (∀ f : FL, s.Issues u x (.loop f) → Runs (.loop u x f) s fun t => Core.Took c (t.core u) .loopDepth c.regs.pc none 0) ∧
    ∀ f : FN, s.Issues u x (.loopx f) → Runs (.loopx u x f) s fun t => Core.Took c (t.core u) .loopDepth c.regs.pc none 0) ∧
  ∀ f : FN, s.Issues u x (.lpop f) → Runs (.lpop u x f) s fun t => UnitOnly u s t ∧ (t.core u).loops.active = c.loops.active.tail ∧
    (t.core u).regs.pc = (c.regs.pc + 4) &&& 0xFFFC#16 ∧ (t.core u).regs.g = c.regs.g ∧ (t.core u).ctl = c.ctl ∧
    (t.core u).loops.ls = c.loops.ls ∧ (t.core u).loops.le = c.loops.le ∧ (t.core u).loops.lc = c.loops.lc) ∧
  (∀ (s : State) (u : UnitId) (x : Issue) (f : FN) (l : LoopLevel) (ls : List LoopLevel),
  let c := s.core u
  s.Issues u x (.nop f) → c.loops.active = l :: ls → c.loops.repPend = false →
  (l.stop = c.regs.pc → l.entryExl = c.exl → l.remaining ≠ 1 → Runs (.nop u x f) s fun t =>
    (t.core u).regs.pc = l.start &&& 0xFFFC#16 ∧ (t.core u).loops.active = { l with remaining := l.remaining - 1 } :: ls) ∧
  (l.stop = c.regs.pc → l.entryExl = c.exl → l.remaining = 1 → (ls = [] ∨ ∃ k r, ls = k :: r ∧ k.stop ≠ c.regs.pc) →
    Runs (.nop u x f) s fun t => (t.core u).regs.pc = (c.regs.pc + 4) &&& 0xFFFC#16 ∧ (t.core u).loops.active = ls) ∧
  (l.stop ≠ c.regs.pc ∨ l.entryExl ≠ c.exl →
    Runs (.nop u x f) s fun t => (t.core u).regs.pc = (c.regs.pc + 4) &&& 0xFFFC#16 ∧ (t.core u).loops.active = l :: ls)) ∧
  (∀ (s : State) (u : UnitId) (x : Issue) (f : FREP) (w : CoreWord),
  let c := s.core u
  s.Ready u → f.rsv = 0 → c.regs.pc ≠ 0xFFFC#16 → c.loops.active = [] →
  (s.imem[u.val]'u.isLt).bad = [] → (s.imem[u.val]'u.isLt).soft = [] →
  w = decodeWord (s.imemWord u (c.regs.pc + 4)) → repTargetCause c.regs.pc f.a w.op = none →
  (c.guard x = false → Runs (.rep u x f) s fun t => UnitOnly u s t ∧ (t.core u).regs.pc = (c.regs.pc + 4) &&& 0xFFFC#16 ∧
    (t.core u).regs.g = c.regs.g ∧ (t.core u).ctl = c.ctl) ∧
  (c.guard x = true → c.getG f.a = 0 → Runs (.rep u x f) s fun t => UnitOnly u s t ∧
    (t.core u).regs.pc = (c.regs.pc + 4 + 4) &&& 0xFFFC#16 ∧ (t.core u).regs.g = c.regs.g ∧ (t.core u).ctl = c.ctl) ∧
  ∀ h : FRI, c.guard x = true → w.op = .addi h → w.pred = 0 → w.neg = false → x.residue = false → c.run.stepping = false →
    ∃ v b, Narrowed 32 h.sat ((c.getG h.a).toInt + h.imm.toInt) v b ∧
      (c.getG f.a = 1 → Runs (.rep u x f) s fun t => UnitOnly u s t ∧ (t.core u).regs.pc = (c.regs.pc + 4 + 4) &&& 0xFFFC#16 ∧
        (∀ i, (t.core u).getG i = if i = f.a then 0 else if i = h.d then v else c.getG i) ∧ (t.core u).ctl = c.ctl.flagged b) ∧
      (c.getG f.a = 2 → x.stop = some 1 → Runs (.rep u x f) s fun t => UnitOnly u s t ∧ (t.core u).regs.pc = c.regs.pc ∧
        (∀ i, (t.core u).getG i = if i = f.a then 1 else if i = h.d then v else c.getG i) ∧ (t.core u).ctl = c.ctl.flagged b ∧
        (t.core u).run.state = .halted ∧ (t.core u).run.reason = .request))

/-! ## Core instructions: exceptions and pairs -/

/-- The residue check of an arithmetic instruction fails: CHK is set and an arithmetic check failure of the unit is reported, and beside that the
instruction leaves what it leaves with the check passed (R120). NOP and FENCE only go on, all accesses of one core being in program order in this
model (R90, R108, R109); and an instruction or pair whose guard does not hold only goes on, REP apart (R89, R130). A unit that is in RESET, HALTED or
WAITING issues nothing (R125). An instruction whose encoding or operands are illegal raises ILLEGAL whether or not its guard holds, with PAIR and PIP
of CAUSE for a pair; fetch past 0xFFFC raises FETCH_RANGE with EPC 0, and an uncorrectable error in the fetched word FETCH_ECC (R91, R100, R117, R118,
R155 to R157, R165). -/
def Obligations.IssueAndDecode : Prop :=
  (∀ (s : State) (u : UnitId) (x : Issue) (op : CoreOp) (i j : Instr),
  opOf i = some (u, x, op) → opOf j = some (u, { x with residue := true }, op) → s.Issues u x op →
  (match op with
    | .add _ | .sub _ | .mul _ | .mulh _ | .mulhu _ | .fmul _ | .addi _ | .mac _ | .msu _ | .ext _ | .accadd _ => True
    | _ => False) →
  ∃ t r, exec i s = .next t ∧ exec j s = .next r ∧ UnitOnly u s { r with reports := s.reports } ∧
    r.reports = s.reports ++ [⟨0x01, s.unitCode u, 0⟩] ∧ (r.core u).regs = (t.core u).regs ∧ (r.core u).loops = (t.core u).loops ∧
    (r.core u).ctl = (t.core u).ctl.flagged 4 ∧ (r.core u).run = (t.core u).run ∧ (r.core u).ports = (t.core u).ports) ∧
  (∀ (s : State) (u : UnitId) (x : Issue),
  (∀ f : FN, s.Issues u x (.nop f) → Runs (.nop u x f) s fun t => UnitOnly u s t ∧ Core.WroteNone (s.core u) (t.core u)) ∧
  (∀ f : FN, s.Issues u x (.fence f) → Runs (.fence u x f) s fun t => UnitOnly u s t ∧ Core.WroteNone (s.core u) (t.core u)) ∧
  ∀ (i : Instr) (op : CoreOp), opOf i = some (u, x, op) → opIsRep op = false → s.Ready u → opLegal (s.core u).regs.pc op = true →
    (xor ((s.core u).getP x.pred) x.neg) = false → Runs i s fun t => UnitOnly u s t ∧ Core.WroteNone (s.core u) (t.core u)) ∧
  (∀ (s : State) (u : UnitId) (x : Issue) (op : CoreOp) (i : Instr),
  opOf i = some (u, x, op) → (s.core u).run.state ≠ .running → exec i s = .next s) ∧
  (∀ (s : State) (u : UnitId) (x : Issue) (op : CoreOp) (i : Instr),
  let c := s.core u
  opOf i = some (u, x, op) → opIsRep op = false → c.run.state = .running →
  (c.regs.past = true → Runs i s fun t => SameMem s t ∧ Core.Took c (t.core u) .fetchRange 0 none 0) ∧
  (c.regs.past = false → (s.imem[u.val]'u.isLt).anyBad 4 c.regs.pc.toNat 4 = true →
    Runs i s fun t => SameMem s t ∧ Core.Took c (t.core u) .fetchEcc c.regs.pc none 0) ∧
  (s.Ready u → opLegal c.regs.pc op = false → Runs i s fun t => SameMem s t ∧ Core.Took c (t.core u) .illegal c.regs.pc none
    (match op with | .pair q _ => if pipOk q then 3 else 1 | _ => 0)))

/-- A pair of register pips: both read every operand before either writes; each writes its result of Table 5.5, MOV, ADD, SUB and ADDI narrowed under
DEF_SAT; where both write one register the second pip's result remains; the flags of both are ORed into CORE_STATUS (R83, R88, R92, R178). A pair of a
load and a store on one word of core-local SRAM without errors: the load returns what stood there before, and the store writes what its register held
before the pair (R92, R180). -/
def Obligations.PipPairs : Prop :=
  (∀ (s : State) (u : UnitId) (pred : BitVec 3) (p q : Pip),
  let c := s.core u
  let gives := fun (k : Pip) (v b : Word) =>
    let a := c.getG k.d
    let z := c.getG k.s
    match k.op.toNat with
    | 0x1 => v = z ∧ b = 0
    | 0x2 => Narrowed 32 c.defSat (a.toInt + z.toInt) v b
    | 0x3 => Narrowed 32 c.defSat (a.toInt - z.toInt) v b
    | 0x4 => v = a &&& z ∧ b = 0
    | 0x5 => v = a ||| z ∧ b = 0
    | 0x6 => v = a ^^^ z ∧ b = 0
    | 0x7 => Narrowed 32 c.defSat (a.toInt + k.s.toInt) v b
    | 0x8 => Narrowed 32 c.defSat (a.toInt * 2 ^ k.s.toNat) v b
    | 0x9 => v = a >>> k.s.toNat ∧ b = 0
    | 0xA => v = BitVec.ofInt 32 (a.toInt / 2 ^ k.s.toNat) ∧ b = 0
    | 0xB => v = BitVec.ofInt 32 k.s.toInt ∧ b = 0
    | _ => False
  s.Issues u ⟨pred, false, false, none⟩ (.pair p q) → 1 ≤ p.op.toNat → p.op.toNat ≤ 0xB → 1 ≤ q.op.toNat → q.op.toNat ≤ 0xB →
  ∃ v b w e, gives p v b ∧ gives q w e ∧ Runs (.pipPair u pred false p q) s fun t => UnitOnly u s t ∧
    Core.Now c (t.core u) (fun i => if i = q.d then w else if i = p.d then v else c.getG i) c.getAcc c.getP (c.ctl.flagged (b ||| e))) ∧
  (∀ (s : State) (u : UnitId) (pred : BitVec 3) (p q : Pip),
  let c := s.core u
  let a := (c.getG p.d).toNat
  s.Issues u ⟨pred, false, false, none⟩ (.pair p q) → p.op = 0xE → q.op = 0xF → c.getG q.s = c.getG p.d → a % 4 = 0 → a < 0x40000 →
  s.Clean u (.lmem a) 4 →
  Runs (.pipPair u pred false p q) s fun t => StoreOnly u s t ∧ Stored s t (.lmem u) a (natLe 4 (c.getG p.s).toNat) ∧
    Core.WroteG c (t.core u) q.d (BitVec.ofNat 32 (leNat ((List.range 4).map fun i => s.peek (.lmem u) (a + i)))) c.ctl)

/-! ## Ports (spec/03, spec/05, spec/20) -/

/-- An OUT to ECMD or DCMD with room appends the register's word to that queue, and commits the command when the open command, whose first word gives
its length, is complete; bit 0 of ECTL or DCTL drops the words not committed (R185). -/
def Obligations.CommandQueues : Prop := ∀ (s : State) (u : UnitId) (x : Issue) (r : BitVec 5),
  let c := s.core u
  let w := c.getG r
  let takes := fun (q n : EngineQ) (len : Nat → Nat) =>
    n.cmd = q.cmd ++ [w] ∧ n.cpl = q.cpl ∧ n.held = q.held ∧
    ∀ h l, (q.cmd ++ [w]).drop q.committed = h :: l → n.committed = if len h.toNat ≤ l.length + 1 then q.cmd.length + 1 else q.committed
  (∀ e : Fin 4, u.val < 256 → (c.ports.eng[e]).cmd.length < 64 → s.Issues u x (.out ⟨r, BitVec.ofNat 16 (e.val * 256)⟩) →
    Runs (.ecmdPush u x e r) s fun t => UnitOnly u s t ∧ (t.core u).regs.g = c.regs.g ∧ (t.core u).ctl = c.ctl ∧
      takes (c.ports.eng[e]) ((t.core u).ports.eng[e]) (fun n => if n % 32 = 0 ∨ 16 < n % 32 then 1 else n % 32) ∧
      ∀ k : Fin 4, k ≠ e → (t.core u).ports.eng[k] = c.ports.eng[k]) ∧
  (c.ports.dma.cmd.length < 32 → s.Issues u x (.out ⟨r, 0x0400#16⟩) →
    Runs (.dcmdPush u x r) s fun t => UnitOnly u s t ∧ (t.core u).regs.g = c.regs.g ∧ (t.core u).ctl = c.ctl ∧
      takes c.ports.dma (t.core u).ports.dma (fun n => if n % 16 = 0 ∨ 8 < n % 16 then 1 else n % 16) ∧
      (t.core u).ports.eng = c.ports.eng) ∧
  (∀ e : Fin 4, u.val < 256 → s.Issues u x (.out ⟨r, BitVec.ofNat 16 (e.val * 256 + 3)⟩) →
    Runs (.ectlDiscard u x e r) s fun t => UnitOnly u s t ∧
      (t.core u).ports.eng[e] = (if w.getLsbD 0 then { c.ports.eng[e] with cmd := (c.ports.eng[e]).cmd.take (c.ports.eng[e]).committed }
        else c.ports.eng[e]) ∧ ∀ k : Fin 4, k ≠ e → (t.core u).ports.eng[k] = c.ports.eng[k]) ∧
  (s.Issues u x (.out ⟨r, 0x0403#16⟩) →
    Runs (.dctlDiscard u x r) s fun t => UnitOnly u s t ∧ (t.core u).ports.eng = c.ports.eng ∧
      (t.core u).ports.dma = if w.getLsbD 0 then { c.ports.dma with cmd := c.ports.dma.cmd.take c.ports.dma.committed } else c.ports.dma)

/-- An OUT to a transmit port appends the register's word to the receive queue it leads to: PEER_TXn to core n's queue of this core, the core itself
included; SMB_TXn to Steward n's queue of this Steward; CTX_WRITE to MB_RX of the core CTX_SEL names; and MB_TX to the owning Steward's core-message
queue behind the core's number, which takes two words of it, or to the core's own MB_TX while that queue is full or a halt message is latched (R183,
R189, R543, R544). -/
def Obligations.TransmitPorts : Prop := ∀ (s : State) (u : UnitId) (x : Issue) (r : BitVec 5),
  let c := s.core u
  let w := c.getG r
  (∀ n : Fin 8, u.val < 256 → (s.peerQ (peerUnit u n) (u.val % 8)).length < 4 →
    s.Issues u x (.out ⟨r, BitVec.ofNat 16 (0x510 + n.val)⟩) → Runs (.peerTx u x n r) s fun t =>
      t.peerQ (peerUnit u n) (u.val % 8) = s.peerQ (peerUnit u n) (u.val % 8) ++ [w] ∧ (∀ i, (t.core u).getG i = c.getG i) ∧
      ∀ v, v ≠ u → v ≠ peerUnit u n → t.core v = s.core v) ∧
  (u.val < 256 → c.run.haltMsg = none → c.ports.mbTx = [] → (s.core c.ownerUnit).ports.cmsg.length + 2 ≤ 256 →
    s.Issues u x (.out ⟨r, 0x0500#16⟩) → Runs (.mbTx u x r) s fun t =>
      (t.core c.ownerUnit).ports.cmsg = (s.core c.ownerUnit).ports.cmsg ++ [BitVec.ofNat 32 u.val, w] ∧ (t.core u).ports.mbTx = [] ∧
      (∀ i, (t.core u).getG i = c.getG i) ∧ ∀ v, v ≠ u → v ≠ c.ownerUnit → t.core v = s.core v) ∧
  (u.val < 256 → (c.run.haltMsg.isSome = true ∨ 256 < (s.core c.ownerUnit).ports.cmsg.length + 2) → c.ports.mbTx.length < 8 →
    s.Issues u x (.out ⟨r, 0x0500#16⟩) → Runs (.mbTx u x r) s fun t =>
      (t.core u).ports.mbTx = c.ports.mbTx ++ [w] ∧ ∀ v, v ≠ u → t.core v = s.core v) ∧
  ∀ st n : Fin 8, u = stewardUnit st →
    ((s.smbQ n st).length < 16 → s.Issues u x (.out ⟨r, BitVec.ofNat 16 (0x500 + n.val)⟩) → Runs (.smbTx st x n r) s fun t =>
      t.smbQ n st = s.smbQ n st ++ [w] ∧ ∀ v, v ≠ u → v ≠ stewardUnit n → t.core v = s.core v) ∧
    (∀ d : UnitId, d.val = c.ports.ctxSel.toNat → (s.core d).ports.mbRx.length < 8 → s.Issues u x (.out ⟨r, 0x0533#16⟩) →
      Runs (.ctxWrite st x r) s fun t => (t.core d).ports.mbRx = (s.core d).ports.mbRx ++ [w] ∧ ∀ v, v ≠ u → v ≠ d → t.core v = s.core v)

/-- An IN from a receive port with a word waiting returns the oldest word and removes it; a completion word held for room enters the queue that an
ECPL or DCPL pop frees (R183, R543; the held completion: log entry 20). -/
def Obligations.ReceivePorts : Prop := ∀ (s : State) (u : UnitId) (x : Issue) (r : BitVec 5) (w : Word) (ws : List Word),
  let c := s.core u
  let reads := fun (t : State) => ∀ i, (t.core u).getG i = if i = r then w else c.getG i
  (∀ e : Fin 4, u.val < 256 → (c.ports.eng[e]).cpl = w :: ws → s.Issues u x (.inn ⟨r, BitVec.ofNat 16 (e.val * 256 + 1)⟩) →
    Runs (.ecplPop u x e r) s fun t => UnitOnly u s t ∧ reads t ∧
      (t.core u).ports.eng[e] = { c.ports.eng[e] with cpl := ws ++ (c.ports.eng[e]).held.toList, held := none }) ∧
  (c.ports.dma.cpl = w :: ws → s.Issues u x (.inn ⟨r, 0x0401#16⟩) →
    Runs (.dcplPop u x r) s fun t => UnitOnly u s t ∧ reads t ∧
      (t.core u).ports.dma = { c.ports.dma with cpl := ws ++ c.ports.dma.held.toList, held := none }) ∧
  (u.val < 256 → c.ports.mbRx = w :: ws → s.Issues u x (.inn ⟨r, 0x0501#16⟩) →
    Runs (.mbRx u x r) s fun t => UnitOnly u s t ∧ reads t ∧ (t.core u).ports.mbRx = ws) ∧
  (∀ n : Fin 8, u.val < 256 → c.ports.peerRx[n] = w :: ws → s.Issues u x (.inn ⟨r, BitVec.ofNat 16 (0x520 + n.val)⟩) →
    Runs (.peerRx u x n r) s fun t => UnitOnly u s t ∧ reads t ∧ (t.core u).ports.peerRx = c.ports.peerRx.set n.val ws) ∧
  ∀ st : Fin 8, u = stewardUnit st →
    (∀ n : Fin 8, c.ports.smbRx[n] = w :: ws → s.Issues u x (.inn ⟨r, BitVec.ofNat 16 (0x510 + n.val)⟩) →
      Runs (.smbRx st x n r) s fun t => UnitOnly u s t ∧ reads t ∧ (t.core u).ports.smbRx = c.ports.smbRx.set n.val ws) ∧
    (c.ports.cmsg = w :: ws → s.Issues u x (.inn ⟨r, 0x0530#16⟩) →
      Runs (.cmsgPop st x r) s fun t => reads t ∧ ∃ l, (t.core u).ports.cmsg = ws ++ l)

/-- The counter ports and the beat ports: CNTn takes the register's word and then counts what the instruction itself counts; a selection takes its
assigned bits; ones clear bits of CNT_OVF; CYC_LO returns the low word of the cycle counter and latches the high one; BT_NOW_LO returns the low word
of the die's fabric time and latches the high one, die 1's copy within 1 ns of die 0's and never going back; BT_ARM arms a slot and BT_WAIT returns
the start that met it (R187, R188, R231, R579 to R581, R665). -/
def Obligations.CounterPorts : Prop := ∀ (s : State) (u : UnitId) (x : Issue) (r : BitVec 5),
  let c := s.core u
  let w := c.getG r
  (∀ n : Fin 8, (c.cnt.sel[n]).toNat % 256 = 0 → s.Issues u x (.out ⟨r, BitVec.ofNat 16 (0x600 + n.val)⟩) →
    (n.val % 2 = 1 → c.cnt.sel[n].getLsbD 8 = false) →
    Runs (.cntWrite u x n r) s fun t => UnitOnly u s t ∧ (t.core u).cnt.cnt[n] = w) ∧
  (∀ n : Fin 8, s.Issues u x (.out ⟨r, BitVec.ofNat 16 (0x610 + n.val)⟩) →
    Runs (.cntSelWrite u x n r) s fun t => UnitOnly u s t ∧
      (t.core u).cnt.sel = c.cnt.sel.set n.val (w &&& (if n.val % 2 = 1 then 0x3FF#32 else 0x2FF#32))) ∧
  (c.cnt.sel = Vector.replicate 8 0 → s.Issues u x (.out ⟨r, 0x0620#16⟩) →
    Runs (.cntOvfClear u x r) s fun t => UnitOnly u s t ∧ (t.core u).cnt.ovf = c.cnt.ovf &&& ~~~(w.truncate 8)) ∧
  (s.Issues u x (.inn ⟨r, 0x0621#16⟩) →
    Runs (.cycLoRead u x r) s fun t => UnitOnly u s t ∧ (t.core u).getG r = c.cnt.cyc.truncate 32 ∧
      (t.core u).cnt.cycHi = (c.cnt.cyc >>> 32).truncate 32) ∧
  (∀ now : Nat, s.time.now ≤ now → s.Issues u x (.inn ⟨r, 0x0700#16⟩) →
    Runs (.btNowLoRead u x r now) s fun t => t.time.now = now ∧ ∃ v, (t.core u).getG r = BitVec.ofNat 32 v ∧
      (t.core u).cnt.btHi = BitVec.ofNat 32 (v / 2 ^ 32) ∧ (dieOf u = 0 → v = now) ∧
      (dieOf u = 1 → s.time.now1 ≤ v ∧ (v = s.time.now1 ∨ now ≤ v + 1 ∧ v ≤ now + 1) ∧ t.time.now1 = v)) ∧
  (s.Issues u x (.out ⟨r, 0x0704#16⟩) →
    Runs (.btArm u x r) s fun t => UnitOnly u s t ∧ (t.core u).cnt.arm = some (w.truncate 16) ∧ (t.core u).cnt.armAt = none) ∧
  ∀ (im : Image) (at_ : Word) (a : BitVec 16), s.beat.running = some im → c.cnt.arm = some a → a.toNat < im.slots → c.cnt.armAt = some at_ →
    s.Issues u x (.inn ⟨r, 0x0705#16⟩) →
    Runs (.btWait u x r) s fun t => UnitOnly u s t ∧ (t.core u).getG r = at_ ∧ (t.core u).cnt.arm = none

/-- An access to a blocking port that is not ready puts its unit in WAITING, standing on that instruction; the port's readiness lets the access act
and the unit run on; at the IO watchdog's limit it raises IO_TIMEOUT with the port in BADADDR and the access has no effect; and an access to a port
that is not catalogued raises IO_PORT (R113, R115, R127). Stated of MB_RX, and of the engine ports on a Steward and a hole among the ports of a
compute core. -/
def Obligations.BlockingPorts : Prop := ∀ (s : State) (u : UnitId) (x : Issue) (r : BitVec 5),
  let c := s.core u
  (u.val < 256 → c.ports.mbRx = [] → s.Issues u x (.inn ⟨r, 0x0501#16⟩) →
    Runs (.mbRx u x r) s fun t => UnitOnly u s t ∧ (t.core u).run.state = .waiting ∧ (t.core u).run.waitOp = some (.inn ⟨r, 0x0501#16⟩) ∧
      (t.core u).regs = c.regs ∧ (t.core u).ctl = c.ctl) ∧
  (∀ (w : Word) (ws : List Word) (cycles : Nat), u.val < 256 → c.run.state = .waiting → c.run.waitOp = some (.inn ⟨r, 0x0501#16⟩) →
    c.run.waitRep = none → c.run.stepping = false → c.loops.active = [] → c.ports.mbRx = w :: ws → cycles < 2 ^ (c.iowdExp + 10) →
    Runs (.ioPortReady u cycles) s fun t => UnitOnly u s t ∧ (t.core u).run.state = .running ∧ (t.core u).ports.mbRx = ws ∧
      (∀ i, (t.core u).getG i = if i = r then w else c.getG i) ∧ (t.core u).regs.pc = (c.regs.pc + 4) &&& 0xFFFC#16) ∧
  (∀ (i : Instr) (cycles : Nat), u.val < 256 → c.run.state = .waiting → c.run.waitOp = some (.inn ⟨r, 0x0501#16⟩) → c.run.waitRep = none →
    i = .ioTimeout u ∧ c.ports.mbRx = [] ∨ i = .ioPortReady u cycles ∧ 2 ^ (c.iowdExp + 10) ≤ cycles →
    Runs i s fun t => SameMem s t ∧ Core.Took c (t.core u) .ioTimeout c.regs.pc (some 0x501#32) 0) ∧
  ∀ (o : Bool) (f : FIO), s.Issues u x (if o then .out f else .inn f) →
    (256 ≤ u.val ∧ f.port.toNat < 0x400 ∨ u.val < 256 ∧ 0x508 ≤ f.port.toNat ∧ f.port.toNat < 0x510 ∨ 0x706 ≤ f.port.toNat) →
    Runs (.uncataloguedPortAccess u x o f) s fun t => SameMem s t ∧
      Core.Took c (t.core u) .ioPort c.regs.pc (some (f.port.zeroExtend 32)) 0

/-! ## The control block of a unit (spec/03, spec/20, spec/27) -/

/-- START of a unit in RESET or HALTED: the architectural state is cleared, g1 to g4 take the start arguments, PC takes CORE_ENTRY and the unit runs;
RESET clears the same in any state and leaves PC 0; in RUNNING and WAITING START sets CMD_ERR and does nothing else. I-space and the data memories
stand, and a core's queues to and from the cores of its Bunch are empty (R123, R124, R125, R186, Tables 3.12 to 3.14). RESUME lets a halted unit run
on at PC and is refused with CMD_ERR otherwise; HALT_REQ halts a running or waiting unit with the reason REQUEST and leaves any other unit. An access
that waits on a port that is not ready is abandoned with PC on it; one whose port is ready completes and the unit halts on the next instruction,
stated of MB_RX (R125, R127, Table 3.14). STEP of a halted unit executes the one instruction at PC and halts again with the reason STEP; of any other
unit it is refused with CMD_ERR. Stated of a word that moves an immediate (R125, R662). -/
def Obligations.CoreControl : Prop :=
  (∀ (s : State) (u : UnitId),
  let c := s.core u
  let cleared := fun (d : Core) => d.regs.acc = Vector.replicate 8 0 ∧ d.regs.p = Vector.replicate 8 false ∧ d.loops = Loops.zero ∧
    d.ctl = { Ctl.reset u with id := c.ctl.id, fenceLo := c.ctl.fenceLo, fenceHi := c.ctl.fenceHi } ∧ d.cnt = Counters.zero ∧
    d.ports.eng = Vector.replicate 4 EngineQ.empty ∧ d.ports.dma = EngineQ.empty ∧ d.ports.mbTx = [] ∧ d.ports.mbRx = [] ∧
    d.ports.peerRx = Vector.replicate 8 []
  (c.run.state = .reset ∨ c.run.state = .halted → Runs (.coreStart u) s fun t => SameMem s t ∧ cleared (t.core u) ∧
    (t.core u).run.state = .running ∧ (t.core u).run.reason = .none ∧ (t.core u).regs.pc = c.run.entry &&& 0xFFFC#16 ∧
    ∀ i, (t.core u).getG i = if h : 1 ≤ i.toNat ∧ i.toNat ≤ 4 then c.run.args[i.toNat - 1] else 0) ∧
  (c.run.state = .running ∨ c.run.state = .waiting → Runs (.coreStart u) s fun t => UnitOnly u s t ∧
    t.core u = { c with run.cmdErr := true }) ∧
  Runs (.coreReset u) s fun t => SameMem s t ∧ cleared (t.core u) ∧ (t.core u).run.state = .reset ∧ (t.core u).regs.pc = 0 ∧
    ∀ i, (t.core u).getG i = 0) ∧
  (∀ (s : State) (u : UnitId),
  let c := s.core u
  (c.run.state = .halted → Runs (.coreResume u) s fun t => UnitOnly u s t ∧ (t.core u).run.state = .running ∧
    (t.core u).regs = c.regs ∧ (t.core u).ctl = c.ctl ∧ (t.core u).loops = c.loops ∧ (t.core u).ports = c.ports) ∧
  (c.run.state ≠ .halted → Runs (.coreResume u) s fun t => UnitOnly u s t ∧ t.core u = { c with run.cmdErr := true }) ∧
  (∀ r : BitVec 5, c.run.state = .running ∨
      c.run.state = .waiting ∧ c.run.waitOp = some (.inn ⟨r, 0x0501#16⟩) ∧ u.val < 256 ∧ c.ports.mbRx = [] →
    Runs (.coreHaltReq u) s fun t => UnitOnly u s t ∧
    (t.core u).run.state = .halted ∧ (t.core u).run.reason = .request ∧ (c.run.state = .waiting → (t.core u).run.waitOp = none) ∧
    (t.core u).regs = c.regs ∧ (t.core u).ctl = c.ctl ∧ (t.core u).loops = c.loops ∧ (t.core u).ports = c.ports) ∧
  (∀ (r : BitVec 5) (w : Word) (ws : List Word), u.val < 256 → c.run.state = .waiting → c.run.waitOp = some (.inn ⟨r, 0x0501#16⟩) →
    c.run.waitRep = none → c.loops.active = [] → c.ports.mbRx = w :: ws →
    Runs (.coreHaltReq u) s fun t => UnitOnly u s t ∧ (t.core u).run.state = .halted ∧ (t.core u).run.reason = .request ∧
      (t.core u).ports.mbRx = ws ∧ (∀ i, (t.core u).getG i = if i = r then w else c.getG i) ∧
      (t.core u).regs.pc = (c.regs.pc + 4) &&& 0xFFFC#16 ∧ (t.core u).ctl = c.ctl) ∧
  (c.run.state = .reset ∨ c.run.state = .halted → Runs (.coreHaltReq u) s fun t => t = s)) ∧
  (∀ (s : State) (u : UnitId) (f : FI16),
  let c := s.core u
  (c.run.state = .halted → c.regs.past = false → (s.imem[u.val]'u.isLt).bad = [] → (s.imem[u.val]'u.isLt).soft = [] →
    c.loops.active = [] → decodeWord (s.imemWord u c.regs.pc) = ⟨0, false, .movi f⟩ →
    Runs (.coreStep u false) s fun t => UnitOnly u s t ∧ (t.core u).run.state = .halted ∧ (t.core u).run.reason = .step ∧
      (t.core u).regs.pc = (c.regs.pc + 4) &&& 0xFFFC#16 ∧
      ∀ i, (t.core u).getG i = if i = f.d then BitVec.ofInt 32 f.imm.toInt else c.getG i) ∧
  (c.run.state ≠ .halted → Runs (.coreStep u false) s fun t => UnitOnly u s t ∧ t.core u = { c with run.cmdErr := true }))

/-- A write of the register window of a unit in RESET or HALTED writes the register it names; while the unit runs or waits it is discarded with
CMD_ERR (R122, R657). A latched halt message enters its owner's queue once that has room for both words, and the latch is free (R544). -/
def Obligations.WindowAndLatch : Prop := ∀ (s : State) (u : UnitId) (v : Word),
  let c := s.core u
  (c.run.state = .reset ∨ c.run.state = .halted →
    (∀ i : BitVec 5, Runs (.registerWindowWrite u (BitVec.ofNat 12 (0x400 + 4 * i.toNat)) v) s fun t => UnitOnly u s t ∧
      (∀ j, (t.core u).getG j = if j = i then v else c.getG j) ∧ (t.core u).ctl = c.ctl ∧ (t.core u).run = c.run) ∧
    ∀ i : BitVec 3, Runs (.registerWindowWrite u (BitVec.ofNat 12 (0x4C0 + 4 * i.toNat)) v) s fun t => UnitOnly u s t ∧
      ∀ j, (t.core u).getP j = if j = 0 then true else if j = i then v.getLsbD 0 else c.getP j) ∧
  (c.run.state = .running ∨ c.run.state = .waiting → ∀ o : BitVec 12, 0x400 ≤ o.toNat → o.toNat < 0x4E0 → o.toNat % 4 = 0 →
    Runs (.registerWindowWrite u o v) s fun t => UnitOnly u s t ∧ t.core u = { c with run.cmdErr := true }) ∧
  ∀ h w : Word, u.val < 256 → c.run.haltMsg = some (h, w) → c.ports.mbTx = [] →
    ((s.core c.ownerUnit).ports.cmsg.length + 2 ≤ 256 → Runs (.haltMessageLatchRelease u) s fun t =>
      (t.core c.ownerUnit).ports.cmsg = (s.core c.ownerUnit).ports.cmsg ++ [h, w] ∧ (t.core u).run.haltMsg = none ∧
      ∀ k, k ≠ u → k ≠ c.ownerUnit → t.core k = s.core k) ∧
    (256 < (s.core c.ownerUnit).ports.cmsg.length + 2 → Runs (.haltMessageLatchRelease u) s fun t => t = s)

/-! ## Reset, the invariant, and instruction words -/

/-- What reset leaves, in the values the spec gives: every unit in RESET with CORE_MODE, CORE_STATUS, CAUSE and the fences at their reset values, no
active loop and empty queues; no Beat Table running or staged, the time function unlocked without an upstream; the reset values of the configuration
registers of power, telemetry, health, twin and transport; no command in the queue (R106, R123, R135, R240, R646). The invariant holds at reset. -/
def Obligations.ResetState : Prop :=
  ((∀ u : UnitId, let c := State.reset.core u
    c.run.state = .reset ∧ c.run.reason = .none ∧ c.run.cmdErr = false ∧ c.loops.active = [] ∧ c.ctl.mode = 0x60000#32 ∧ c.ctl.status = 0 ∧
    c.ctl.cause = 0 ∧ c.ctl.evec = 0 ∧ c.ctl.fenceLo = 0 ∧ c.ctl.fenceHi = 0 ∧ c.ports = Ports.empty ∧ (∀ i, c.getP i = decide (i = 0))) ∧
  State.reset.pending = [] ∧ State.reset.beat.running = none ∧ State.reset.beat.staged = none ∧ State.reset.fld R.ftUpstream = 63 ∧
  State.reset.fld R.ftState = 0 ∧ State.reset.fld R.pwrCfg = 520 ∧ State.reset.fld R.telemMask = 0x1FF ∧ State.reset.fld R.telemPeriod = 1000 ∧
  State.reset.fld R.drainLimit = 256 ∧ State.reset.fld R.marginEn = 1 ∧ State.reset.fld R.twinHbUs = 20 ∧ State.reset.fld R.twinBkUs = 10 ∧
  State.reset.fld R.lftRetry = 7 ∧ State.reset.fld R.rindLock = 0 ∧ State.reset.fld R.hbmWorkMib = 36864 ∧ State.reset.keys.slots = []) ∧
  (State.reset.Inv)

/-- Every step of a compute core keeps the invariant: the command at the front of the queue is an instruction of a compute core, or a command of its
control block, and from any state that meets the invariant the step leaves one that does: PC and EVEC stay word-aligned, at most four loops are
active, DEF_RM holds a code of Table 2.4, reserved bits of CORE_MODE and CORE_STATUS stay clear, and every byte memory keeps its canonical form (R84,
R97, R98, R131, R137). -/
def Obligations.CoreStepsKeepInvariant : Prop := ∀ (s t : State) (i : Instr) (rest : List Instr) (u : UnitId),
  s.Inv → s.pending = i :: rest → u.val < 256 →
  ((∃ x op, opOf i = some (u, x, op)) ∨ i = .coreStart u ∨ i = .coreResume u ∨ i = .coreHaltReq u ∨ i = .coreReset u ∨
    (∃ b, i = .coreStep u b) ∨ (∃ n, i = .ioPortReady u n) ∨ i = .ioTimeout u ∨ i = .haltMessageLatchRelease u ∨
    ∃ o v, i = .registerWindowWrite u o v) →
  step s = .next t → t.Inv

/-- An operation read from the word that encodes it, with any field at any value, reserved ones included, is that operation: no bit of an encoding is
dropped (R88, R164, Tables 3.2, 5.1, 5.2 and 5.5). Every word is the encoding of the one operation read from it, which is well formed; so no two
operations share a word. The payload of a beacon, that of a switch notice and a collective cell give back the fields they were made of, each at every
value of its width; and each frame carries its EtherType, or its UDP port with hop limit 64 and flow label 0, before them (R7, R235, R260, R283, R307,
Tables 7.2, 7.10 and 8.10). -/
def Obligations.WordsRoundTrip : Prop :=
  (∀ w : CoreWord, CoreWord.wf w = true → decodeWord (encodeWord w) = w) ∧
  (∀ x : Word, CoreWord.wf (decodeWord x) = true ∧ encodeWord (decodeWord x) = x) ∧
  ((∀ (b : Beacon) (port : Nat), b.verMajor < 2 ^ 8 → b.verMinor < 2 ^ 8 → b.type < 2 ^ 8 → b.flags < 2 ^ 8 → b.orchardId < 2 ^ 16 → b.rank < 2 ^ 16 →
    b.seq < 2 ^ 32 → b.tTx < 2 ^ 64 → b.tTxFrac < 2 ^ 16 → b.echoSeq < 2 ^ 32 → b.tRxEcho < 2 ^ 64 → b.tRxEchoFrac < 2 ^ 16 → b.hops < 2 ^ 8 →
    b.imageId < 2 ^ 64 → (beaconBytes b).length = 50 ∧ beaconOf (beaconBytes b) = b ∧ ∃ l, Frame.wire port (.beacon b) = some l ∧ l.length = 64 ∧
      l.take 6 = [0x01, 0x80, 0xC2, 0x00, 0x00, 0x0E] ∧ slice l 12 2 = [0x88, 0xB5] ∧ l.drop 14 = beaconBytes b) ∧
  (∀ (n : Notice) (port : Nat), n.verMajor < 2 ^ 8 → n.verMinor < 2 ^ 8 → n.type < 2 ^ 8 → n.orchardId < 2 ^ 16 → n.originRank < 2 ^ 16 →
    n.noticeSeq < 2 ^ 32 → n.imageId < 2 ^ 64 → n.variant < 2 ^ 8 → n.reason < 2 ^ 8 → n.hopCount < 2 ^ 8 → n.switchSeason < 2 ^ 32 →
    (noticeBytes n).length = 28 ∧ noticeOf (noticeBytes n) = n ∧ ∃ l, Frame.wire port (.notice n) = some l ∧
      l.take 6 = [0x01, 0x80, 0xC2, 0x00, 0x00, 0x0E] ∧ slice l 12 2 = [0x88, 0xB5] ∧ slice l 14 28 = noticeBytes n) ∧
  (∀ (c : Cell) (port pcp : Nat), c.verMajor < 2 ^ 8 → c.verMinor < 2 ^ 8 → c.kind < 2 ^ 8 → c.flags < 2 ^ 8 → c.group < 2 ^ 16 → c.leg < 2 ^ 16 →
    c.step < 2 ^ 32 → c.gen < 2 ^ 16 → c.orchardId < 2 ^ 8 → c.attempt < 2 ^ 8 → c.srcRank < 2 ^ 16 → c.fragSeq < 2 ^ 16 → c.round < 2 ^ 16 →
    c.fmt < 2 ^ 8 → c.firstBlock < 2 ^ 32 → c.nblocks < 2 ^ 16 → c.payloadLen < 2 ^ 16 → c.payload.length = c.payloadLen → pcp < 8 →
    (cellHeader c).length = 32 ∧ cellOfBytes (cellBytes c) = c ∧
    (∃ l, Frame.wire port (.cell none false c) = some l ∧ slice l 12 2 = [0x88, 0xB6] ∧ cellOfBytes (l.drop 14) = c) ∧
    (∃ l, Frame.wire port (.cell (some pcp) false c) = some l ∧ slice l 12 2 = [0x81, 0x00] ∧ beNat (slice l 14 2) = pcp * 8192 ∧
      slice l 16 2 = [0x88, 0xB6] ∧ cellOfBytes (l.drop 18) = c) ∧
    ∃ l, Frame.wire port (.cell none true c) = some l ∧ slice l 12 2 = [0x86, 0xDD] ∧ beNat (slice l 56 2) = 19533 ∧ cellOfBytes (l.drop 62) = c) ∧
  ∀ (p : LftPkt) (port : Nat), p.tclass < 2 ^ 8 → p.src < 2 ^ 128 → p.dst < 2 ^ 128 → p.sport < 2 ^ 16 →
    (lftHeader p).length = 48 ∧ ∃ l, Frame.wire port (.lft p) = some l ∧ slice l 12 2 = [0x86, 0xDD] ∧
      beNat (slice l 14 4) = 6 * 2 ^ 28 + p.tclass * 2 ^ 20 ∧ slice l 20 2 = [17, 64] ∧ beNat (slice l 22 16) = p.src ∧ beNat (slice l 38 16) = p.dst ∧
      beNat (slice l 54 2) = p.sport ∧ beNat (slice l 56 2) = 19532 ∧ slice l 62 (48 + p.payload.length + p.tag.length) = lftHeader p ++ p.payload ++ p.tag)

/-- Words that the spec writes out or that its tables spell: the canonical no-operation, the examples of the instruction reference, and one word of
each format of Table 5.1 (R88, R90, R164, Tables 3.2, 5.1, 5.2 and 5.5). And the signal of balls of the package, by its rules and examples (R620, R623
to R625, Tables 25.2 to 25.6). -/
def Obligations.WordsSpelled : Prop :=
  decodeWord 0x08000000#32 = ⟨0, true, .nop ⟨0⟩⟩ ∧ decodeWord 0x034D1120#32 = ⟨0, false, .cmp ⟨3, 2, 4, 9, 0⟩⟩ ∧
  decodeWord (0#1 ++ 5#3 ++ 1#1 ++ 0x01#6 ++ 7#5 ++ 8#5 ++ 9#5 ++ 0#3 ++ 1#1 ++ 0#2) = ⟨5, true, .add ⟨7, 8, 9, 0, true, 0⟩⟩ ∧
  decodeWord (0#1 ++ 0#3 ++ 0#1 ++ 0x22#6 ++ 2#5 ++ 3#5 ++ 2#2 ++ 0#1 ++ 1#2 ++ 63#6) = ⟨0, false, .ld ⟨2, 3, 2, false, 1, 63⟩⟩ ∧
  decodeWord (0#1 ++ 0#3 ++ 0#1 ++ 0x1C#6 ++ 6#3 ++ 1#5 ++ 2#5 ++ 4#3 ++ 1#1 ++ 0#4) = ⟨0, false, .mac ⟨6, 1, 2, 4, true, 0⟩⟩ ∧
  decodeWord (0#1 ++ 0#3 ++ 0#1 ++ 0x33#6 ++ 5#5 ++ 0#2 ++ 9#14) = ⟨0, false, .loop ⟨5, 0, 9⟩⟩ ∧
  decodeWord (0#1 ++ 0#3 ++ 0#1 ++ 0x28#6 ++ 5#5 ++ 0x0500#16) = ⟨0, false, .out ⟨5, 0x0500#16⟩⟩ ∧
  decodeWord (0#1 ++ 0#3 ++ 0#1 ++ 0x37#6 ++ 1#21) = ⟨0, false, .reserved 0x37 1⟩ ∧
  decodeWord (1#1 ++ 2#3 ++ (0x2#4 ++ 1#5 ++ 2#5 : BitVec 14) ++ (0xF#4 ++ 3#5 ++ 4#5 : BitVec 14)) =
    ⟨2, false, .pair ⟨0x2, 1, 2⟩ ⟨0xF, 3, 4⟩⟩ ∧
  (∀ s : Fin 96, ballSignal (10 + s.val % 8 / 2) (14 + 4 * (s.val / 8) + (2 * (s.val % 2) + s.val % 8 / 2 % 2)) = .low s.val) ∧
  ballSignal 50 3 = .serdes .net 5 true true ∧ ballSignal 50 4 = .serdes .net 5 true false ∧ ballSignal 52 3 = .serdes .net 5 false true ∧
  ballSignal 52 4 = .serdes .net 5 false false ∧ ballSignal 26 67 = .serdes .acc 51 true true ∧ ballSignal 28 68 = .serdes .acc 51 false false ∧
  ballSignal 40 40 = .power (.vinBunch 1) ∧
  ∀ n : Fin 75, ballSignal 1 n.val = .gnd ∧ ballSignal 74 n.val = .gnd ∧ ballSignal n.val 1 = .gnd ∧ ballSignal n.val 74 = .gnd

/-! ## Engines (spec/06, spec/02) -/

/-- SMAX over any number of elements, its operands in the windows, aligned, without errors and apart from its destination: it completes with STATUS
OK, and element i of the destination is the larger of the two scout values, one that is no exponent, identity or non-finite code taken as 0x7FFF (R47,
R48, R191, R202, Tables 6.1 to 6.4). ESADD_V of one element: the destination takes the wrapped exact sum at the descriptor's width; an overflow sets
OVF and CHK of the completion word, the descriptor's OVF, and OVF_SEEN of the die, and is reported (R56, R71, R72, R196, R201). -/
def Obligations.EngineResults : Prop :=
  (∀ (s : State) (u : UnitId) (e : Fin 4) (ws rest : List Word) (a b d n : Nat),
  let q := (s.core u).ports.eng[e]
  let sane := fun (x : Nat) => let v : Int := if x < 32768 then x else (x : Int) - 65536
    if v = -32768 ∨ v = 32767 ∨ -149 ≤ v ∧ v ≤ 127 then v else 32767
  let inside := fun (x : Nat) => x % 8 = 0 ∧ (x + 2 * n ≤ 0x40000 ∨ 0x1000000 ≤ x ∧ x + 2 * n ≤ 0x1400000)
  u.val < 256 → q.Front 5 ws rest → q.cpl.length < 32 →
  ws.map BitVec.toNat = [5 + 6 * 256 + (ws.headD 0).toNat / 65536 % 256 * 65536, a, b, d, n] → 0 < n →
  inside a → inside b → inside d → (a + 2 * n ≤ d ∨ d + 2 * n ≤ a) → (b + 2 * n ≤ d ∨ d + 2 * n ≤ b) →
  (s.lmem[u.val]'u.isLt).bad = [] → (s.bmem[(bunchOf u).val]'(bunchOf u).isLt).bad = [] →
  Runs (.smax u e false) s fun t =>
    (∀ i, i < n → (t.winNat u (d + 2 * i) 2 : Int) = max (sane (s.winNat u (a + 2 * i) 2)) (sane (s.winNat u (b + 2 * i) 2)) % 65536) ∧
    (t.core u).ports.eng[e].cpl = q.cpl ++ [BitVec.ofNat 32 ((ws.headD 0).toNat / 65536 % 256)]) ∧
  (∀ (s : State) (u : UnitId) (e : Fin 4) (ws rest : List Word) (da a b d w : Nat),
  let q := (s.core u).ports.eng[e]
  let val := fun (x : Nat) => (BitVec.ofNat (8 * w) x).toInt
  let sum := val (s.winNat u a w) + val (s.winNat u b w)
  let ovf := ¬(-(2 ^ (8 * w - 1)) ≤ sum ∧ sum < 2 ^ (8 * w - 1))
  let inside := fun (x k : Nat) => x % 8 = 0 ∧ (x + k ≤ 0x40000 ∨ 0x1000000 ≤ x ∧ x + k ≤ 0x1400000)
  u.val < 256 → q.Front 6 ws rest → q.cpl.length < 32 →
  ws.map BitVec.toNat = [6 + 4 * 256 + (ws.headD 0).toNat / 65536 % 256 * 65536, da, a, b, d, 1] →
  inside da 24 → inside a w → inside b w → inside d w → (s.segAt u da).reject = none → w = esBytes (s.segAt u da).fmt →
  (da + 24 ≤ d ∨ d + w ≤ da) → (s.lmem[u.val]'u.isLt).bad = [] → (s.bmem[(bunchOf u).val]'(bunchOf u).isLt).bad = [] →
  Runs (.esaddV u e false) s fun t => (t.winNat u d w : Int) = sum % 2 ^ (8 * w) ∧
    ∃ x : Word, (t.core u).ports.eng[e].cpl = q.cpl ++ [x] ∧ x.toNat / 256 % 16 = 0 ∧
      (ovf → x.getLsbD 15 = true ∧ x.getLsbD 12 = true ∧ (t.winNat u (da + 6) 1) / 4 % 2 = 1 ∧ t.fld (R.esuOvf (dieOf u)) = 1 ∧
        ⟨0x01, s.engineCode u e.val, 0⟩ ∈ t.reports) ∧
      (¬ovf → x.toNat = (ws.headD 0).toNat / 65536 % 256))

/-- Each engine operation takes the front command of its queue, posts one completion word with the command's TAG, leaves the core's registers and its
other queues, and writes nothing but its destination operand and the flag byte of its descriptor (R71, R185, R190, R197 to R199, R201, Tables 6.1 to
6.3). Commands that an engine refuses write no memory and complete with the status of the first check they fail: BAD_OP for an operation that is none,
BAD_LEN for a length that is not its operation's, BAD_FIELD for a reserved field that is not zero (R202, Tables 6.1 and 6.4). -/
def Obligations.EngineCommands : Prop :=
  (∀ (s : State) (u : UnitId) (e : Fin 4) (residue : Bool) (ws rest : List Word),
  let c := s.core u
  let q := c.ports.eng[e]
  let w0 := (ws.headD 0).toNat
  let done := fun (i : Instr) (op len : Nat) => q.Front len ws rest → w0 % 32 = len → w0 / 256 % 256 = op → u.val < 256 →
    Runs i s fun t => ∃ w : Word, EngineQ.Done q (t.core u).ports.eng[e] len 32 rest w ∧ w.toNat % 256 = w0 / 65536 % 256 ∧
      (t.core u).regs = c.regs ∧ (∀ k : Fin 4, k ≠ e → (t.core u).ports.eng[k] = c.ports.eng[k]) ∧ (t.core u).ports.dma = c.ports.dma ∧
      (∀ v, v ≠ u → t.core v = s.core v) ∧ KeptOutside s t u (s.engineDst u op ws)
  done (.convFwd u e residue) 1 10 ∧ done (.convRev u e residue) 2 10 ∧ done (.convEs u e residue) 3 9 ∧
  done (.esaddV u e residue) 4 6 ∧ done (.scout u e residue) 5 6 ∧ done (.smax u e residue) 6 5 ∧ done (.macV u e residue) 7 13) ∧
  (∀ (s : State) (u : UnitId) (e : Fin 4) (residue : Bool) (ws rest : List Word),
  let q := (s.core u).ports.eng[e]
  let w0 := (ws.headD 0).toNat
  let ends := fun (i : Instr) (len st : Nat) => Runs i s fun t => SameMem s t ∧
    EngineQ.Done q (t.core u).ports.eng[e] len 32 rest (BitVec.ofNat 32 (w0 / 65536 % 256 + st * 256))
  u.val < 256 →
  (∀ i, i ∈ [Instr.convFwd u e residue, .convRev u e residue, .convEs u e residue, .esaddV u e residue, .scout u e residue, .smax u e residue,
      .macV u e residue] →
    (q.Front 1 ws rest → (w0 % 32 = 0 ∨ 16 < w0 % 32) → ends i 1 2) ∧
    ∀ len, q.Front len ws rest → w0 % 32 = len → 1 ≤ len → len ≤ 16 → (w0 / 256 % 256 = 0 ∨ 7 < w0 / 256 % 256) → ends i len 1) ∧
  (∀ len, q.Front len ws rest → w0 % 32 = len → 1 ≤ len → len ≤ 16 → w0 / 256 % 256 = 6 →
    (len ≠ 5 → ends (.smax u e residue) len 2) ∧ (len = 5 → (w0 / 32 % 8 ≠ 0 ∨ w0 / 2 ^ 24 ≠ 0) → ends (.smax u e residue) len 3)))

/-! ## Movers and memories (spec/06, spec/20) -/

/-- DMA_FILL writes its pattern, the byte at address a taking byte a mod 4 of it, over its whole destination and nowhere else, and completes with
STATUS OK; while an in-stack copy holds a stack of it, the command waits at the front of its queue (R210, R211, R212, R218, R222, Table 6.7). DMA_COPY
and DMA_COPY2D, over operands that share no byte, move every byte of every row and write nothing else, and complete with STATUS OK, no stack of theirs
being under an in-stack copy; a two-dimensional copy's rows stand its strides apart (R210, R211, R212, Table 6.7). -/
def Obligations.MoverTransfers : Prop :=
  (∀ (s : State) (u : UnitId) (ws rest : List Word) (d : Side) (n tag : Nat) (lo hi pat : Word),
  let q := (s.core u).ports.dma
  q.Front 5 ws rest → ws = [BitVec.ofNat 32 (5 + 2 * 256 + tag * 65536), lo, hi, BitVec.ofNat 32 n, pat] → tag < 256 → 0 < n → n < 2 ^ 32 →
  sideOf (lo.toNat + hi.toNat * 2 ^ 32) = some d → s.SideReady u d n →
  (s.sideHeld n d = true → exec (.dmaFill u) s = .next s) ∧
  (s.sideHeld n d = false → Runs (.dmaFill u) s fun t => EngineQ.Done q (t.core u).ports.dma 5 16 rest (BitVec.ofNat 32 tag) ∧
    (∀ i, i < n → t.sideAt u d i = BitVec.ofNat 8 (pat.toNat / 2 ^ (8 * (((match d with | .win a => a | .hbm a => a) + i) % 4)))) ∧
    (∀ m b, (∀ i, i < n → (m, b) ≠ s.sideCell u i d) → t.peek m b = s.peek m b) ∧ (t.core u).regs = (s.core u).regs)) ∧
  (∀ (s : State) (u : UnitId) (ws rest : List Word) (src dst : Side) (n rows tag : Nat) (a b c d x : Word),
  let q := (s.core u).ports.dma
  sideOf (a.toNat + b.toNat * 2 ^ 32) = some src → sideOf (c.toNat + d.toNat * 2 ^ 32) = some dst → 0 < n → n < 2 ^ 32 → tag < 256 →
  (q.Front 6 ws rest → ws = [BitVec.ofNat 32 (6 + 256 + tag * 65536), a, b, c, d, BitVec.ofNat 32 n] → s.SideReady u src n → s.SideReady u dst n →
    Apart src n dst n → s.sideHeld n src = false → s.sideHeld n dst = false →
    Runs (.dmaCopy u) s fun t => EngineQ.Done q (t.core u).ports.dma 6 16 rest (BitVec.ofNat 32 tag) ∧
      (∀ i, i < n → t.sideAt u dst i = s.sideAt u src i) ∧
      (∀ m y, (∀ i, i < n → (m, y) ≠ s.sideCell u i dst) → t.peek m y = s.peek m y) ∧ (t.core u).regs = (s.core u).regs) ∧
  (∀ ss ds : Nat, ss = x.toNat % 65536 * 64 → ds = x.toNat / 65536 * 64 → q.Front 8 ws rest →
    ws = [BitVec.ofNat 32 (8 + 3 * 256 + tag * 65536), a, b, c, d, BitVec.ofNat 32 n, BitVec.ofNat 32 rows, x] → 0 < rows → rows < 2 ^ 32 →
    s.SideReady u src ((rows - 1) * ss + n) → s.SideReady u dst ((rows - 1) * ds + n) →
    Apart src ((rows - 1) * ss + n) dst ((rows - 1) * ds + n) →
    s.sideHeld ((rows - 1) * ss + n) src = false → s.sideHeld ((rows - 1) * ds + n) dst = false → (n ≤ ds ∨ rows = 1) →
    Runs (.dmaCopy2d u) s fun t => EngineQ.Done q (t.core u).ports.dma 8 16 rest (BitVec.ofNat 32 tag) ∧
      (∀ r i, r < rows → i < n → t.sideAt u dst (r * ds + i) = s.sideAt u src (r * ss + i)) ∧
      ∀ m y, (∀ r i, r < rows → i < n → (m, y) ≠ s.sideCell u (r * ds + i) dst) → t.peek m y = s.peek m y))

/-- LOAD_I of a Steward writes a range of the I-space of a unit that is in RESET or HALTED, a Steward only by its loader, and nothing else; a target
that runs or waits is left with CMD_ERR and the command completes with its status (R101, R545). -/
def Obligations.LoadsInstructionSpace : Prop := ∀ (s : State) (u t : UnitId) (ws rest : List Word) (src : Side) (n o tag : Nat) (w0 a b : Word),
  let q := (s.core u).ports.dma
  q.Front 6 ws rest → ws = [w0, a, b, BitVec.ofNat 32 (t.val % 8 + if t.val < 256 then 0 else 8), BitVec.ofNat 32 o, BitVec.ofNat 32 n] →
  w0.toNat = 6 + 4 * 256 + tag * 65536 + (if t.val < 256 then t.val / 8 % 16 * 2 ^ 24 + t.val / 128 * 2 ^ 28 else 0) → tag < 256 →
  256 ≤ u.val → sideOf (a.toNat + b.toNat * 2 ^ 32) = some src → 0 < n → n % 4 = 0 → o % 4 = 0 → o + n ≤ 65536 → s.SideReady u src n → s.sideHeld n src = false →
  (256 ≤ t.val → s.loaderOf (t.val - 256) = u.val - 256) →
  ((s.core t).run.state = .reset ∨ (s.core t).run.state = .halted →
    Runs (.loadI u) s fun r => EngineQ.Done q (r.core u).ports.dma 6 16 rest (BitVec.ofNat 32 tag) ∧
      Stored s r (.imem t) o ((List.range n).map (s.sideAt u src))) ∧
  ((s.core t).run.state = .running ∨ (s.core t).run.state = .waiting → t ≠ u →
    Runs (.loadI u) s fun r => EngineQ.Done q (r.core u).ports.dma 6 16 rest (BitVec.ofNat 32 (tag + 7 * 256)) ∧ SameMem s r ∧
      r.core t = { s.core t with run.cmdErr := true })

/-- An in-stack copy: START is refused with ERR and its code while BUSY, without spare partition, or with a range that does not fit, and otherwise
latches its operands and sets BUSY; it issues once the accesses in flight have drained; at its end BUSY clears, DONE is set and the spare range holds
the source range as it stood at START; at the time limit it ends with ERR code 5 and what it has copied (R220 to R224). -/
def Obligations.InStackCopy : Prop := ∀ (s : State) (k : Fin 4),
  let n := k.val
  let h := s.hbmCtl[k]
  let w := s.fld R.hbmWorkMib
  let fitsIn := s.fld (R.copyLen n) ≠ 0 ∧ s.fld (R.copySrc n) + s.fld (R.copyLen n) ≤ w ∧ s.fld (R.copyDst n) + s.fld (R.copyLen n) ≤ 36864 - w
  let refused := fun (code : Nat) => Runs (.hbmCopyStart k) s fun t => t.fld (R.copyErr n) = 1 ∧ t.fld (R.copyErrCode n) = code ∧
    t.fld (R.copyBusy n) = s.fld (R.copyBusy n) ∧ SameMem s t ∧ t.hbmCtl = s.hbmCtl
  (s.fld (R.copyBusy n) = 1 → refused 1) ∧
  (s.fld (R.copyBusy n) = 0 → s.fld R.hbmSpare = 0 → refused 2) ∧
  (s.fld (R.copyBusy n) = 0 → s.fld R.hbmSpare ≠ 0 → ¬fitsIn → refused 3) ∧
  (s.fld (R.copyBusy n) = 0 → s.fld R.hbmSpare ≠ 0 → fitsIn → Runs (.hbmCopyStart k) s fun t => t.fld (R.copyBusy n) = 1 ∧
    t.fld (R.copyProgress n) = 0 ∧ t.hbmCtl[k].phase = .draining ∧ t.hbmCtl[k].src = s.fld (R.copySrc n) ∧
    t.hbmCtl[k].dst = s.fld (R.copyDst n) ∧ t.hbmCtl[k].len = s.fld (R.copyLen n) ∧ SameMem s t ∧
    (s.hbm.bytes.wf = true → ∀ i, i < s.fld (R.copyLen n) * 2 ^ 20 →
      t.hbmCtl[k].snap.get (stackKey n (s.fld (R.copySrc n) * 2 ^ 20) + i) = s.peek .hbm (stackKey n (s.fld (R.copySrc n) * 2 ^ 20) + i))) ∧
  (h.phase = .draining → Runs (.hbmCopyIssue k) s fun t => t = { s with hbmCtl := t.hbmCtl } ∧ t.hbmCtl[k] = { h with phase := .copying }) ∧
  (h.phase = .copying → Runs (.hbmCopyEnd k 0) s fun t => t.fld (R.copyBusy n) = 0 ∧ t.fld (R.copyDone n) = 1 ∧
    t.fld (R.copyProgress n) = h.len % 2 ^ 18 ∧ t.hbmCtl[k].phase = .idle ∧ (t.lmem = s.lmem ∧ t.bmem = s.bmem) ∧
    (s.hbm.bytes.wf = true → h.snap.wf = true → ∀ b, t.peek .hbm b =
      let d := stackKey n (w * 2 ^ 20 + h.dst * 2 ^ 20)
      if d ≤ b ∧ b < d + h.len * 2 ^ 20 then h.snap.get (stackKey n (h.src * 2 ^ 20) + (b - d)) else s.peek .hbm b)) ∧
  (h.phase = .copying → ∀ e, 0 < e → Runs (.hbmCopyEnd k e) s fun t => t.fld (R.copyBusy n) = 0 ∧ t.fld (R.copyDone n) = 1 ∧
    t.fld (R.copyErr n) = 1 ∧ t.fld (R.copyErrCode n) = 4 ∧ t.fld (R.copyUncorr n) = min e 63) ∧
  (h.phase ≠ .idle → ∀ p e, s.fld (R.copyProgress n) ≤ p → p ≤ h.len → Runs (.hbmCopyTimeout k ⟨p, e⟩) s fun t => t.fld (R.copyBusy n) = 0 ∧ t.fld (R.copyErr n) = 1 ∧
    t.fld (R.copyErrCode n) = 5 ∧ t.fld (R.copyProgress n) = p % 2 ^ 18 ∧ t.fld (R.copyUncorr n) = min e 63 ∧ t.hbmCtl[k].phase = .idle)

/-- A D2D flit whose check fails is replayed with every later one; the eighth consecutive replay of one flit fails the link and is reported, and a
failed link counts no more (R214). A refresh and a temperature reading reach their stack and nothing else (R215). Patrol scrub of a word: a word the
code corrects is written back and reported, an uncorrectable one is reported and stands, any other is left; no byte changes; an event of Bunch SRAM
carries its row of 64 bytes and, in the low five bits, its bank (log entry 159); and the scrub of a stack waits while its in-stack copy holds the
stack (R222, R228 to R230). -/
def Obligations.LinksAndStacks : Prop :=
  (∀ s : State,
  (∀ (dir : Fin 2) (again : Bool) (lane : BitVec 6), s.d2d[dir].failed = false →
    let n := if again then s.d2d[dir].replays + 1 else 1
    Runs (.d2dFlitCrcFail dir again lane) s fun t => t.d2d = s.d2d.set dir.val ⟨n, decide (8 ≤ n)⟩ ∧
      (8 ≤ n → ∃ unit, t.reports = s.reports ++ [⟨0x08, unit, 0⟩]) ∧ (n < 8 → t.reports = s.reports) ∧
      t = { s with d2d := t.d2d, reports := t.reports }) ∧
  (∀ (dir : Fin 2) (again : Bool) (lane : BitVec 6), s.d2d[dir].failed = true → Runs (.d2dFlitCrcFail dir again lane) s fun t => t = s) ∧
  (∀ k : Fin 4, Runs (.hbmRefresh k) s fun t => t = { s with hbmCtl := t.hbmCtl } ∧ t.hbmCtl[k].refreshes = s.hbmCtl[k].refreshes + 1 ∧
    ∀ j : Fin 4, j ≠ k → t.hbmCtl[j] = s.hbmCtl[j]) ∧
  ∀ a b c d : Nat, Runs (.hbmTempReadout a b c d) s fun t => t = { s with hbmCtl := t.hbmCtl } ∧
    t.hbmCtl.toList.map HbmSt.temp = [a, b, c, d] ∧ ∀ j : Fin 4, t.hbmCtl[j].refreshes = s.hbmCtl[j].refreshes ∧ t.hbmCtl[j].phase = s.hbmCtl[j].phase) ∧
  (∀ s : State,
  (∀ (b : Fin 32) (i : BitVec 19), let r := s.bmem[b]
    Runs (.patrolScrub (.bunch b i)) s fun t => SameMem s t ∧
      (i.toNat ∈ r.bad → t.reports = s.reports ++ [⟨0x04, s.bunchCode b, i.toNat / 256 * 32 + i.toNat / 8 % 32⟩] ∧ t.bmem = s.bmem) ∧
      (i.toNat ∉ r.bad → i.toNat ∈ r.soft → t.reports = s.reports ++ [⟨0x03, s.bunchCode b, i.toNat / 256 * 32 + i.toNat / 8 % 32⟩] ∧ i.toNat ∉ t.bmem[b].soft ∧
        ∀ j, j ≠ i.toNat → (j ∈ t.bmem[b].soft ↔ j ∈ r.soft)) ∧
      (i.toNat ∉ r.bad → i.toNat ∉ r.soft → t = s)) ∧
  ∀ (i : BitVec 32) (k : Fin 4), k.val = i.toNat * 64 / (36864 * 2 ^ 20) % 4 →
    (s.hbmCtl[k].phase ≠ .idle → Runs (.patrolScrub (.hbm i)) s fun t => t = s) ∧
    (s.hbmCtl[k].phase = .idle → Runs (.patrolScrub (.hbm i)) s fun t => SameMem s t ∧
      (i.toNat ∈ s.hbm.bad → ∃ unit, t.reports = s.reports ++ [⟨0x06, unit, i.toNat⟩]) ∧
      (i.toNat ∉ s.hbm.bad → i.toNat ∈ s.hbm.soft → (∃ unit, t.reports = s.reports ++ [⟨0x05, unit, i.toNat⟩]) ∧ i.toNat ∉ t.hbm.soft) ∧
      (i.toNat ∉ s.hbm.bad → i.toNat ∉ s.hbm.soft → t = s)))

/-! ## Fabric time (spec/07). Times of messages are in units of 2^−16 ns, fabric time is in ns. -/

/-- The PTP messages the device uses. A one-step Sync of a domain of the device on a port time is taken from gives the offset, a two-step one waits
for the Follow_Up of its sequence number; a Pdelay_Req is answered with the receipt time; an answer to the request in flight gives the mean link
delay; an Announce marks its port and the receipt timeout unmarks it. A port works in the fabric domain, the system port of the system port holder in
the system domain, and a Sync there disciplines fabric time on the grandmaster (log entry 164). A captured time is in steps of 0.25 ns and has the
constant of its lane mode added. On a link that is up, the Sync interval sends a one-step Sync under the next sequence number and the Announce
interval an Announce with the clock class, where time is not taken from the port, and the Pdelay_Req interval a request under the next number, a
one-step time being written when the frame leaves, which on the twin link is at once; any other message changes nothing but the time (R233, R234,
Table 7.1). -/
def Obligations.PtpMessages : Prop := ∀ (s : State) (p : Fin 33) (m : PtpMsg) (t : Nat),
  let z := s.time.ptp[p]
  let now := max s.time.now (t / 65536)
  let sys := s.time.sysHolder = true ∧ p.val < 32 ∧ s.fld (R.portFabric p.val) = 0
  let gmSys := sys ∧ s.fld R.ftGm = 1
  let ours := sys ∧ m.domain = s.fld R.ftSysDomain ∨ ¬sys ∧ m.domain = s.fld R.ftDomain
  let from_ := sys ∨ p.val = s.fld R.ftUpstream ∨ p.val = s.time.primary ∨ p.val = s.time.standby
  let k := s.laneConst p
  let rx := ((t - t % 16384 : Nat) + k.ingress).toNat
  let tx := ((t - t % 16384 : Nat) + k.egress).toNat
  let leaves := fun (i : Instr) (z' : PtpSt) => Runs i s fun r => TimeOnly s r ∧ r.time.now = now ∧ r.time.ptp = s.time.ptp.set p.val z' ∧
    r.out = s.out ∧ r.net = s.net
  let offset := (rx : Int) - m.stamp - m.correction - z.meanDelay
  (ours → from_ → m.twoStep = false → ¬gmSys → leaves (.ptpSync p m t) { z with pendingSync := none, offset := offset }) ∧
  (ours → m.twoStep = false → gmSys → Runs (.ptpSync p m t) s fun r => r.time.ptp[p].offset = offset ∧
    (s.beat.running = none → r.time.now = ((now : Int) - offset / 65536).toNat) ∧
    (s.beat.running ≠ none → r.time.now = now ∧ r.time.slew = -offset)) ∧
  (ours → from_ → m.twoStep = true → leaves (.ptpSync p m t) { z with pendingSync := some (m.seq, rx, m.correction) }) ∧
  (∀ r0 c, ours → from_ → ¬gmSys → z.pendingSync = some (m.seq, r0, c) →
    leaves (.ptpFollowUp p m t) { z with pendingSync := none, offset := (r0 : Int) - m.stamp - c - m.correction - z.meanDelay }) ∧
  (ours → Runs (.ptpPdelayReq p m t) s fun r => r.time.now = now ∧ ∃ f : PtpMsg, f.seq = m.seq % 65536 ∧
    (p.val < 32 → f.stamp = rx ∧ f.correction = m.correction) ∧ (p.val = 32 → f.stamp = 0 ∧ f.correction = m.correction + ((tx : Int) - rx)) ∧
    TimeSent s r p.val (.ptp 3 f)) ∧
  (∀ t1, z.reqSent = some (m.seq, t1) → m.forUs = true → m.twoStep = false →
    leaves (.ptpPdelayResp p m t) { z with reqSent := none, meanDelay := ((rx : Int) - t1 - m.correction) / 2 }) ∧
  (∀ t1 t2 t4 c, z.reqSent = some (m.seq, t1) → z.respSeen = some (m.seq, t2, t4, c) → m.forUs = true →
    leaves (.ptpPdelayRespFollowUp p m t)
      { z with reqSent := none, respSeen := none, meanDelay := (((t4 : Int) - t1) - ((m.stamp : Int) - t2) - c - m.correction) / 2 }) ∧
  (ours → leaves (.ptpAnnounce p m t) { z with announced := true }) ∧
  leaves (.announceReceiptTimeout p t) { z with announced := false } ∧
  (Runs (.ptpUnusedMessage p m t) s fun r => r = s.advance (t / 65536)) ∧
  (s.linkUp p.val = true → ¬from_ → Runs (.syncInterval p t) s fun r => r.time.ptp[p].syncSeq = z.syncSeq + 1 ∧
    ∃ f : PtpMsg, f.seq = (z.syncSeq + 1) % 65536 ∧ f.twoStep = false ∧
      (p.val = 32 → (f.stamp : Int) + f.correction = tx ∧ f.stamp % 65536 = 0) ∧ TimeSent s r p.val (.ptp 0 f)) ∧
  (s.linkUp p.val = true → Runs (.pdelayReqInterval p t) s fun r => r.time.ptp[p].reqSent = some ((z.pdelaySeq + 1) % 65536, if p.val < 32 then t else tx) ∧
    ∃ f : PtpMsg, f.seq = (z.pdelaySeq + 1) % 65536 ∧ TimeSent s r p.val (.ptp 2 f)) ∧
  (s.linkUp p.val = true → ¬from_ → Runs (.announceInterval p t) s fun r => ∃ f : PtpMsg,
    f.clockClass = (if s.fld R.ftGm = 1 ∧ s.fld R.ftPpsEn = 1 ∧ (∃ a, s.time.ppsAt = some a ∧ now < a + 2000000000) then 6 else 248) ∧ TimeSent s r p.val (.ptp 11 f))

/-- A valid beacon that echoes the last one sent on its link gives the link's delay and pushes its offset, the window keeping 32; one that does not is
only remembered; times are in steps of 0.25 ns with the lane mode's constant, and the asymmetry is the lane mode's; a beacon of another major version,
of a reserved type or of another Orchard is discarded, counted and recorded. Stated of a link that is not the upstream, in a time state that starts no
filter (R235, R236, R238). A beacon leaves on the twin link when it is up, with the sequence number advanced, the time it leaves at, and the echo of
the last beacon received there; on a link that is down nothing is sent (R235, Table 7.2). Stated of the twin link. -/
def Obligations.Beacons : Prop :=
  (∀ (s : State) (l : Fin 33) (b : Beacon) (t : Nat) (im : Image),
  let k := s.time.links[l]
  let t1 : Int := b.tTx * 65536 + b.tTxFrac
  let t4 : Int := b.tRxEcho * 65536 + b.tRxEchoFrac
  let t3 : Int := k.lastTxTime
  let c := s.laneConst l
  let rx := ((t - t % 16384 : Nat) + c.ingress).toNat
  s.linkUp l.val = true → (l.val = 32 ∨ s.fld (R.portFabric l.val) = 1) → s.beat.running = some im →
  (b.verMajor = 1 → b.type = 0 → b.orchardId = im.orchardId → l.val ≠ s.fld R.ftUpstream → s.fld R.ftState ≠ 0 →
    Runs (.linkBeaconReceive l b t) s fun r => r.time.now = max s.time.now (t / 65536) ∧ r.time.links = s.time.links.set l.val
      (if b.echoSeq = k.txSeq then
        { k with rxSeq := b.seq, rxTime := rx, lastValid := some (t / 65536), versionBad := false, asym := c.asym, delay := ((rx - t1) + (t4 - t3)) / 2 - c.asym, window := (((((rx : Int) - t1) - (t4 - t3)) / 2 - c.asym) :: k.window).take 32 }
       else { k with rxSeq := b.seq, rxTime := rx, lastValid := some (t / 65536), versionBad := false, asym := c.asym })) ∧
  (b.verMajor ≠ 1 ∨ b.type ≠ 0 ∨ b.orchardId ≠ im.orchardId → Runs (.linkBeaconReceive l b t) s fun r =>
    r.time.links[l].discards = k.discards + 1 ∧ r.time.links[l].window = k.window ∧ (b.verMajor ≠ 1 → r.time.links[l].versionBad = true) ∧
    ∃ v, r.vlog.entries = (v :: s.vlog.entries).take 4096 ∧ v.reason = (if b.verMajor ≠ 1 then 3 else if b.type ≠ 0 then 1 else 6))) ∧
  (∀ (s : State) (t : Nat), (∀ p, p < 32 → s.linkUp p = false) →
  let tx := ((t - t % 16384 : Nat) + (s.laneConst 32).egress).toNat
  (s.linkUp 32 = true → Runs (.linkBeaconTransmit t) s fun r => ∃ b : Beacon, r.out = .frame 32 none (.beacon b) :: s.out ∧ b.verMajor = 1 ∧ b.type = 0 ∧
    b.seq = (s.time.links[32].txSeq + 1) % 2 ^ 32 ∧ b.tTx * 65536 + b.tTxFrac = tx ∧ b.echoSeq = s.time.links[32].rxSeq ∧
    b.tRxEcho * 65536 + b.tRxEchoFrac = s.time.links[32].rxTime ∧
    r.time.links = s.time.links.set 32 { s.time.links[32] with txSeq := (s.time.links[32].txSeq + 1) % 2 ^ 32, lastTxTime := tx }) ∧
  (s.linkUp 32 = false → Runs (.linkBeaconTransmit t) s fun r => r = s.advance (t / 65536)))

/-- Fabric time never goes back, and a slew is worked off meanwhile at no more than 100 ppm. The time states of Table 7.3: ACQUIRING locks once the
offset has stayed within bounds for 1 ms; an upstream silent for 32 µs frees an acquiring device and puts a locked one that is not the grandmaster in
HOLDOVER; the holdover limit, 50 ms with a valid and enabled 10 MHz reference and 1 ms otherwise, puts it in FAULT, stops the Beat Table and notifies;
fabric time steps to a 1PPS edge only on the grandmaster with PPS_EN and only while no Beat Table runs (R232, R239 to R241). -/
def Obligations.TimeStates : Prop := ∀ (s : State) (t : Nat),
  let st := s.fld R.ftState
  let at_ := s.advance t
  (at_.time.now = max s.time.now t ∧ (s.time.slew - at_.time.slew).natAbs * 10000 ≤ (at_.time.now - s.time.now) * 65536 ∧
    at_.time.slew.natAbs ≤ s.time.slew.natAbs ∧ at_ = { s with time.now := at_.time.now, time.slew := at_.time.slew }) ∧
  (∀ g, s.time.goodSince = some g → st = 1 → g + 1000000 ≤ max s.time.now t → Runs (.timeLockAcquired t) s fun r => r.fld R.ftState = 2) ∧
  (∀ g, s.time.goodSince = some g → max s.time.now t < g + 1000000 → Runs (.timeLockAcquired t) s fun r => r = s.advance t) ∧
  (∀ (l : LinkSt), s.time.links.toList[s.fld R.ftUpstream]? = some l → (∀ v, l.lastValid = some v → v + 32000 ≤ max s.time.now t) →
    (st = 1 → Runs (.upstreamLost t) s fun r => r.fld R.ftState = 0 ∧ r.fld R.ftUpstream = 63) ∧
    (st = 2 → s.fld R.ftGm = 0 → Runs (.upstreamLost t) s fun r => r.fld R.ftState = 3 ∧ r.time.holdAt = max s.time.now t) ∧
    (st = 2 → s.fld R.ftGm = 1 → Runs (.upstreamLost t) s fun r => r.fld R.ftState = 2)) ∧
  (st = 3 → s.fld R.twinState ≠ 1 →
    s.time.holdAt + (if s.fld R.ftRef10m = 1 ∧ s.fld R.ftRef10mEn = 1 then 50000000 else 1000000) ≤ max s.time.now t →
    Runs (.holdoverLimit t) s fun r => r.fld R.ftState = 4 ∧ r.beat.running = none ∧ ⟨0, 0x8000, 4⟩ ∈ r.reports) ∧
  (∀ sec : Nat, s.fld R.ftGm = 1 → s.fld R.ftPpsEn = 1 →
    (s.beat.running = none → Runs (.ppsEdge t sec) s fun r => r.time.now = sec * 1000000000 ∧ r.fld R.ftPps = 1) ∧
    (s.beat.running ≠ none → Runs (.ppsEdge t sec) s fun r => r.time.now = max s.time.now t ∧
      r.time.slew = ((sec : Int) * 1000000000 - t) * 65536)) ∧
  (∀ v : Bool, Runs (.ref10mValidityChange v) s fun r => r.fld R.ftRef10m = (if v then 1 else 0) ∧ r = { s with csr := r.csr })

/-! ## Schedules (spec/07) -/

/-- The commands of BT_CTL, the end of a staging and switch notices: STAGE is refused with BUSY or starts a staging; a staging ends with the image
staged or with its status; ACTIVATE is accepted for an image whose START_TIME is far enough away, on a season boundary of the running one and in
LOCKED time, and otherwise drops the image with its status; ABORT drops it; STOP asks for the end of the running image; VARIANT originates a notice,
or selects the start variant; a newer notice of the running image makes its switch pending, one whose season has come stops the schedule, and one of
another major version is discarded, counted and recorded. While Steward 1 or 2 is gone a write of BT_CTL waits, and Steward 2 ends no staging; the
kernels held for a dropped image no longer count (R238, R252, R253, R256, R259 to R264, R556, R594, Tables 7.8 and 7.9). -/
def Obligations.ScheduleCommands : Prop := ∀ (s : State) (t : Nat),
  let now := max s.time.now t
  let held := s.beat.kernelHeld.filter fun k => !s.spareCore k.1
  (s.feWaits 0x600100 = true →
    Runs (.btStage t) s (fun r => r = { s.advance t with wide.fe := s.wide.fe ++ [.write 0x600100 1#32] }) ∧
    Runs (.btActivate t) s (fun r => r = { s.advance t with wide.fe := s.wide.fe ++ [.write 0x600100 2#32] }) ∧
    Runs .btAbort s (fun r => r = { s with wide.fe := s.wide.fe ++ [.write 0x600100 3#32] }) ∧
    Runs .btStop s (fun r => r = { s with wide.fe := s.wide.fe ++ [.write 0x600100 4#32] }) ∧
    ∀ v : Bool, Runs (.btVariant v t) s fun r =>
      r = { s.advance t with wide.fe := s.wide.fe ++ [.write 0x600100 (if v then 13#32 else 5#32)] }) ∧
  (s.feWaits 0x600100 = false →
  (s.fld R.btBusy = 1 ∨ s.fld R.btStaged = 1 → Runs (.btStage t) s fun r => r.time.now = now ∧ r.beat = s.beat ∧ r.fld R.btLoadStatus = 1) ∧
  (s.fld R.btBusy = 0 → s.fld R.btStaged = 0 → Runs (.btStage t) s fun r => r.time.now = now ∧ r.fld R.btBusy = 1 ∧
    r.beat = { s.beat with staging := some ⟨s.fld R.btStageLo + s.fld R.btStageHi * 2 ^ 32, s.fld R.btStageLen⟩ }) ∧
  (∀ g st, s.beat.staging = some g → (s.advance t).stageStatus g.addr g.len s.serial = st → st < 256 → s.stewardOff 2 = false →
    Runs (.stagingEnd t) s fun r => r.fld R.btBusy = 0 ∧ r.fld R.btLoadStatus = st ∧ SameMem s r ∧
      r.fld R.btStaged = (if st = 0 then 1 else s.fld R.btStaged) ∧
      r.beat = { s.beat with staging := none, staged := if st = 0 then some (parseImage (s.hbmBytes g.addr g.len) g.addr s.serial) else s.beat.staged }) ∧
  (∀ g, s.beat.staging = some g → s.stewardOff 2 = true → Runs (.stagingEnd t) s fun r => r = s.advance t) ∧
  (s.beat.staged = none → Runs (.btActivate t) s fun r => r.fld R.btLoadStatus = 0xB ∧
    r.beat = { s.beat with activation := false, kernelHeld := held }) ∧
  (∀ im, s.beat.staged = some im → s.ckpt.defn = none →
    let astray := ∃ old, s.beat.running = some old ∧ (im.startTime < old.startTime ∨ (im.startTime - old.startTime) % (old.slots * 10) ≠ 0)
    let drops := fun (c : Nat) => Runs (.btActivate t) s fun r => r.fld R.btLoadStatus = c ∧ r.fld R.btStaged = 0 ∧ SameMem s r ∧
      r.beat = { s.beat with staged := none, activation := false, kernelHeld := held }
    (astray → drops 0xC) ∧ (¬astray → im.startTime < now + 1000000 → drops 0xD) ∧
    (¬astray → now + 1000000 ≤ im.startTime → s.fld R.ftState ≠ 2 → drops 0xE) ∧
    (¬astray → now + 1000000 ≤ im.startTime → s.fld R.ftState = 2 → Runs (.btActivate t) s fun r => r.fld R.btLoadStatus = 0 ∧
      r.fld R.btPending = 1 ∧ r.beat = { s.beat with activation := true, kernelHeld := r.beat.kernelHeld })) ∧
  (∀ im, s.beat.staged = some im → Runs .btAbort s fun r => r.fld R.btStaged = 0 ∧ r.beat = { s.beat with staged := none, activation := false, kernelHeld := held } ∧
    r.fld R.btPending = if s.beat.switch.isSome then 1 else 0) ∧
  (s.beat.staged = none → Runs .btAbort s fun r => r = s) ∧
  (∀ im, s.beat.running = some im → Runs .btStop s fun r => r.beat = { s.beat with stopReq := true, switch := none } ∧
    r.fld R.btPending = if s.beat.activation then 1 else 0) ∧
  (s.beat.running = none → Runs .btStop s fun r => r = s) ∧
  (∀ v : Bool, s.beat.running = none → Runs (.btVariant v t) s fun r => r.fld R.btVariant = (if v then 1 else 0) ∧ r.beat = s.beat ∧ r.out = s.out) ∧
  (∀ (v : Bool) (im : Image) (x n : Nat), x = (if v then 1 else 0) → s.beat.running = some im → s.beat.switch = none →
    n = (now - im.startTime) / (im.slots * 10) + 1 + (im.leadNs + im.slots * 10 - 1) / (im.slots * 10) →
    Runs (.btVariant v t) s fun r => r.beat.ownSeq = (s.beat.ownSeq + 1) % 2 ^ 32 ∧ r.fld R.btVariant = s.fld R.btVariant ∧
      r.beat.switch = (if x = s.fld R.btVariant then none else some (x, n)) ∧
      (s.linkUp 32 = true → (∀ p, p < 32 → s.linkUp p = false) → r.out = .frame 32 none (.notice ⟨1, 0, 1, im.orchardId, im.rank,
        (s.beat.ownSeq + 1) % 2 ^ 32, im.imageId, x, 0, 0, n % 2 ^ 32⟩) :: s.out))) ∧
  ∀ (l : Fin 33) (n : Notice),
    (s.linkUp l.val = false → Runs (.switchNoticeReceive l n t) s fun r => r = s.advance t) ∧
    (s.beaconLink l.val = true → n.verMajor ≠ 1 → Runs (.switchNoticeReceive l n t) s fun r => r.beat = s.beat ∧ r.out = s.out ∧
      r.time.links = s.time.links.set l.val { s.time.links[l] with discards := s.time.links[l].discards + 1, versionBad := true } ∧ ∃ v : Viol,
      r.vlog.entries = (v :: s.vlog.entries).take 4096 ∧ v.reason = 3 ∧ v.protocol = 6 ∧ v.partner = n.originRank) ∧
    ∀ (im : Image) (c last : Nat), s.beaconLink l.val = true → s.beat.running = some im → c = (now - im.startTime) / (im.slots * 10) → c < 2 ^ 31 →
      n.verMajor = 1 → n.type = 1 → n.variant ≤ 1 → n.reason ≤ 1 → n.hopCount ≤ 16 → n.orchardId = im.orchardId → n.imageId = im.imageId →
      n.noticeSeq < 2 ^ 32 → n.switchSeason < 2 ^ 31 → last = SMap.get (fun _ => 0) s.beat.noticeSeq n.originRank →
      (last = n.noticeSeq + 1 → Runs (.switchNoticeReceive l n t) s fun r => r = s.advance t) ∧
      (last = 0 → n.variant = s.fld R.btVariant → Runs (.switchNoticeReceive l n t) s fun r => r.beat.switch = s.beat.switch ∧
        r.beat.running = s.beat.running ∧ r.csr = s.csr) ∧
      (last = 0 → n.variant ≠ s.fld R.btVariant → c < n.switchSeason → s.beat.switch = none → Runs (.switchNoticeReceive l n t) s fun r =>
        r.beat.switch = some (n.variant, n.switchSeason) ∧ r.beat.running = s.beat.running ∧ r.fld R.btPending = 1 ∧
        r.fld R.btPendSeason = n.switchSeason) ∧
      (last = 0 → n.variant ≠ s.fld R.btVariant → n.switchSeason ≤ c → Runs (.switchNoticeReceive l n t) s fun r =>
        r.beat.running = none ∧ r.fld R.btState = 2)

/-- What happens at a tick of a schedule: a slot's events act, a KERNEL event of a core that may not start counting a beat miss, a GATE event setting
its port's gate state; a pending activation starts at its START_TIME, in HOLDOVER too (log entry 166), or is cancelled with NO_TIME; a stop asked for
takes effect at the season boundary and the gates return to their defaults; a pending switch changes the variant at its season and advances the
generation of its group; a halted core takes the kernel of its next event, with its owner, Steward 5 for a KAT core and Steward 2 otherwise, which
loads it unless Steward 2 is gone; and a whole season of another IMAGE_ID upstream stops the schedule (R240, R242 to R247, R250, R253 to R256, R263,
R540, R594). Stated with no season boundary to cross but for the stop, there with no repair waiting and no group resident, and for a switch with one
group. -/
def Obligations.SchedulesRun : Prop := ∀ (s : State) (t : Nat),
  let now := max s.time.now t
  (∀ (im : Image) (k : Nat), s.ckpt.run = none → s.beat.running = some im → (now - im.startTime) / (im.slots * 10) ≤ s.beat.season →
    s.beat.activation = false → s.beat.switch = none → now % 10 = 0 → k = (now - im.startTime) % (im.slots * 10) / 10 →
    (s.slotEvents im 0 k = [] → s.slotEvents im 1 k = [] → Runs (.slotStart t) s fun r => r.beat = { s.beat with slot := k } ∧ r.csr = s.csr ∧
      ∀ u : UnitId, (r.core u).cnt.armAt = if (s.core u).cnt.arm = some (BitVec.ofNat 16 k) ∧ (s.core u).cnt.armAt = none
        then some (BitVec.ofNat 32 now) else (s.core u).cnt.armAt) ∧
    ∀ e : BeatEvent, s.slotEvents im 0 k = [e] → s.slotEvents im 1 k = [] →
      (∀ p, e.kind = 4 → p = e.target % 64 → s.isPort p = true → Runs (.slotStart t) s fun r => r.beat = { s.beat with slot := k } ∧
        r.fld (R.txOpen p) = e.arg % 256 ∧ r.fld (R.txCellPcp p) = e.arg / 256 % 8 ∧ r.fld (R.txCellTag p) = e.arg / 2048 % 2 ∧
        r.reports = s.reports) ∧
      ∀ u : UnitId, e.kind = 3 → u.val = e.target % 128 → s.witHolds u = false →
        (s.canLoad u = true → SMap.get (fun _ => 0) s.beat.kernelHeld u.val = e.arg % 65536 + 1 → Runs (.slotStart t) s fun r =>
          (r.core u).run.state = .running ∧ (r.core u).regs.pc = (s.core u).run.entry &&& 0xFFFC#16 ∧ r.reports = s.reports) ∧
        (s.canLoad u = false → Runs (.slotStart t) s fun r => (r.core u).run = (s.core u).run ∧
          r.reports = s.reports ++ [⟨0, 0x8000, 5⟩] ∧ r.fld R.btMiss = min (s.fld R.btMiss + 1) 65535)) ∧
  (∀ im, s.beat.running = none → s.beat.staged = some im → s.beat.activation = true →
    (now < im.startTime → Runs (.activationStart t) s fun r => r = s.advance t) ∧
    (im.startTime ≤ now → s.fld R.ftState ≠ 2 → s.fld R.ftState ≠ 3 → Runs (.activationStart t) s fun r =>
      r.beat = { s.beat with activation := false, kernelHeld := s.beat.kernelHeld.filter fun k => !s.spareCore k.1 } ∧
      r.fld R.btLoadStatus = 0xE ∧ r.cores = s.cores) ∧
    (im.startTime ≤ now → s.fld R.ftState = 2 ∨ s.fld R.ftState = 3 → Runs (.activationStart t) s fun r => r.beat.running = some im ∧ r.beat.staged = none ∧
      r.beat.activation = false ∧ r.fld R.btState = 1 ∧ r.fld R.btStaged = 0 ∧ r.fld R.btVariant = s.fld R.btVariant ∧
      r.csr.get64 R.btImageId = im.imageId % 2 ^ 64 ∧ r.coll.legs = [] ∧
      r.coll.groups.map GroupRun.gen = im.groups.map fun g => (g.genBase + s.fld R.btVariant) % 65536)) ∧
  (∀ im, s.ckpt.run = none → s.beat.running = some im → s.beat.season < (now - im.startTime) / (im.slots * 10) → s.beat.stopReq = true →
    s.beat.activation = false → s.health.repairs = [] → im.residency = [] → (∀ d b, d < 2 → b < 17 → s.fld (R.marginPending d b) = 0) →
    Runs (.scheduleStop t) s fun r => r.beat.running = none ∧ r.beat.switch = none ∧ r.fld R.btState = 2 ∧ r.fld R.btVariant = 0 ∧
      ∀ p, p < 32 → r.fld (R.txOpen p) = s.fld (R.txGateDef p) ∧ r.fld (R.txCellPcp p) = s.fld (R.txCellPcpDef p) ∧
        r.fld (R.txCellTag p) = s.fld (R.txCellTagDef p)) ∧
  (∀ (im : Image) (v n : Nat) (g : GroupRun), s.beat.running = some im → (now - im.startTime) / (im.slots * 10) ≤ s.beat.season →
    s.beat.switch = some (v, n) → v ≤ 1 → s.coll.groups = [g] → s.coll.stale = [] → g.round = 0 → g.causes = [] → g.heldPoison = false →
    (n ≤ s.beat.season → ¬(v = 0 ∧ s.fld R.btSolo = 1) → Runs (.variantSwitch t) s fun r => r.fld R.btVariant = v ∧ r.beat.switch = none ∧
      r.coll.groups = [{ g with gen := (g.gen + 1) % 65536, misses := 0, checks := 0 }] ∧ r.coll.legs = []) ∧
    (n ≤ s.beat.season → v = 0 → s.fld R.btSolo = 1 → Runs (.variantSwitch t) s fun r => r.beat.running = none ∧ r.fld R.btState = 2) ∧
    (s.beat.season < n → Runs (.variantSwitch t) s fun r => r = s.advance t)) ∧
  (∀ (c : Fin 256) (u : UnitId) (im : Image) (ki : Nat) (k : KernelE), u.val = c.val → s.beat.running = some im → s.nextKernel c.val = some ki →
    im.kernels[ki]? = some k → s.hbm.bad = [] → s.hbm.soft = [] →
    (s.stewardOff 2 = false → s.canLoad u = true → SMap.get (fun _ => 0) s.beat.kernelHeld c.val ≠ ki + 1 → Runs (.kernelReload c) s fun r =>
      SMap.get (fun _ => 0) r.beat.kernelHeld c.val = ki + 1 ∧ (r.core u).run.entry = BitVec.ofNat 16 k.entry ∧
      (r.core u).run.owner = (if im.katCore c.val then 5 else 2) ∧ (r.core u).ctl.fenceLo = BitVec.ofNat 32 k.fenceLo ∧ (r.core u).ctl.fenceHi = BitVec.ofNat 32 k.fenceHi ∧
      (∀ i, i < k.textLen → r.peek (.imem u) i = s.peek .hbm (s.workKey (im.addr + k.textOff + i))) ∧
      (∀ i, i < k.dataLen → r.peek (.lmem u) i = s.peek .hbm (s.workKey (im.addr + k.dataOff + i)))) ∧
    (s.stewardOff 2 = true ∨ s.canLoad u = false ∨ SMap.get (fun _ => 0) s.beat.kernelHeld c.val = ki + 1 → Runs (.kernelReload c) s fun r => r = s)) ∧
  ∀ (im : Image) (since rank : Nat), s.beat.running = some im → s.beat.mismatch = some (since, rank) →
    (since + im.slots * 10 ≤ now → Runs (.imageMismatchStop t) s fun r => r.beat.running = none ∧ r.fld R.btState = 2 ∧
      r.fld R.btLoadStatus = 0xC ∧ ∃ v : Viol, r.vlog.entries = (v :: s.vlog.entries).take 4096 ∧ v.reason = 6 ∧ v.partner = rank) ∧
    (now < since + im.slots * 10 → Runs (.imageMismatchStop t) s fun r => r = s.advance t)

/-! ## Accelerator windows and feeds (spec/08, spec/18) -/

/-- The windows of an accelerator port. OPEN of a closed window on a link that is up checks the version and the queue records, and then advances the
generation and opens every queue with a completion ring, or leaves it closed with its status and records the violation; OPEN of an open window only
reports OK; CLOSE closes every queue; a doorbell of a queue that is not open is recorded, one out of range puts the queue in ERROR, and any other
moves the tail or the released count to what it names, and what it wrote stands in the window; a write elsewhere, or a request the port may not make,
is recorded; the link's state is shown and its fall closes the three windows (R270 to R272, R276, R278, R522, R523, Tables 8.2, 8.3 and 8.7). Stated
with no commitment held. -/
def Obligations.AcceleratorWindows : Prop := ∀ (s : State) (k : WinKind) (p q : Fin 8),
  let x := s.accQ k p.val q.val
  let others := fun (r : State) => ∀ (j : WinKind) (n : Fin 8), ¬(j = k ∧ n = p) → r.win j n.val = s.win j n.val
  s.twin.held = [] →
  (∀ (ws : WinWrites) (w : AccWin), w = (s.win k p.val).write k ws → s.fld (R.accLinkUp p.val) = 1 → w.fld 4 1 = 0 →
    (w.fld 0 1 ≠ 1 → Runs (.windowHelloOpen k p ws) s fun r => (r.win k p.val).fld 8 1 = 0xA ∧ (r.win k p.val).fld 4 1 = 0 ∧
      (r.win k p.val).qs = w.qs ∧ (r.win k p.val).gen = w.gen ∧ others r ∧ Logged s r 1 p.val (winProto k) 0xA 3 0 0) ∧
    (w.fld 0 1 = 1 → (∃ i, i < winQueues k ∧ w.badRec k i = true) → Runs (.windowHelloOpen k p ws) s fun r => (r.win k p.val).fld 8 1 = 2 ∧
      (r.win k p.val).fld 4 1 = 0 ∧ (r.win k p.val).qs = w.qs ∧ others r ∧ Logged s r 1 p.val (winProto k) 2 5 0 0) ∧
    (w.fld 0 1 = 1 → (∀ i, i < winQueues k → w.badRec k i = false) → Runs (.windowHelloOpen k p ws) s fun r =>
      (r.win k p.val).fld 8 1 = 0 ∧ (r.win k p.val).fld 4 1 = 1 ∧ (r.win k p.val).gen = (w.gen + 1) % 65536 ∧
      (r.win k p.val).fld 6 2 = (w.gen + 1) % 65536 ∧ others r ∧ r.vlog = s.vlog ∧
      ∀ i : Fin 8, (r.win k p.val).qs[i] = if winQueues k ≤ i.val ∨ w.fld (16 + 16 * i.val) 8 = 0 then AccQ.zero
        else { AccQ.zero with st := 1, cqBase := w.fld (16 + 16 * i.val) 8, sqN := w.fld (24 + 16 * i.val) 2, cqN := if w.fld (26 + 16 * i.val) 2 = 0 then 65536 else w.fld (26 + 16 * i.val) 2 })) ∧
  (∀ (ws : WinWrites) (w : AccWin), w = (s.win k p.val).write k ws → s.fld (R.accLinkUp p.val) = 1 → w.fld 4 1 ≠ 0 →
    Runs (.windowHelloOpen k p ws) s fun r => (r.win k p.val).fld 8 1 = 0 ∧ (r.win k p.val).fld 5 1 = 0 ∧ (r.win k p.val).qs = w.qs ∧
      (r.win k p.val).gen = w.gen ∧ others r ∧ r.vlog = s.vlog) ∧
  (Runs (.windowHelloClose k p) s fun r => (r.win k p.val).qs = Vector.replicate 8 AccQ.zero ∧ (r.win k p.val).fld 4 1 = 0 ∧ (r.win k p.val).fld 8 1 = 0 ∧
    (r.win k p.val).gen = (s.win k p.val).gen ∧ others r ∧ r.out = s.out) ∧
  (∀ (tail : BitVec 16) (ws : WinWrites), let sq := Instr.windowSqDoorbell k p q ws tail
    let w := (s.win k p.val).write k ws
    let rung := if q.val < winQueues k then { w with mem := w.mem.put (0x1000 + 0x1000 * q.val) (natLe 2 tail.toNat) } else w
    (winQueues k ≤ q.val ∨ x.st ≠ 1 → Runs sq s fun r => r.win k p.val = rung ∧ others r ∧
      Logged s r 1 p.val (winProto k) 0xFF 7 q.val tail.toNat) ∧
    (q.val < winQueues k → x.st = 1 → x.sqN ≤ tail.toNat → Runs sq s fun r => r.accQ k p.val q.val = { x with st := 2 } ∧
      (r.win k p.val).fld 4 1 = 2 ∧ others r ∧ Logged s r 1 p.val (winProto k) 0xFF 5 q.val tail.toNat) ∧
    (q.val < winQueues k → x.st = 1 → tail.toNat < x.sqN → Runs sq s fun r => ∃ n, r.accQ k p.val q.val = { x with tail := n } ∧
      n % x.sqN = tail.toNat ∧ x.taken ≤ n ∧ n < x.taken + x.sqN ∧ (r.win k p.val).mem = rung.mem ∧ others r ∧
      r.vlog = s.vlog)) ∧
  (∀ head : BitVec 16, let cq := Instr.windowCqDoorbell k p q head
    let w := s.win k p.val
    let rung := if q.val < winQueues k then { w with mem := w.mem.put (0x1004 + 0x1000 * q.val) (natLe 2 head.toNat) } else w
    (winQueues k ≤ q.val ∨ x.st = 0 → Runs cq s fun r => r.win k p.val = rung ∧ others r ∧ Logged s r 1 p.val (winProto k) 0xFF 7 q.val head.toNat) ∧
    (q.val < winQueues k → x.st ≠ 0 → x.cqN ≤ head.toNat → Runs cq s fun r => r.accQ k p.val q.val = { x with st := 2 } ∧
      Logged s r 1 p.val (winProto k) 0xFF 5 q.val head.toNat) ∧
    (q.val < winQueues k → x.st ≠ 0 → head.toNat < x.cqN → Runs cq s fun r => ∃ n, r.accQ k p.val q.val = { x with released := n } ∧
      n % x.cqN = head.toNat ∧ x.released ≤ n ∧ n < x.released + x.cqN ∧ (r.win k p.val).mem = rung.mem ∧ others r ∧ r.vlog = s.vlog)) ∧
  (∀ off v : Nat, Runs (.feedWindowBadWrite p off v) s fun r => r = { s with vlog := r.vlog, tele := r.tele } ∧ Logged s r 1 p.val 2 0xFF 8 off v) ∧
  (∀ (a : Nat) (tr : Bool), Runs (.accelUpstreamUr p a tr) s fun r => r.out = .unsupported p.val :: s.out ∧ r.wins = s.wins ∧
    Logged s r 1 p.val 14 0xFF 10 a (if tr then 1 else 0)) ∧
  (∀ (rate : Fin 7) (width : Fin 9) (flit : Bool), Runs (.accelLinkUp p rate width flit) s fun r => r = { s with csr := r.csr } ∧
    r.fld (R.accLinkUp p.val) = 1 ∧ r.fld ⟨R.accKey p.val, 1, 3⟩ = rate.val ∧ r.fld ⟨R.accKey p.val, 4, 4⟩ = width.val ∧
    r.fld ⟨R.accKey p.val, 8, 1⟩ = (if flit then 1 else 0) ∧ r.fld ⟨R.accKey p.val, 9, 1⟩ = if rate.val = 6 ∧ width.val = 8 then 0 else 1) ∧
  ∀ dpc : Bool, Runs (.accelLinkDown p dpc) s fun r => r.fld (R.accLinkUp p.val) = 0 ∧
    r.fld (R.accDpc p.val) = (if dpc then 1 else s.fld (R.accDpc p.val)) ∧
    ∀ (j : WinKind) (n : Fin 8), (n = p → (r.win j n.val).qs = Vector.replicate 8 AccQ.zero ∧ (r.win j n.val).fld 4 1 = 0) ∧
      (n ≠ p → r.win j n.val = s.win j n.val)

/-- The feed: the entry the round-robin picks is taken; a NOP is taken, a COLLECTIVE entry joins its group's step with the blocks of its tensor that
this device handles retained, those of its SIDE and every block for a solo device, and one that fails a check keeps the lowest status code; the first
entry of a queue that may complete is written to the completion ring with PHASE, or is held while the ring has no room; a port with none of its own
completes one of the lost twin's (R269, R273, R275 to R277, Tables 8.4 to 8.6, R300). Stated with no twin to confirm. -/
def Obligations.FeedEntries : Prop := ∀ (s : State) (p q : Fin 8) (x : AccQ) (e : FeedEntry),
  s.held = false → s.fld R.twinState ≠ 5 → s.fld R.twinState ≠ 6 → s.feedReread p.val = none →
  (∀ d, s.feedPick p.val = none → (Runs (.feedNop p) s fun r => r = s) ∧ Runs (.feedCollective p d) s fun r => r = s) ∧
  (x = s.accQ .feed p.val q.val → s.feedPick p.val = some q.val →
    e = parseFeed ((s.win .feed p.val).mem.bytes (winEntryOff .feed q.val (x.taken % x.sqN)) 64) →
    let takes := fun (i : Instr) (st : Option Nat) (d : List Byte) => Runs i s fun r =>
      r.coll.taken = s.coll.taken ++ [⟨p.val, q.val, (s.win .feed p.val).gen, (x.taken % x.sqN + 1) % x.sqN, e, false, d,
        if s.fld R.btSolo = 1 then none else some (s.fld R.twinSide), st, false, false, false, []⟩] ∧
      r.accQ .feed p.val q.val = { x with taken := x.taken + 1 } ∧ (r.win .feed p.val).rr = (q.val + 1) % 8
    (e.op = 2 → e.rsv = false → takes (.feedNop p) none []) ∧
    (e.op = 2 → e.rsv = true → takes (.feedNop p) (some 2) []) ∧
    (∀ d, e.op = 2 → Runs (.feedCollective p d) s fun r => r = s) ∧
    (∀ d, e.op ≠ 2 → e.op ≠ 1 → takes (.feedCollective p d) (some 1) []) ∧
    (∀ d, e.op = 1 → e.rsv = true → takes (.feedCollective p d) (some 2) []) ∧
    (∀ d, e.op = 1 → e.rsv = false → s.groupE e.group = none → takes (.feedCollective p d) (some 3) []) ∧
    (∀ d g, e.op = 1 → e.rsv = false → s.groupE e.group = some g → bitAt g.accelMask p.val = false → takes (.feedCollective p d) (some 4) []) ∧
    ∀ (d : List Byte) (g : GroupE) (m : GroupRun), e.op = 1 → e.rsv = false → s.groupE e.group = some g → bitAt g.accelMask p.val = true →
      s.coll.groups.find? (fun r => r.group == e.group) = some m → e.step = m.expected[p] → g.coll ≠ 3 → e.src % 64 = 0 → e.dst % 64 = 0 →
      s.accOk p.val e.src (g.seg.blocks * g.seg.blockLen * fpBytes g.seg.infmt) = true →
      s.accOk p.val e.dst (g.seg.blocks * g.seg.blockLen * fpBytes g.seg.outfmt) = true →
      (m.faulted = false → takes (.feedCollective p (some d)) none
        (let n := g.seg.blockLen * fpBytes g.seg.infmt
         ((List.range g.seg.blocks).filter fun b => decide (s.fld R.btSolo = 1 ∨ b / g.split % 2 = s.fld R.twinSide)).flatMap fun b =>
          slice d (b * n) n)) ∧ (m.faulted = true → takes (.feedCollective p (some d)) (some 8) []) ∧
      takes (.feedCollective p none) (some 7) [] ∧
      Runs (.feedCollective p (some d)) s fun r => (r.groupRun e.group).expected[p] = (e.step + 1) % 2 ^ 32) ∧
  (feedFirst p.val q.val [] s.coll.taken = none → feedFirst (p.val + 8) q.val [] s.coll.taken = none →
    Runs (.feedCompletionPost p q) s fun r => r = s) ∧
  (∀ t : FeedTaken, feedFirst p.val q.val [] s.coll.taken = none → feedFirst (p.val + 8) q.val [] s.coll.taken = some t →
    Runs (.feedCompletionPost p q) s fun r => r.coll.taken = s.coll.taken.erase t) ∧
  ∀ t : FeedTaken, x = s.accQ .feed p.val q.val → feedFirst p.val q.val [] s.coll.taken = some t → t.gen = (s.win .feed p.val).gen →
    x.st = 1 ∨ x.st = 2 → x.cqBase ≠ 0 →
    (x.posted - x.released < x.cqN → Runs (.feedCompletionPost p q) s fun r => r.coll.taken = s.coll.taken.erase t ∧
      r.accQ .feed p.val q.val = { x with posted := x.posted + 1 } ∧ r.twin = s.twin ∧
      r.out = .accelWrite p.val (x.cqBase + 16 * (x.posted % x.cqN)) (withPhase (feedBody t) ((1 + x.posted / x.cqN) % 2)) :: s.out) ∧
    (x.cqN ≤ x.posted - x.released → Runs (.feedCompletionPost p q) s fun r => r.coll.taken = s.coll.taken.erase t ∧ r.wins = s.wins ∧
      r.out = s.out ∧ r.twin.held = s.twin.held ++ [(s.twin.applied, .acc .feed p.val q.val t.gen (feedBody t))])

/-! ## Collective cells and legs (spec/08) -/

/-- Cells received. One of another version is discarded and recorded; one of an older generation is counted stale, one of the next is held, and a held
one that no switch has claimed after 16 ns is stale. A cell that fits is taken: DATA and SCOUT inputs are stored until their leg's transmission
begins; on the hop path the last input of a REDUCE fragment lets the fragment leave, TENTATIVE, with the exact sum of its inputs, and off it a
fragment stays staged; values out of range are agreed on as 0x7FFF; a SCOUT_DOWN vector is agreed on; a VERDICT sets the fragments it names, a REJECT
being a cause of its step; and a distributed settle of 0 commits the step, of 1 or 2 within the group's limits replays it, of 3 faults the group (R284
to R298, Tables 8.9 to 8.12). -/
def Obligations.CellsReceived : Prop := ∀ (s : State) (p : Fin 33) (c : Cell) (t : Nat),
  let now := max s.time.now t
  let x := s.legRun c.leg
  let kinds := [(0, Instr.cellDataReceive p c false t), (1, .cellScoutReceive p c t), (2, .cellVerdictReceive p c t), (3, .cellSettleReceive p c t)]
  (∀ ki ∈ kinds, c.verMajor ≠ 1 → Runs ki.2 s fun r => r.coll = s.coll ∧
    Logged s r (if p.val = 32 then 4 else 2) c.srcRank 5 0xFF 3 (c.group + c.leg * 65536) c.step) ∧
  (∀ ki ∈ kinds, s.cellBad ki.1 c = none → ∀ d, d = (c.gen + 65536 - (s.groupRun c.group).gen) % 65536 →
    (32768 ≤ d → Runs ki.2 s fun r => r.coll = s.coll ∧ r.fld (R.collStale x.die) = min (s.fld (R.collStale x.die) + 1) (2 ^ (R.collStale x.die).w - 1)) ∧
    (d = 1 → Runs ki.2 s fun r => r.coll = { s.coll with stale := s.coll.stale ++ [(p.val, now, c)] } ∧ r.csr = s.csr)) ∧
  (∀ (h : Nat × Nat × Cell), s.coll.stale = [h] →
    (h.2.1 + 16 ≤ now → Runs (.staleHoldTimeout t) s fun r => r.coll = { s.coll with stale := [] } ∧
      r.fld (R.collStale (s.legRun h.2.2.leg).die) = min (s.fld (R.collStale (s.legRun h.2.2.leg).die) + 1)
        (2 ^ (R.collStale (s.legRun h.2.2.leg).die).w - 1)) ∧
    (now < h.2.1 + 16 → Runs (.staleHoldTimeout t) s fun r => r = s.advance t)) ∧
  ∀ (g : GroupE) (l : LegE) (m : GroupRun) (im : Image), s.beat.running = some im →
    let stored : FragIn := ⟨c.fragSeq, c.srcRank, c.flags, c.payload, none, false⟩
    let new := ∀ f ∈ x.ins, f.seq ≠ c.fragSeq
    (s.CellFits 0 c g l m → new → bitAt c.flags 1 = false → (l.kind = 2 ∨ l.kind = 3) → (l.needsExp g = true → expsHeld m c.firstBlock c.nblocks = true) →
      l.sends = true → x.tx = false ∨ l.hop = false → Runs (.cellDataReceive p c false t) s fun r => (r.legRun c.leg).ins = x.ins ++ [stored] ∧
        (r.legRun c.leg).outs = x.outs ∧ r.coll.groups = s.coll.groups ∧ r.net = s.net ∧ r.out = s.out) ∧
    (∀ (f : FragIn) (w n : Nat), s.CellFits 0 c g l m → x.ins = [f] → f.seq = 0 → c.fragSeq = 0 → f.src ≠ c.srcRank → f.flags = 8 → c.flags = 8 →
      l.kind = 2 → l.inCount = 2 → l.frags = 1 → l.local_ = false → l.owner = false → l.hop = true → x.rxFrom.isSome = true → l.txPort < 32 → l.txPort2 = 0xFF →
      l.inFmt = l.outFmt → w = esBytes l.outFmt → l.outFmt < 5 → x.tx = true → x.outs = [] → m.agreed.getD 0 = 0 → m.faulted = false →
      c.firstBlock = l.first g m.round 0 → c.nblocks = l.count g m.round 0 → 0 < c.nblocks → expsHeld m c.firstBlock c.nblocks = true →
      n = c.nblocks * g.seg.blockLen → f.payload.length = n * w →
      let val := fun (b : List Byte) (j : Nat) => (BitVec.ofNat (8 * w) (beNat (slice b (j * w) w))).toInt
      (∀ j, j < n → -(2 ^ (8 * w - 1)) ≤ val f.payload j + val c.payload j ∧ val f.payload j + val c.payload j < 2 ^ (8 * w - 1)) →
      Runs (.cellDataReceive p c false t) s fun r => (r.legRun c.leg).outs = [⟨0, false, true, 0, false⟩] ∧ ∃ pcp o,
        FrameQueued s r l.txPort (s.fld (R.txCellQueue l.txPort)) (.cell pcp false o) ∧ o.kind = 0 ∧ o.group = c.group ∧ o.step = m.step ∧
        o.round = m.round ∧ o.fragSeq = 0 ∧ o.payload.length = n * w ∧ ∀ j, j < n → val o.payload j = val f.payload j + val c.payload j) ∧
    (s.CellFits 1 c g l m → new → l.kind = 0 → l.sends = true → x.tx = false → Runs (.cellScoutReceive p c t) s fun r =>
      (r.legRun c.leg).ins = x.ins ++ [stored] ∧ (r.legRun c.leg).outs = x.outs ∧ r.net = s.net ∧ r.out = s.out) ∧
    (s.CellFits 1 c g l m → new → l.kind = 1 → x.tx = false → bitAt c.flags 1 = false → bitAt c.flags 2 = false → m.attempt = 0 → m.faulted = false →
      let sane := fun (v : Int) => if v = -32768 ∨ v = 32767 ∨ -149 ≤ v ∧ v ≤ 127 then v else 32767
      Runs (.cellScoutReceive p c t) s fun r => (r.groupRun c.group).agreed = some (m.agreed.getD 0) ∧
        ∀ j, j < c.nblocks → SMap.get (fun _ => none) (r.groupRun c.group).exps (c.firstBlock + j) =
          some (sane (BitVec.ofNat 16 (beNat (slice c.payload (2 * j) 2))).toInt)) ∧
    (∀ (f : FragIn) (lo hi : Nat) (v : Verdict), s.CellFits 2 c g l m → x.ins = [f] → f.src = c.srcRank → f.verdict = none →
      c.payload = natBe 2 lo ++ natBe 2 hi ++ natBe 1 v.outcome ++ natBe 1 v.cause ++ natBe 1 v.origin ++ [0] → lo < 65536 → hi < 65536 →
      v.outcome < 256 → v.cause < 256 → v.origin < 256 →
      (lo ≤ f.seq ∧ f.seq ≤ hi → Runs (.cellVerdictReceive p c t) s fun r => (r.legRun c.leg).ins = [{ f with verdict := some v }] ∧
        (r.groupRun c.group).causes = m.causes ++ if v.outcome = 1 then [v.origin] else []) ∧
      (¬(lo ≤ f.seq ∧ f.seq ≤ hi) → Runs (.cellVerdictReceive p c t) s fun r => (r.legRun c.leg).ins = [f] ∧ r.coll.groups = s.coll.groups)) ∧
    (s.CellFits 3 c g l m → new → l.kind = 4 → l.sends = true → x.tx = false → Runs (.cellSettleReceive p c t) s fun r =>
      (r.legRun c.leg).ins = x.ins ++ [stored] ∧ (r.legRun c.leg).outs = x.outs ∧ r.coll.groups = s.coll.groups ∧ r.out = s.out) ∧
    ∀ (v : Byte) (z : List Byte), s.CellFits 3 c g l m → x.ins = [] → l.kind = 5 → x.tx = false → c.payload = v :: z → s.ckpt.defn = none →
      (v = 0 → Runs (.cellSettleReceive p c t) s fun r => (r.groupRun c.group).step = (m.step + 1) % 2 ^ 32 ∧ (r.groupRun c.group).round = 0 ∧
        (r.groupRun c.group).attempt = 0 ∧
        (r.groupRun c.group).causes = (if m.redo.any (fun d => d.2 == (m.step + 1) % 2 ^ 32) = true then [4] else []) ∧
        r.coll.taken = s.coll.taken.map fun e =>
          if e.e.group = c.group ∧ e.e.step = m.step ∧ e.e.op = 1 ∧ e.status.isNone = true then { e with status := some 0, data := [], conv := [] } else e) ∧
      (v = 1 ∨ v = 2 → m.faulted = false → m.checks + (if v = 2 then 1 else 0) ≤ g.checkRetry → m.misses + (if v = 1 then 1 else 0) ≤ g.missRetry →
        Runs (.cellSettleReceive p c t) s fun r => (r.groupRun c.group).step = m.step ∧ (r.groupRun c.group).round = 0 ∧
          (r.groupRun c.group).attempt = (m.attempt + 1) % 256 ∧ (r.groupRun c.group).causes = [] ∧ (r.groupRun c.group).faulted = false) ∧
      (v = 3 → m.faulted = false → Runs (.cellSettleReceive p c t) s fun r => (r.groupRun c.group).faulted = true ∧
        r.reports = s.reports ++ [⟨0, 0x8000, 0x10000 + c.group⟩] ∧ ∀ e ∈ r.coll.taken, e.e.group = c.group → e.e.op = 1 → e.status.isSome = true)

/-- The windows of a leg and its Verdicts. When a receive window closes nothing more is taken, a missing input of a leg that has not begun to send is
counted, and a SCOUT_DOWN leg without a cell of each of its fragments, or a SETTLE_DOWN leg without its cell, faults its group; when a verdict window
closes every tentative fragment without a Verdict is rejected with cause 6; and the Verdict of an output fragment leaves once its tentative inputs
have theirs: ACCEPT without a cause, and otherwise REJECT with the cause, 5 for a REJECT received from upstream and 6 for a Verdict that never came,
reported to the health-and-repair Steward; before a window's time its command does nothing (R288, R291 to R294, Table 8.11). -/
def Obligations.LegWindows : Prop := ∀ (s : State) (leg t : Nat) (l : LegE) (g : GroupE) (m : GroupRun),
  let now := max s.time.now t
  let x := s.legRun leg
  s.legE leg = some l → s.groupE l.group = some g → s.coll.groups.find? (fun r => r.group == l.group) = some m →
  (∀ f, x.rxFrom = some f → now < f + 10 * l.rxSlots → (Runs (.receiveWindowClose leg t) s fun r => r = s.advance t) ∧
    Runs (.verdictWindowClose leg t) s fun r => r = s.advance t) ∧
  (∀ f, x.rxFrom = some f → f + 10 * l.rxSlots ≤ now → x.rxClosed = false →
    ((l.kind = 1 ∨ l.kind = 5) → Runs (.receiveWindowClose leg t) s fun r => (r.legRun leg).rxClosed = true ∧ (r.legRun leg).ins = x.ins ∧
      ((r.groupRun l.group).faulted = true ↔ m.faulted = true ∨ l.inCount ≠ 0 ∧ (l.kind = 5 ∧ x.ins = [] ∨
        l.kind = 1 ∧ ∃ i, i < l.frags ∧ l.count g m.round i ≠ 0 ∧ ∀ f ∈ x.ins, f.seq ≠ i))) ∧
    ((l.kind = 0 ∨ l.kind = 4 ∨ l.kind = 2 ∨ l.kind = 3) → l.sends = true → x.tx = false → Runs (.receiveWindowClose leg t) s fun r =>
      (r.legRun leg).rxClosed = true ∧ (r.legRun leg).ins = x.ins ∧ (r.legRun leg).outs = x.outs ∧ r.net = s.net) ∧
    ((l.kind = 2 ∨ l.kind = 3) → l.frags = 1 → 0 < l.count g m.round 0 → x.ins = [] → 0 < l.inCount → l.sends = true → x.tx = false →
      m.agreed.getD 0 = 0 → m.faulted = false → Runs (.receiveWindowClose leg t) s fun r => (r.groupRun l.group).causes = m.causes ++ [4] ∧
        r.fld (R.collMissed x.die) = min (s.fld (R.collMissed x.die) + l.inCount) (2 ^ (R.collMissed x.die).w - 1))) ∧
  (∀ f, x.rxFrom = some f → f + 10 * (l.rxSlots + l.verdictSlots) ≤ now → x.verdictClosed = false →
    let late := fun (i : FragIn) => bitAt i.flags 0 && i.verdict.isNone
    Runs (.verdictWindowClose leg t) s fun r => (r.legRun leg).verdictClosed = true ∧
      (r.legRun leg).ins = x.ins.map (fun i => if late i = true then { i with verdict := some ⟨1, 6, 6⟩, lapsed := true } else i) ∧
      (r.groupRun l.group).causes = m.causes ++ if x.ins.any late = true then [6] else []) ∧
  ∀ o : FragOut, x.outs = [o] → l.txPort < 32 → l.txPort2 = 0xFF → o.seq < 65536 → o.cause < 256 →
    let gives := fun (v : Verdict) => Runs (.verdictSend leg t) s fun r => (r.legRun leg).outs = [{ o with decided := true }] ∧ ∃ pcp c,
      FrameQueued s r l.txPort (s.fld (R.txCellQueue l.txPort)) (.cell pcp l.rv c) ∧ c.kind = 2 ∧ c.group = l.group ∧ c.step = m.step ∧
      c.payload = natBe 2 o.seq ++ natBe 2 o.seq ++ natBe 1 v.outcome ++ natBe 1 v.cause ++ natBe 1 v.origin ++ [0] ∧
      r.reports = s.reports ++ if v.outcome = 1 then [⟨0, 0x3000 + l.txPort / 8 % 4, v.cause + v.origin * 256⟩] else []
    (o.decided = true ∨ o.tentative = false → Runs (.verdictSend leg t) s fun r => r = s.advance t) ∧
    (o.decided = false → o.tentative = true → (∃ i ∈ x.ins, i.seq = o.seq ∧ bitAt i.flags 0 = true ∧ i.verdict = none) →
      Runs (.verdictSend leg t) s fun r => r = s.advance t) ∧
    (o.decided = false → o.tentative = true → (∀ i ∈ x.ins, i.seq = o.seq → bitAt i.flags 0 = true → ∃ v, i.verdict = some v ∧ v.outcome = 0) →
      gives (if o.cause = 0 then ⟨0, 0, 0⟩ else ⟨1, o.cause, if o.cause = 5 then 6 else o.cause⟩)) ∧
    ∀ (i : FragIn) (v : Verdict), o.decided = false → o.tentative = true → o.cause = 0 →
      (x.ins.filter fun f => f.seq == o.seq && bitAt f.flags 0) = [i] → i.verdict = some v → v.outcome = 1 → v.origin < 256 →
      gives (if i.lapsed = true then ⟨1, 6, 6⟩ else ⟨1, 5, min 6 v.origin⟩)

/-! ## The fabric transport (spec/09) -/

/-- The control operations of the transport, as a Steward issues them: CREATE makes a queue pair in RESET under a free number, or waits for one; the
end of a quarantine gives the number to the oldest CREATE that waits; MODIFY merges the attributes named, those that fix the wire only in RESET;
CONNECT chooses INIT_PSN, enters HELLO and sends it; RESET and DESTROY end it, the number going into quarantine for 4 ms; a context loads; a region is
registered under a key with its generation, and deregistered by that key (R29 to R32, R302 to R306, R311, R313, R314, Tables 9.1 and 9.5). Stated with
no twin to confirm, MODIFY to DESTROY with one queue pair. -/
def Obligations.TransportObjects : Prop := ∀ (s : State) (k : Fin 8) (t : Nat) (a : QpAttr),
  let now := max s.time.now t
  let src := CtlSrc.steward k
  let told := fun (r : State) (st v : Nat) => r.out = .toSteward k.val 0 st v :: s.out
  s.held = false →
  (∀ ring, s.qpCount < 65536 → s.qpAttrBad a = false → ring ≤ 63 → a.enc = false →
    ((∃ n, n < 65536 ∧ s.qp n = none ∧ ∀ x ∈ s.lft.quarantine, x.1 ≠ n) → Runs (.qpCreate src ring a) s fun r => ∃ n q, n < 65536 ∧ s.qp n = none ∧
      r.qp n = some q ∧ q.st = .reset ∧ q.owner = 64 ∧ q.a = a ∧ q.notifyRing = ring ∧ q.reqs = [] ∧ q.count = 0 ∧ told r 0 n ∧
      ∀ m, m ≠ n → r.qp m = s.qp m) ∧
    ((∀ n, n < 65536 → s.qp n ≠ none ∨ ∃ x ∈ s.lft.quarantine, x.1 = n ∧ s.time.now < x.2) → Runs (.qpCreate src ring a) s fun r =>
      r = { s with lft.creating := s.lft.creating ++ [(none, k.val, 64, ring, a)] })) ∧
  (∀ ring, s.qpCount < 65536 → s.qpAttrBad a = true ∨ 63 < ring → Runs (.qpCreate src ring a) s fun r => r.lft = s.lft ∧ told r 3 0) ∧
  (∀ n ring owner, s.lft.quarantine = [(n, t)] → s.qp n = none → s.lft.creating = [(none, k.val, owner, ring, a)] →
    Runs (.qpQuarantineEnd n t) s fun r => r.lft.quarantine = [] ∧ r.lft.creating = [] ∧ told r 0 n ∧
      ∃ q, r.qp n = some q ∧ q.st = .reset ∧ q.owner = owner ∧ q.a = a ∧ q.notifyRing = ring) ∧
  (∀ n q mask, s.QpAlone n q → q.owner = 64 → q.reqs = [] → q.Level → s.qpAttrBad (qpAttrMerge q.a a mask) = false → mask < 128 →
    (qpAttrMerge q.a a mask).enc = false →
    (q.st = .reset → Runs (.qpModify src n mask a) s fun r => told r 0 0 ∧ ∃ z, r.qp n = some z ∧ z.a = qpAttrMerge q.a a mask ∧ z.mtu = z.a.mtu ∧
      z.st = .reset ∧ z.count = q.count) ∧
    (q.st ≠ .reset → (bitAt mask 0 = true ∨ bitAt mask 1 = true ∨ bitAt mask 5 = true) → Runs (.qpModify src n mask a) s fun r =>
      told r 4 0 ∧ r.qp n = some q) ∧
    (q.st = .ready → bitAt mask 0 = false → bitAt mask 1 = false → bitAt mask 5 = false → Runs (.qpModify src n mask a) s fun r =>
      told r 0 0 ∧ ∃ z, r.qp n = some z ∧ z.a = qpAttrMerge q.a a mask ∧ z.mtu = q.mtu ∧ z.st = .ready ∧
      z.txEpoch = (q.txEpoch + if z.a.txSlot = q.a.txSlot then 0 else 1) % 65536)) ∧
  (∀ n q x, s.QpAlone n q → q.owner = 64 → q.st = .reset → Runs (.qpConnect src n t) s fun r => ∃ z, r.qp n = some z ∧ z.st = .hello ∧
    z.next = z.initPsn ∧ z.sent = z.initPsn ∧ z.acked = (z.initPsn + 2 ^ 32 - 1) % 2 ^ 32 ∧ z.armed = some now ∧ z.a = q.a ∧
    (s.PathUp q x → ∃ f, PktQueued s r q x f ∧ f.opcode = 6 ∧ f.psn = z.initPsn ∧
      f.payload = natLe 1 q.a.mtu ++ natLe 1 0 ++ List.replicate 6 0)) ∧
  (∀ n q, s.QpAlone n q → q.owner = 64 → q.st ≠ .reset → Runs (.qpConnect src n t) s fun r => r.lft = s.lft ∧ told r 4 0) ∧
  (∀ n q, s.QpAlone n q → q.owner = 64 → (∀ r ∈ q.reqs, r.work = none ∧ r.steward < 8) →
    (q.st ≠ .reset → Runs (.qpReset src n) s fun r => told r 0 0 ∧ ∃ z, r.qp n = some z ∧ z.st = .reset ∧ z.reqs = [] ∧ z.msgs = [] ∧
      z.marks = [] ∧ z.armed = none ∧ z.a = q.a ∧ z.count = q.count) ∧
    (q.st = .reset → q.reqs = [] → Runs (.qpReset src n) s fun r => told r 4 0 ∧ r.qp n = some q) ∧
    Runs (.qpDestroy src n t) s fun r => told r 0 0 ∧ r.qp n = none ∧ r.lft.quarantine = [(n, now + 4000000)]) ∧
  (∀ (n : Nat) (q : Qp), s.QpAlone n { q with resident := true } → q.owner = 64 → q.reqs = [] → q.Level →
    let u := { s with lft.qps := [(n, some { q with resident := false })] }
    (Runs (.qpContextLoaded n t) u fun r => r.lft.miss = [] ∧ r.fld R.lftCtxLoad = min (s.fld R.lftCtxLoad + 1) (2 ^ R.lftCtxLoad.w - 1) ∧
      ∃ z, r.qp n = some z ∧ z.resident = true ∧ z.st = q.st ∧ z.a = q.a ∧ z.next = q.next) ∧
    ∀ m p, p.destQpn = n → p.srcQpn ≠ q.a.peerQpn → Runs (.qpContextLoaded n t) { u with lft.miss := [(n, m, s.time.now, p)] } fun r =>
      r.lft.miss = [] ∧ Logged s r 2 0 7 0xFF 6 n p.psn) ∧
  (∀ base len acc, 0 < len → len < 2 ^ 38 → acc ≤ 3 → s.localOk 64 base len = true → s.inFwSpan base len = false →
    (∃ i, i < 16384 ∧ s.region i = none) → Runs (.regionRegister src base len acc) s fun r => ∃ i g, i < 16384 ∧ s.region i = none ∧
      g = (SMap.get (fun _ => 0) s.lft.gens i + 1) % 65536 ∧ told r 0 (i + g * 65536) ∧
      r.region i = some { inst := 64, base := base, len := len, read := bitAt acc 0, write := bitAt acc 1, gen := g } ∧
      ∀ j, j ≠ i → r.region j = s.region j) ∧
  (∀ base len acc, len = 0 ∨ 2 ^ 38 ≤ len ∨ 3 < acc → Runs (.regionRegister src base len acc) s fun r => r.lft = s.lft ∧ told r 3 0) ∧
  ∀ key g, s.region (key % 65536) = some g →
    (g.inst = 64 → g.gen = key / 65536 → Runs (.regionDeregister src key) s fun r => r.region (key % 65536) = none ∧ told r 0 0 ∧
      ∀ j, j ≠ key % 65536 → r.region j = s.region j) ∧
    (g.inst ≠ 64 ∨ g.gen ≠ key / 65536 → Runs (.regionDeregister src key) s fun r => r.lft = s.lft ∧ told r 3 0)

/-- Work requests on a ready queue pair, as a Steward posts them: a WRITE of one packet goes out with its data and takes the next PSN; a READ sends
its request and takes a PSN for each response; a WAIT completes once the count it names is reached, and otherwise stays until it is; without an active
path nothing goes out and the retry timer runs; a request on a queue pair in RESET or ERROR, or on none, ends with its status, as one with a reserved
OP does; and one whose local buffer is not its owner's fails the queue pair (R309, R315 to R317, R325 to R328, Table 9.7). Stated with one queue pair
and no twin to confirm. -/
def Obligations.WorkRequests : Prop := ∀ (s : State) (k : Fin 8) (b : LftBody) (t : Nat) (n : Nat) (q : Qp) (x : LftPath),
  let now := max s.time.now t
  let src := LftSrc.steward k
  let told := fun (r : State) (st : Nat) => r.out = .toSteward k.val b.tag st 0 :: s.out
  let posts := [Instr.lftWrite src b t, .lftRead src b t, .lftWait src b t]
  s.QpAlone n q → q.owner = 64 → q.reqs = [] → q.Level →
  (∀ i ∈ posts, b.qpn ≠ n → Runs i s fun r => told r 1 ∧ r.qp n = some q) ∧
  (∀ i ∈ posts, b.qpn = n → q.st = .reset → Runs i s fun r => told r 3 ∧ r.lft.qps = [(n, some { q with used := s.lft.clock + 1 })]) ∧
  (∀ i ∈ posts, b.qpn = n → q.st = .error → Runs i s fun r => told r 0xF ∧ r.lft.qps = [(n, some { q with used := s.lft.clock + 1 })]) ∧
  (∀ i ∈ posts, b.qpn = n → q.st = .ready → b.rsvOp = true → Runs i s fun r => told r 1 ∧ ∃ z, r.qp n = some z ∧ z.st = .error ∧ z.reqs = []) ∧
  (b.qpn = n → q.st = .ready → b.rsvOp = false → b.rsv = false → b.wait = false → 0 < b.len → b.len ≤ 2 ^ 31 →
    (s.localOk 64 b.laddr b.len = false → ∀ i, i = Instr.lftWrite src b t ∨ i = .lftRead src b t → Runs i s fun r => told r 2 ∧
      ∃ z, r.qp n = some z ∧ z.st = .error ∧ z.reqs = []) ∧
    (s.localOk 64 b.laddr b.len = true → s.nextPath q = none → q.armed = none → psnAdd q.acked 1 = q.sent →
      Runs (.lftWrite src b t) s fun r => r.net = s.net ∧ r.out = s.out ∧ ∃ z, r.qp n = some z ∧ z.reqs.length = 1 ∧ z.sent = q.next ∧
        z.armed = some now) ∧
    (s.localOk 64 b.laddr b.len = true → s.PathUp q x → s.hbm.bad = [] → s.hbm.soft = [] → psnAdd q.acked 1 = q.sent →
      (b.len ≤ mtuBytes q.mtu → Runs (.lftWrite src b t) s fun r => ∃ z f, r.qp n = some z ∧ z.next = psnAdd q.next 1 ∧ z.sent = z.next ∧
        z.reqs.length = 1 ∧ z.armed.isSome = true ∧ r.out = s.out ∧ PktQueued s r q x f ∧ f.opcode = 1 ∧ f.psn = q.next ∧ f.msgPsn = q.next ∧
        f.msgLen = b.len ∧ f.msgOffset = 0 ∧ f.raddr = b.raddr ∧ f.rkey = b.rkey ∧ f.flags = 1 + (if b.notify then 2 else 0) ∧
        f.payload = s.hbmBytes b.laddr b.len) ∧
      Runs (.lftRead src b t) s fun r => ∃ z f, r.qp n = some z ∧ z.next = psnAdd q.next (packetsOf b.len q.mtu) ∧ z.sent = z.next ∧
        z.reqs.length = 1 ∧ r.out = s.out ∧ PktQueued s r q x f ∧ f.opcode = 2 ∧ f.psn = q.next ∧ f.msgLen = b.len ∧ f.raddr = b.raddr ∧
        f.rkey = b.rkey ∧ f.payload = [])) ∧
  (b.qpn = n → q.st = .ready → b.rsvOp = false → b.rsv = false → b.len = 0 → b.waitQpn = n →
    (psnDiff q.count b.waitCount < 2 ^ 31 → Runs (.lftWait src b t) s fun r => told r 0 ∧ ∃ z, r.qp n = some z ∧ z.reqs = [] ∧
      z.count = (q.count + 1) % 2 ^ 32 ∧ z.next = q.next) ∧
    (2 ^ 31 ≤ psnDiff q.count b.waitCount → Runs (.lftWait src b t) s fun r => r.out = s.out ∧ ∃ z w, r.qp n = some z ∧ z.reqs = [w] ∧
      w.op = 3 ∧ w.b = b ∧ w.started = false ∧ z.count = q.count)) ∧
  ∀ w : LftReq, w.op = 3 → w.b.waitQpn = n → w.started = false → w.bad = none → w.work = none → w.steward < 8 → q.st = .ready →
    let u := { s with lft.qps := [(n, some { q with reqs := [w] })] }
    (psnDiff q.count w.b.waitCount < 2 ^ 31 → Runs (.waitMet n t) u fun r => r.out = .toSteward w.steward w.b.tag 0 0 :: s.out ∧
      ∃ z, r.qp n = some z ∧ z.reqs = [] ∧ z.count = (q.count + 1) % 2 ^ 32) ∧
    (2 ^ 31 ≤ psnDiff q.count w.b.waitCount → Runs (.waitMet n t) u fun r => r = u.advance t)

/-- Packets at a ready queue pair and its timers. A WRITE of one packet at the edge is placed in its region, acknowledged, and moves the edge; one at
or before the edge is a duplicate, one beyond the window is recorded; a READ_REQ is answered from its region; a READ_RESP is placed and completes its
read; an ACK completes the writes it covers, and one beyond what was sent fails the queue pair; a NAK fails the request it names with its status;
HELLO and HELLO_ACK make a queue pair in HELLO ready, HELLO being answered; the retry timer sends again, and at the limit fails the queue pair with
status 4; 2 µs after an unacknowledged arrival an ACK is due; a notify completion that waited for its ring is posted (R309 to R323, R330, R513, Tables
9.5 and 9.7). Stated with one queue pair and no twin to confirm. -/
def Obligations.TransportPackets : Prop := ∀ (s : State) (m : Fin 33) (p : LftPkt) (t : Nat) (n : Nat) (q : Qp) (x : LftPath),
  let now := max s.time.now t
  m.val < 32 → s.QpAlone n q → q.Level → s.fld R.hbmWorkMib ≤ 36864 → s.hbm.bad = [] → s.hbm.soft = [] →
  (s.PktFits n q p now → q.st = .ready → q.reqs = [] → q.marks = [] → q.msgs = [] →
    (∀ base, p.psn = psnAdd q.edge 1 → p.msgPsn = p.psn → p.msgOffset = 0 → 0 < p.msgLen → p.msgLen ≤ mtuBytes q.mtu → p.msgLen ≤ 2 ^ 31 →
      (s.regionCheck q p.rkey p.raddr p.msgLen true = .ok base → p.payload.length = p.msgLen → p.payloadLen = p.msgLen → bitAt p.flags 1 = false →
        Runs (.lftWritePacket m p t) s fun r => StoredWork s r (base + p.raddr) p.payload ∧ ∃ z, r.qp n = some z ∧ z.edge = p.psn ∧ z.marks = [] ∧
          z.msgs = [] ∧ z.since = 0 ∧ z.ackFrom = none ∧
          (s.PathUp q x → ∃ f, PktQueued s r q x f ∧ f.opcode = 4 ∧ f.psn = p.psn ∧ f.payload = List.replicate 8 0)) ∧
      (s.regionCheck q p.rkey p.raddr p.msgLen false = .ok base → s.PathUp q x → Runs (.lftReadReqPacket m p t) s fun r => SameMem s r ∧
        ∃ z f, r.qp n = some z ∧ z.edge = p.psn ∧ z.marks = [] ∧ z.msgs = [] ∧ PktQueued s r q x f ∧ f.opcode = 3 ∧ f.psn = p.psn ∧
          f.msgPsn = p.psn ∧ f.flags = 1 ∧ f.payload = s.hbmBytes (base + p.raddr) p.msgLen)) ∧
    (lftConsistent q p = true → 4096 < psnDiff p.psn q.edge → psnDiff p.psn q.edge < 2 ^ 31 → Runs (.lftWritePacket m p t) s fun r => SameMem s r ∧
      Logged s r 2 0 7 0xFF 5 n p.psn ∧ r.fld R.lftOutWindow = min (s.fld R.lftOutWindow + 1) (2 ^ R.lftOutWindow.w - 1)) ∧
    (lftConsistent q p = true → psnAfter p.psn q.edge = false → Runs (.lftWritePacket m p t) s fun r => SameMem s r ∧
      r.fld R.lftDup = min (s.fld R.lftDup + 1) (2 ^ R.lftDup.w - 1) ∧ ∃ z, r.qp n = some z ∧ z.edge = q.edge)) ∧
  (∀ w : LftReq, s.PktFits n q p now → q.st = .ready → q.reqs = [w] → w.started = true → w.bad = none → w.work = none → w.steward < 8 → w.n = 1 →
    w.inl = none → w.psn = psnAdd q.acked 1 → q.sent = psnAdd w.psn 1 →
    let ends := fun (r : State) (st : Nat) => r.out = .toSteward w.steward w.b.tag st 0 :: s.out
    (w.op = 2 → w.got = [] → p.psn = w.psn → p.msgPsn = p.psn → p.msgOffset = 0 → p.msgLen = w.b.len → p.payload.length = p.msgLen →
      p.payloadLen = p.msgLen → 0 < p.msgLen → p.msgLen ≤ mtuBytes q.mtu → p.msgLen ≤ 2 ^ 31 → w.b.laddr + p.msgLen ≤ s.workTop →
      Runs (.lftReadRespPacket m p t) s fun r => StoredWork s r w.b.laddr p.payload ∧ Emit.toSteward w.steward w.b.tag 0 0 ∈ r.out ∧
        ∃ z, r.qp n = some z ∧ z.reqs = [] ∧ z.acked = p.psn ∧ z.armed = none ∧ z.count = (q.count + 1) % 2 ^ 32) ∧
    (w.op = 1 → p.psn = w.psn → Runs (.lftAckPacket m p t) s fun r => ends r 0 ∧ SameMem s r ∧ ∃ z, r.qp n = some z ∧ z.reqs = [] ∧
      z.acked = p.psn ∧ z.armed = none ∧ z.k = 0 ∧ z.count = (q.count + 1) % 2 ^ 32) ∧
    (p.psn = q.sent → Runs (.lftAckPacket m p t) s fun r => ends r 0xA ∧ Logged s r 2 0 7 0xFF 5 n p.psn ∧
      ∃ z, r.qp n = some z ∧ z.st = .error ∧ z.reqs = []) ∧
    (∀ c st, p.psn = w.psn → p.payload = natLe 1 c ++ [0, 0, 0] → (c, st) ∈ [(1, 5), (2, 6), (3, 7), (4, 8), (5, 0xD), (6, 9), (7, 0xA)] →
      Runs (.lftNakPacket m p t) s fun r => ends r st ∧ ∃ z, r.qp n = some z ∧ z.st = .error ∧ z.reqs = [] ∧ z.armed = none) ∧
    (∀ a, q.armed = some a → s.fld R.ftState ≠ 0 → q.a.retryLimit ≠ 0 → q.a.retryLimit ≤ q.k → a + min (16000 * 2 ^ q.k) 4000000 ≤ now →
      Runs (.lftRetryTimeout n t) s fun r => ends r 4 ∧ ∃ z, r.qp n = some z ∧ z.st = .error ∧ z.reqs = [])) ∧
  (∀ u e z, s.PktFits n q p now → q.st = .hello → q.reqs = [] → p.payload = u :: e :: z → u.toNat ≤ 3 →
    let made := fun (r : State) => ∃ w, r.qp n = some w ∧ w.st = .ready ∧ w.peerPsn = p.psn ∧ w.edge = (p.psn + 2 ^ 32 - 1) % 2 ^ 32 ∧
      w.mtu = min q.a.mtu u.toNat ∧ w.armed = none ∧ w.next = q.next
    (Runs (.lftHelloPacket m p t) s fun r => made r ∧ (s.PathUp q x → ∃ f, PktQueued s r q x f ∧ f.opcode = 7 ∧ f.psn = q.initPsn)) ∧
    Runs (.lftHelloAckPacket m p t) s fun r => made r ∧ r.net = s.net) ∧
  (∀ a, q.reqs = [] → q.armed = some a → now < a + min (16000 * 2 ^ q.k) 4000000 → Runs (.lftRetryTimeout n t) s fun r => r.lft.qps = s.lft.qps ∧ r.out = s.out) ∧
  (∀ a, q.armed = some a → s.fld R.ftState ≠ 0 → q.st = .hello → q.reqs = [] → q.k < q.a.retryLimit → a + min (16000 * 2 ^ q.k) 4000000 ≤ now →
    Runs (.lftRetryTimeout n t) s fun r => (∃ z, r.qp n = some z ∧ z.k = q.k + 1 ∧ z.armed = some now ∧ z.st = .hello) ∧
      (s.PathUp q x → ∃ f, PktQueued s r q x f ∧ f.opcode = 6 ∧ f.psn = q.initPsn)) ∧
  (∀ f, q.ackFrom = some f → (now < f + 2000 → Runs (.ackDelayTimer n t) s fun r => r = s.advance t) ∧
    (f + 2000 ≤ now → q.st = .ready → Runs (.ackDelayTimer n t) s fun r => (∃ z, r.qp n = some z ∧ z.ackFrom = none ∧ z.since = 0 ∧ z.edge = q.edge) ∧
      (s.PathUp q x → ∃ a, PktQueued s r q x a ∧ a.opcode = 4 ∧ a.psn = q.edge))) ∧
  ∀ (i : InstId) (ri : Fin 64) (g : Ring) (qn len psn : Nat), g = s.ring i.val ri.val →
    let u := { s with lft.qps := [], twin.held := [(0, .notify i.val ri.val qn len psn)] }
    (g.cqN ≤ g.posted - g.released → Runs (.notifyCompletionPost i ri) u fun r => r = u) ∧
    (g.posted - g.released < g.cqN → g.st = .active → g.unsig + 1 < g.coalCount → Runs (.notifyCompletionPost i ri) u fun r =>
      r.twin.held = [] ∧ (r.ring i.val ri.val).posted = g.posted + 1 ∧ r.out = .hostWrite i.val (g.cqBase + 16 * (g.posted % g.cqN))
        (natLe 2 0xFFFF ++ natLe 1 0 ++ natLe 1 ((1 + g.posted / g.cqN) % 2 + 2) ++ natLe 2 g.gen ++ natLe 2 qn ++ natLe 4 len ++ natLe 4 psn) :: s.out)

/-! ## Network ports (spec/10, spec/11) -/

/-- Links, modes, frames in and out, and the match tables. A link comes up on an enabled port, stated with no queue pair, and goes down with its fault
shown; a port that is enabled or goes down advertises the one ability of its mode and PMD where it negotiates, and negotiation succeeds when the
partner offers it; a write of MODE is refused while a port of the octet is enabled; enabling a port, or writing a shaper register of a queue, loads
the buckets full; a received frame is counted and discarded for its FCS, its size, a full ingress buffer or as a pause frame, handed on when the
fabric lane takes it, and otherwise goes where the tables or the port's default say, through the reorder stage, from which it leaves for its port's
queue or is counted there; a Steward's frame goes where it says, waiting for space; a port sends nothing before its last frame has ended, then its
time frames, a Sync taking the time it leaves at, then the front of its cell queue or else of its highest queue with a frame, where that queue is open
and not shaped; a TX descriptor ends with the first status that holds or puts its frame in its queue, and an RX descriptor posts its buffer; WRITE,
READ and COMMIT act on the shadow tables, and a finished COMMIT puts them in effect (R333 to R338, R344, R348 to R353, R355, R359, R365). -/
def Obligations.NetworkPorts : Prop := ∀ (s : State) (p : Fin 32) (t : Nat),
  let now := max s.time.now t
  let counts := fun (r : State) (i : Nat) => r.fld (R.portCnt p.val i) = min (s.fld (R.portCnt p.val i) + 1) 65535 ∧ r.net = s.net ∧ r.out = s.out
  let mine : Ability := { mode := s.fld (R.octMode (p.val / 8)), pmd := s.fld (R.portPmd p.val) }
  let full := fun (r : State) (q : Fin 8) => (r.eg p.val).c[q] = ⟨r.fld (R.qCbs p.val q.val) * 64 * bucketByte, now * 65536⟩ ∧
    (r.eg p.val).p[q] = ⟨r.fld (R.qPbs p.val q.val) * 64 * bucketByte, now * 65536⟩
  (s.isPort p.val = true → s.fld (R.portEn p.val) = 1 → s.fld (R.portPmd p.val) ≠ 3 → (s.portAn p.val = true → s.fld (R.portStat p.val 1) = 1) → s.lft.qps = [] →
    Runs (.portLinkUp p) s fun r => r = { s with csr := r.csr } ∧ r.fld (R.portLinkUp p.val) = 1 ∧ r.fld (R.portStat p.val 3) = 1 ∧
      r.fld (R.portStat p.val 4) = 0 ∧ r.fld (R.portStat p.val 5) = 0) ∧
  (s.fld (R.portEn p.val) = 0 ∨ s.fld (R.portPmd p.val) = 3 → Runs (.portLinkUp p) s fun r => r = s) ∧
  (∀ rf hs : Bool, s.isPort p.val = true → Runs (.portLinkDown p rf hs) s fun r => r = { s with csr := r.csr, out := r.out } ∧
    r.out = (if s.fld (R.portEn p.val) = 1 ∧ s.portAn p.val = true then [.anAdvert p.val mine] else []) ++ s.out ∧
    r.fld (R.portLinkUp p.val) = 0 ∧ r.fld (R.portStat p.val 3) = 0 ∧ r.fld (R.portStat p.val 1) = 0 ∧ r.fld (R.portStat p.val 4) = (if hs then 1 else 0) ∧
    r.fld (R.portStat p.val 5) = if rf then 1 else 0) ∧
  (∀ l : List Ability, s.isPort p.val = true → s.fld (R.portEn p.val) = 1 → s.portAn p.val = true → Runs (.anComplete p l) s fun r =>
    r = { s with csr := r.csr } ∧ r.fld (R.portStat p.val 1) = (if mine ∈ l then 1 else 0) ∧ r.fld (R.portStat p.val 2) = if mine ∈ l then 0 else 1) ∧
  (∀ k m : Fin 4, (m.val = s.fld (R.octMode k.val) → Runs (.octetModeWrite k m) s fun r => r = s) ∧
    (m.val ≠ s.fld (R.octMode k.val) → (∃ i, i < 8 ∧ s.fld (R.portEn (8 * k.val + i)) = 1) → Runs (.octetModeWrite k m) s fun r =>
      r = { s with csr := r.csr } ∧ r.fld (R.octModeErr k.val) = 1 ∧ r.fld (R.octMode k.val) = s.fld (R.octMode k.val)) ∧
    (m.val ≠ s.fld (R.octMode k.val) → (∀ i, i < 8 → s.fld (R.portEn (8 * k.val + i)) = 0) → Runs (.octetModeWrite k m) s fun r =>
      r.fld (R.octMode k.val) = m.val ∧ r.fld (R.octModeErr k.val) = s.fld (R.octModeErr k.val))) ∧
  (s.isPort p.val = true → s.fld (R.portEn p.val) = 0 → Runs (.portEnable p t) s fun r => r.fld (R.portEn p.val) = 1 ∧ r.time.now = now ∧
    (∀ q : Fin 8, full r q) ∧
    r.out = (if s.portAn p.val = true then [.anAdvert p.val mine] else []) ++ s.out) ∧
  (∀ (q : Fin 8) (reg : Fin 4) (v : Word) (i : RegInfo), s.isPort p.val = true → regInfo (R.qKey p.val q.val + 4 * reg.val) = some i →
    Runs (.queueShaperWrite p q reg v t) s fun r => r.csr.get (R.qKey p.val q.val + 4 * reg.val) = v &&& BitVec.ofNat 32 i.rw ∧ full r q) ∧
  (∀ (d : List Byte), let rx := fun (fcs fec : Bool) => Instr.frameReceive p d fcs fec none t
    let h := parseFrame d false
    let fits := ∀ k : Fin 4, k.val = p.val / 8 → ((s.net.ingress[k]).map fun x => x.2.length + 4).sum + d.length + 4 ≤ 262144
    (∀ fcs fec, s.portUp p.val = false → Runs (rx fcs fec) s fun r => r = s.advance t) ∧
    (s.portUp p.val = true →
      (Runs (rx false true) s fun r => counts r 0) ∧
      (9216 < d.length + 4 → Runs (rx true true) s fun r => counts r 1) ∧
      (d.length + 4 < 64 → Runs (rx true true) s fun r => r = s.advance t) ∧
      (64 ≤ d.length + 4 → d.length + 4 ≤ 9216 → ¬fits → Runs (rx true true) s fun r => counts r 2) ∧
      (64 ≤ d.length + 4 → d.length + 4 ≤ 9216 → fits → beAt d 12 2 = 0x8808 → Runs (rx true true) s fun r => counts r 3) ∧
      (64 ≤ d.length + 4 → d.length + 4 ≤ 9216 → fits → beAt d 12 2 ≠ 0x8808 → s.fld (R.secyEn p.val) = 0 →
        (h.csumOk = false → Runs (rx true true) s fun r => counts r 6) ∧
        (h.csumOk = true → s.fld (R.portFabric p.val) = 1 → h.has 8 = true → Runs (rx true true) s fun r =>
          r.out = .handed p.val 0 d :: s.out ∧ r.net = s.net) ∧
        (h.csumOk = true → s.fld (R.portFabric p.val) = 1 → h.has 8 = false → h.has 9 = true ∨ h.has 10 = true → Runs (rx true true) s fun r =>
          r.out = .handed p.val 1 d :: s.out ∧ r.net = s.net) ∧
        (h.csumOk = true → s.fld (R.portFabric p.val) = 0 → (∀ k : Fin 4, k.val = p.val / 8 → (s.stage k).length < 512 ∧ s.net.ingress[k] = []) →
          (∀ die : Fin 2, die.val = p.val / 16 → s.cls.active = [] → (h.has 7 = false ∨ s.isLocal p.val h.dst = false) →
            (h.has 11 = true ∨ h.has 12 = true ∨ h.has 13 = true ∨ h.has 14 = true ∨ s.fld (R.portDefSteward p.val) = 1) →
            s.net.slowNext[die] + 500 ≤ now → s.net.slow[die].length < 2048 → Runs (rx true true) s fun r =>
              r.net.slow[die] = s.net.slow[die] ++ [(p.val, d)] ∧ r.out = s.out) ∧
          ∀ (k : Fin 4) (i o q : Nat) (w : List Word), k.val = p.val / 8 → s.clsLookup 1 (s.clsKey 1 p.val 0 d h) = some (i, w) →
            imgWord w 24 = 10 → clsDest (imgWord w 25) = .port o q → Runs (rx true true) s fun r => ∃ mw,
              r.stage k = s.stage k ++ [{ port := p.val, tag := s.net.tags[p], pipe := s.net.pipe[k], mw := mw, data := d, dest := .port o q, mirror := none }] ∧ r.net.tags = s.net.tags.set p.val (s.net.tags[p] + 1) ∧ r.net.pipe = s.net.pipe.set k.val ((s.net.pipe[k] + 1) % 4) ∧ r.out = s.out)))) ∧
  (∀ (k : Fin 4) (o q mw tag pipe : Nat) (d : List Byte), k.val = p.val / 8 → s.net.ingress[k] = [] →
    let e : RxEntry := { port := p.val, tag := tag, pipe := pipe, mw := mw, data := d, dest := .port o q, mirror := none }
    s.stage k = [e] →
    (s.portUp o = true → s.room o q ((s.advance t).egFrame o (.raw d)) = true → Runs (.reorderRelease p t) s fun r =>
      r.stage k = [] ∧ FrameQueued s r o q (.raw d)) ∧
    (s.portUp o = false ∨ s.room o q ((s.advance t).egFrame o (.raw d)) = false → Runs (.reorderRelease p t) s fun r => r.stage k = [] ∧
      r.fld (R.portCnt p.val 4) = min (s.fld (R.portCnt p.val 4) + 1) 65535)) ∧
  (∀ (die : Fin 2) (o q : Nat) (d : List Byte), o < 32 → s.portUp o = true →
    (s.stewardOff 3 = false → Runs (.slowPathReinject die p (.port o q) d t) s fun r => r.net.slow[die] = s.net.slow[die].drop 1 ∧
      FrameQueued s r o q (.raw d)) ∧
    (s.stewardOff 3 = true → Runs (.slowPathReinject die p (.port o q) d t) s fun r => r = s.advance t)) ∧
  (∀ (tab : Fin 4) (ix : Fin 8192), let key := tab.val * 8192 + ix.val
    let fits := ix.val < (match tab.val with | 0 => 64 | 1 => 1024 | 2 => 8192 | _ => 4096)
    (fits → s.fld R.clsBusy = 0 → Runs (.clsWrite tab ix) s fun r => SMap.get clsZero r.cls.shadow key = (List.range 32).map (fun j => s.csr.get (R.clsData j)) ∧
      r.fld R.clsPending = 1 ∧ r.cls.active = s.cls.active ∧ ∀ k, k ≠ key → SMap.get clsZero r.cls.shadow k = SMap.get clsZero s.cls.shadow k) ∧
    (¬fits ∨ s.fld R.clsBusy = 1 → Runs (.clsWrite tab ix) s fun r => r.cls = s.cls) ∧
    (fits → s.fld R.clsBusy = 0 → s.cls.sel = none → Runs (.clsRead tab ix) s fun r => r.cls.shadow = s.cls.shadow ∧ r.cls.active = s.cls.active ∧
      (∀ j, j < 32 → r.csr.get (R.clsData j) = ((SMap.get clsZero s.cls.shadow key)[j]?).getD 0) ∧
      r.fld R.clsHits = SMap.get (fun _ => 0) s.cls.hits key % 2 ^ 32)) ∧
  (s.fld R.clsBusy = 1 → Runs .clsCommit s fun r => r = s) ∧
  (s.fld R.clsBusy = 0 → (∀ e ∈ s.cls.shadow, clsValid (e.1 / 8192) e.2 = true → clsBad (e.1 / 8192) e.2 = false) → Runs .clsCommit s fun r =>
    r.fld R.clsBusy = 1 ∧ r.cls = s.cls) ∧
  (∀ e, s.fld R.clsBusy = 0 → s.cls.shadow = [e] → e.1 < 4 * 8192 → clsValid (e.1 / 8192) e.2 = true → clsBad (e.1 / 8192) e.2 = true →
    Runs .clsCommit s fun r => r.fld R.clsErr = 1 ∧ r.fld R.clsErrTable = e.1 / 8192 ∧ r.fld R.clsErrIndex = e.1 % 8192 ∧ r.fld R.clsBusy = 0) ∧
  (s.fld R.clsBusy = 1 → Runs .clsCommitDone s fun r => r.cls.active = s.cls.shadow ∧ r.fld R.clsGen = (s.fld R.clsGen + 1) % 65536 ∧
    r.fld R.clsPending = 0 ∧ r.fld R.clsBusy = 0) ∧
  (s.fld R.clsBusy = 0 → Runs .clsCommitDone s fun r => r = s) ∧
  (s.net.txWait = [] → (∀ o : Fin 32, (s.eg o.val).wait = []) → let u := s.advance (t / 65536)
    let e := s.eg p.val
    (t < e.busy ∨ s.portUp p.val = false → Runs (.egressArbitration p t) s fun r => r = u) ∧
    (e.busy ≤ t → s.portUp p.val = true → s.fld (R.secyEn p.val) = 0 →
      (∀ f fs d, e.tq = f :: fs → f.frame = .raw d → Runs (.egressArbitration p t) s fun r => r.out = .frame p.val none (.raw d) :: s.out ∧
        (r.eg p.val).tq = fs ∧ (r.eg p.val).q = e.q) ∧
      (∀ f fs m x, e.tq = f :: fs → f.frame = .ptp 0 m → x = ((t - t % 16384 : Nat) + (s.laneConst ⟨p.val, by omega⟩).egress).toNat →
        Runs (.egressArbitration p t) s fun r => r.out = .frame p.val none (.ptp 0 { m with stamp := x - x % 65536, correction := m.correction + (x % 65536 : Nat) }) :: s.out ∧ (r.eg p.val).tq = fs) ∧
      (e.tq = [] → s.fld (R.rindTxCeil p.val) = 0 → Runs (.egressArbitration p t) s fun r => r.out = s.out ∧ (r.eg p.val).q = e.q) ∧
      ∀ (q : Fin 8) (f : EgFrame) (fs : List EgFrame) (d : List Byte), e.tq = [] → s.fld (R.rindTxCeil p.val) ≠ 0 → 0 ≤ e.rind.lvl →
        e.queue q.val = f :: fs → u.eligible p.val q.val t f = true → f.frame = .raw d →
        (q.val = s.fld (R.txCellQueue p.val) ∨ s.fld (R.qShapeEn p.val q.val) = 0 ∧ (∀ z : Fin 8, q < z → e.queue z.val = []) ∧
          e.queue (s.fld (R.txCellQueue p.val)) = []) →
        Runs (.egressArbitration p t) s fun r => r.out = .frame p.val none (.raw d) :: s.out ∧ (r.eg p.val).queue q.val = fs ∧
          ∀ z : Fin 8, z ≠ q → (r.eg p.val).queue z.val = e.queue z.val)) ∧
  ∀ (i : InstId) (ri : Fin 64), s.net.txWait = [] → s.txCeilOf i.val = 0 →
    (∀ d : TxDesc, s.RingReady i.val ri.val 3 →
      let tx := Instr.txDescriptor i ri d t
      let st := if d.rsv = true ∨ d.len < 60 ∨ 9212 < d.len ∨ 7 < d.cls ∨ 31 < d.port then 1 else if s.portUp d.port = false then 2
        else if s.hostOk i.val d.addr d.len = false then 3 else if ∃ b, d.data = some b ∧ b.length = d.len then 0 else 4
      (st ≠ 0 → Runs tx s fun r => RingDone s r i.val ri.val d.tag st 0 0 ∧ r.net = s.net) ∧
      ∀ b, st = 0 → d.data = some b → s.room d.port (s.classQueue d.port d.cls) (s.egFrame d.port (.raw b)) = true →
        Runs tx s fun r => RingDone s r i.val ri.val d.tag 0 0 0 ∧ FrameQueued s r d.port (s.classQueue d.port d.cls) (.raw b) ∧ r.net.txWait = []) ∧
    (∀ (tag len addr : Nat) (rsv : Bool), s.RingReady i.val ri.val 4 →
      (rsv = false → 64 ≤ len → len ≤ 9212 → s.hostOk i.val addr len = true → Runs (.rxDescriptor i ri tag len addr rsv) s fun r =>
        RingTook s r i.val ri.val ∧ ∃ w, r.net.rxBufs = s.net.rxBufs ++ [{ work := w, len := len, addr := addr }] ∧ w.inst = i.val ∧
          w.ring = ri.val ∧ w.tag = tag) ∧
      (rsv = true ∨ len < 64 ∨ 9212 < len → Runs (.rxDescriptor i ri tag len addr rsv) s fun r => RingDone s r i.val ri.val tag 1 0 0 ∧
        r.net = s.net)) ∧
    ∀ (o q : Nat) (d : List Byte) (w : Work), s.Still → s.held = false → w.inst = i.val → w.ring = ri.val →
      (s.room o q (s.egFrame o (.raw d)) = true → Runs (.tokenBucketRefilled t) { s with net.txWait := [(o, q, .raw d, w)] } fun r =>
        r.net.txWait = [] ∧ FrameQueued s r o q (.raw d)) ∧
      ∀ (u : State) (ws : List (Nat × Nat × Frame × Work)), u.Still → u.net.txWait = (o, q, .raw d, w) :: ws → o < 32 → q < 8 →
        ((u.advance t).txReady (o, q, .raw d, w) = true → Runs (.tokenBucketRefilled t) u fun r => r.net.txWait.length ≤ ws.length ∧
          ∃ f ∈ (r.eg o).queue q, f.frame = .raw d) ∧
        ((∀ x ∈ u.net.txWait, (u.advance t).txReady x = false) → Runs (.tokenBucketRefilled t) u fun r => r.net = u.net ∧ r.out = u.out)

/-! ## Cipher engines and key slots (spec/12) -/

/-- A request ends with the lowest status whose condition holds: a malformed request, a bad length, an empty slot, a slot of the other mode, a slot of
another instance, an uncorrectable source, a comparison that failed twice, a tag that does not verify; its result is written only when every check
passed. KEY_WRITE and KEY_ERASE act on a slot that nothing binds, KEY_WRITE not with two equal XTS keys (R370, R373, R375 to R379, Table 12.4). -/
def Obligations.CipherRequests : Prop := ∀ (s : State) (q : CipherReq),
  let ends := fun (i : Instr) (st : Nat) => Runs i s fun r => r.out = .toSteward 8 q.tag st 0 :: s.out ∧ SameMem s r ∧ r.keys.slots = s.keys.slots
  let both := fun (xts : Bool) (P : Instr → Prop) => if xts then P (.xtsEnc q) ∧ P (.xtsDec q) else P (.gcmEnc q) ∧ P (.gcmDec q)
  let formed := fun (xts : Bool) => q.rsv = false ∧ q.iv.length = 16 ∧ (xts = false → q.du4k = false ∧ q.iv.drop 12 = List.replicate 4 0)
  let unit := if q.du4k then 4096 else 512
  let sized := fun (xts : Bool) => if xts then 0 < q.len ∧ q.len % unit = 0 ∧ q.len ≤ 2 ^ 24 ∧ q.aadLen = 0
    else q.len ≤ 2 ^ 24 ∧ q.aadLen ≤ 256 ∧ 0 < q.aadLen + q.len
  (∀ xts, ¬formed xts → both xts fun i => ends i 2) ∧
  (∀ xts, formed xts → ¬sized xts → both xts fun i => ends i 3) ∧
  (∀ xts, formed xts → sized xts → s.key q.slot = none → both xts fun i => ends i 4) ∧
  (∀ (xts : Bool) (k : KeySlot), formed xts → sized xts → s.key q.slot = some k →
    (k.xts ≠ xts → both xts fun i => ends i 5) ∧
    (k.xts = xts → q.inst ≠ k.owner → q.inst ≠ 0xFF → both xts fun i => ends i 6) ∧
    (k.xts = xts → q.inst = k.owner ∨ q.inst = 0xFF → s.hbmBad q.src (q.aadLen + q.len) = true → s.hbm.soft = [] → xts = true →
      both xts fun i => Runs i s fun r => r.out = .toSteward 8 q.tag 9 0 :: s.out ∧ SameMem s r) ∧
    (k.xts = xts → q.inst = k.owner ∨ q.inst = 0xFF → s.hbm.bad = [] → s.hbm.soft = [] → 2 ≤ q.mismatch → both xts fun i => Runs i s fun r =>
      r.out = .toSteward 8 q.tag 8 0 :: s.out ∧ SameMem s r ∧ r.fld (R.ciphSuspect q.e1.val) = 1 ∧ r.fld (R.ciphSuspect q.e2.val) = 1) ∧
    (k.xts = xts → q.inst = k.owner ∨ q.inst = 0xFF → s.hbm.bad = [] → s.hbm.soft = [] → q.mismatch = 0 → s.fld R.hbmWorkMib ≤ 36864 →
      let gives := fun (i : Instr) (l : List Byte) => q.dst + l.length ≤ s.workTop → Runs i s fun r => StoredWork s r q.dst l ∧
        Emit.toSteward 8 q.tag 0 0 ∈ r.out ∧ r.csr = s.csr ∧ r.keys = s.keys
      let aad := s.hbmBytes q.src q.aadLen
      let text := s.hbmBytes (q.src + q.aadLen) q.len
      (xts = true → gives (.xtsEnc q) (Machine.xts true k.k1 k.k2 unit (leNat q.iv) (s.hbmBytes q.src q.len)) ∧
        gives (.xtsDec q) (Machine.xts false k.k1 k.k2 unit (leNat q.iv) (s.hbmBytes q.src q.len))) ∧
      (xts = false → gives (.gcmEnc q) (aad ++ (gcmEnc k.k1 (q.iv.take 12) aad text).1 ++ (gcmEnc k.k1 (q.iv.take 12) aad text).2) ∧
        (∀ d, gcmDec k.k1 (q.iv.take 12) aad text (s.hbmBytes (q.src + q.aadLen + q.len) 16) = some d → gives (.gcmDec q) (aad ++ d)) ∧
        (gcmDec k.k1 (q.iv.take 12) aad text (s.hbmBytes (q.src + q.aadLen + q.len) 16) = none → ends (.gcmDec q) 7)))) ∧
  ∀ k : KeyRec,
    (q.rsv = true ∨ q.du4k = true → ends (.keyWrite q k) 2 ∧ ends (.keyErase q) 2) ∧
    (q.rsv = false → q.du4k = false → q.aadLen ≠ 0 → ends (.keyWrite q k) 3 ∧ ends (.keyErase q) 3) ∧
    (q.rsv = false → q.du4k = false → q.aadLen = 0 → s.boundCount q.slot ≠ 0 → ends (.keyWrite q k) 0xA ∧ ends (.keyErase q) 0xA) ∧
    (q.rsv = false → q.du4k = false → q.aadLen = 0 → s.boundCount q.slot = 0 →
      (k.xts = true → k.k1 = k.k2 → ends (.keyWrite q k) 0xB) ∧
      (q.steward = true → ¬(k.xts = true ∧ k.k1 = k.k2) → Runs (.keyWrite q k) s fun r => r.out = .toSteward 8 q.tag 0 0 :: s.out ∧
        r.key q.slot = some { xts := k.xts, owner := k.owner, k1 := k.k1, k2 := k.k2 } ∧ ∀ j, j ≠ q.slot → r.key j = s.key j) ∧
      (q.steward = true → Runs (.keyErase q) s fun r => r.out = .toSteward 8 q.tag 0 0 :: s.out ∧ r.key q.slot = none ∧
        ∀ j, j ≠ q.slot → r.key j = s.key j) ∧
      (q.steward = false → ends (.keyErase q) 0xC ∧ (¬(k.xts = true ∧ k.k1 = k.k2) → ends (.keyWrite q k) 0xC)))

/-! ## The block service (spec/13) -/

/-- Commands of a ring. The first condition of Table 13.6 that holds ends a command with its status. READ of a failed range ends with 0x10; it places
blocks that are cached, and sends a read of the others to the member. WRITE through, on FUA or in SOLO, sends its blocks, sealed where the volume is
encrypted; otherwise they are cached dirty and it completes. FLUSH with nothing dirty flushes the drive; zeroes and deallocation drop the cached
copies and send the member command; a write outside the Rind's windows ends with 0x15. ABORT ends a READ not yet ended with 0xD, and answers 0xE for a
tag not in use. SANITIZE and FORMAT journal and send their command. DESTAGE writes the dirty blocks of a range. An entry of an accelerator's queue on
a volume it is not attached to is taken and completes with 5 (R394 to R413, R534, R550, Tables 13.5 to 13.8). Stated for a volume that is one extent
on a drive, with no other operation, no twin to confirm, room in the drive's queues, and less than a quarter of the cache dirty, when destage does not
run of itself (R404). -/
def Obligations.BlockCommands : Prop := ∀ (s : State) (i : InstId) (ri : Fin 64) (b : BlkBody) (t : Nat) (k : Fin 8) (v : Volume)
    (nsid first n : Nat) (z : Attach),
  let src := BlkSrc.ring i ri
  let cmds := [(1, Instr.blkRead src b t), (2, .blkWrite src b t), (3, .blkFlush src b t), (4, .blkWriteZeroes src b t),
    (5, .blkDeallocate src b t), (6, .blkAbort src b t), (7, .blkSanitize src b t), (8, .blkFormat src b t)]
  let o := BlkOwner.ring ⟨i.val, ri.val, b.tag, (s.ring i.val ri.val).gen, (s.ring i.val ri.val).taken⟩
  let ended := fun (r : State) (st r1 : Nat) => RingDone s r i.val ri.val b.tag st r1 0 ∧ r.blk.ops = []
  let sent := fun (r : State) (opcode lba nlb : Nat) (fua : Bool) (d : List Byte) => RingTook s r i.val ri.val ∧
    ∃ cid, r.out = .nvme k.val cid false opcode nsid lba nlb fua d :: s.out
  let size := b.nlb * v.a.bs
  let passes := fun (op : Nat) => ∀ c ∈ s.blkChecks i ri op b (some z) (some v), c.1 = false
  s.RingReady i.val ri.val 1 → s.Still → s.twin.held = [] → s.hbm.bad = [] → s.hbm.soft = [] → s.fld R.hbmWorkMib ≤ 36864 → (s.lines true).length < 524288 →
  (∀ op c st, (op, c) ∈ cmds → (s.blkChecks i ri op b (s.attachOf o b.vol) (s.vol b.vol)).find? (·.1) = some (true, st) → Runs c s fun r =>
    ended r st (if st = 3 then 4 else 0) ∧ r.blk.vols = s.blk.vols ∧ r.blk.cache = s.blk.cache ∧ SameMem s r ∧
    ∀ why, blkReason st = some why → Logged s r 0 i.val 1 st why ri.val ((s.ring i.val ri.val).taken % (s.ring i.val ri.val).sqN)) ∧
  (s.attachOf o b.vol = some z → s.vol b.vol = some v → s.OneDrive v k nsid first n → (s.drive k.val).queueRoom = true → s.stewardGone 4 = false → s.blkCeilOf i.val = 0 → b.nlb ≤ 65536 →
    (∀ d, (s.drive k.val).info = some d → d.mdts = 0 ∨ size ≤ d.mdts) →
    let ok := s.storOk k.val nsid (first + b.lba) b.nlb
    let fresh := ∀ c ∈ s.blk.cache, c.vol = b.vol → c.lba < b.lba ∨ b.lba + b.nlb ≤ c.lba
    (passes 1 → s.touchesFailed b.vol b.lba b.nlb = true → Runs (.blkRead src b t) s fun r => ended r 0x10 0 ∧ SameMem s r) ∧
    (∀ f : Nat → List Byte, passes 1 → s.touchesFailed b.vol b.lba b.nlb = false →
      (∀ j, j < b.nlb → (f j).length = v.a.bs ∧ ∃ c, s.cached b.vol (b.lba + j) = some c ∧ c.lba = b.lba + j ∧ c.data = f j) →
      let d := (List.range b.nlb).flatMap f
      (b.bufHbm = true → Runs (.blkRead src b t) s fun r => ended r 0 0 ∧ StoredWork s r b.bufAddr d) ∧
      (b.bufHbm = false → b.dmaOk = true → Runs (.blkRead src b t) s fun r => ended r 0 0 ∧ SameMem s r ∧
        Emit.hostWrite i.val b.bufAddr d ∈ r.out) ∧
      (b.bufHbm = false → b.dmaOk = false → Runs (.blkRead src b t) s fun r => ended r 0x14 0 ∧ SameMem s r)) ∧
    (passes 1 → s.touchesFailed b.vol b.lba b.nlb = false → fresh → Runs (.blkRead src b t) s fun r =>
      sent r 0x02 (first + b.lba) b.nlb false [] ∧ SameMem s r) ∧
    (passes 2 → (∀ d, s.writeData ⟨0, o, 2, b, some v.a, false, 0, [], none, 0, (0, 0)⟩ size ≠ some d) → Runs (.blkWrite src b t) s fun r =>
      ended r 0x14 0 ∧ r.blk.cache = s.blk.cache) ∧
    (∀ d, passes 2 → (if b.bufHbm then d = s.hbmBytes b.bufAddr size else b.data = some d) → d.length = size →
      (s.through v.a b = true → ok = true → Runs (.blkWrite src b t) s fun r => SameMem s r ∧
        sent r 0x01 (first + b.lba) b.nlb true (slice (s.volSeal v.a b.lba d) 0 size) ∧ ∀ c ∈ r.blk.cache, c.vol = b.vol → c.lba < b.lba ∨ b.lba + b.nlb ≤ c.lba) ∧
      (s.through v.a b = true → ok = false → Runs (.blkWrite src b t) s fun r => ended r 0x15 0 ∧ SameMem s r ∧
        r.fld R.rindBlocked = min (s.fld R.rindBlocked + 1) (2 ^ R.rindBlocked.w - 1)) ∧
      (s.through v.a b = false → (s.lines true).length + b.nlb < 524288 → Runs (.blkWrite src b t) s fun r => ended r 0 0 ∧ SameMem s r ∧
        r.touchesFailed b.vol b.lba b.nlb = false ∧
        ∀ j, j < b.nlb → r.cached b.vol (b.lba + j) = some ⟨b.vol, b.lba + j, slice d (j * v.a.bs) v.a.bs, true, false, i.val, ri.val⟩)) ∧
    (passes 3 → (∀ c ∈ s.blk.cache, c.vol = b.vol → c.dirty = false) → Runs (.blkFlush src b t) s fun r => sent r 0x00 0 0 false [] ∧
      r.blk.cache = s.blk.cache) ∧
    (passes 4 → ok = true → v.a.enc = 0 → Runs (.blkWriteZeroes src b t) s fun r => sent r 0x08 (first + b.lba) b.nlb b.fua [] ∧
      r.blk.cache = (s.dropCached b.vol b.lba b.nlb).blk.cache) ∧
    (passes 5 → ok = true → v.a.enc = 0 → Runs (.blkDeallocate src b t) s fun r =>
      sent r (if (s.nsOf k.val nsid).any (·.dzero) then 0x09 else 0x08) (first + b.lba) b.nlb false [] ∧
      r.blk.cache = (s.dropCached b.vol b.lba b.nlb).blk.cache) ∧
    (∀ c, s.blk.cache = [c] → c.vol = b.vol → c.dirty = true → c.data.length = v.a.bs → c.lba < n → s.storOk k.val nsid (first + c.lba) 1 = true →
      (b.lba ≤ c.lba → c.lba < b.lba + b.nlb → Runs (.destage b.vol b.lba b.nlb t) s fun r => r.blk.cache = s.blk.cache ∧ ∃ cid,
        r.out = .nvme k.val cid false 0x01 nsid (first + c.lba) 1 false (s.volSeal v.a c.lba c.data) :: s.out) ∧
      (c.lba < b.lba ∨ b.lba + b.nlb ≤ c.lba → Runs (.destage b.vol b.lba b.nlb t) s fun r => r.blk = s.blk ∧ r.out = s.out))) ∧
  ((∀ c ∈ s.blkChecks i ri 6 b none none, c.1 = false) → (∀ u ∈ s.blk.tags, u.acc = true ∨ u.inst ≠ i.val ∨ u.ring ≠ ri.val ∨ u.tag ≠ b.abortTag) →
    (Runs (.blkAbort src b t) s fun r => ended r 0xE 0) ∧
    ∀ (x : BlkOp) (w : Work), x.owner = .ring w → w.inst = i.val → w.ring = ri.val → w.tag = x.b.tag → x.b.tag = b.abortTag → x.op = 1 → w.gen = (s.ring i.val ri.val).gen →
      Runs (.blkAbort src b t) { s with blk.ops := [x] } fun r => r.blk.ops = [] ∧ SameMem s r ∧
        let g := s.ring i.val ri.val
        Emit.hostWrite i.val (g.cqBase + 16 * (g.posted % g.cqN))
          (cplBytes x.b.tag 0xD ((1 + g.posted / g.cqN) % 2) 0 g.gen ((g.taken + 1) % g.sqN) 0 0) ∈ r.out ∧
        Emit.hostWrite i.val (g.cqBase + 16 * ((g.posted + 1) % g.cqN))
          (cplBytes b.tag 0 ((1 + (g.posted + 1) / g.cqN) % 2) 0 g.gen ((g.taken + 1) % g.sqN) 8 0) ∈ r.out) ∧
  (∀ op c, (op, c) ∈ cmds → 7 ≤ op → (∀ c ∈ s.blkChecks i ri op b none none, c.1 = false) →
    let ns := s.nsAt b.port b.vol
    let ok := if op = 8 then ns.any fun x => s.storOk b.port x.nsid 0 x.blocks
      else (s.storWins b.port).any fun w => w.1 == 0xFFFFFFFF && w.2.1 == 0 && w.2.2 == 2 ^ 64 - 1
    (ok = false → Runs c s fun r => ended r 0x15 0) ∧
    (ok = true → s.drivePath b.port = none → Runs c s fun r => ended r 0x12 0) ∧
    (ok = true → s.pathOk b.port = true → (s.drive b.port).queueRoom = true → Runs c s fun r => RingTook s r i.val ri.val ∧ r.fld (R.storSanitizing b.port) = 1 ∧
      (∃ cid, r.out = .nvme b.port cid false (if op = 7 then 0x184 else 0x180) (if op = 8 then (ns.map (·.nsid)).getD 0 else 0xFFFFFFFF)
        b.action 0 false [] :: s.out) ∧
      ∃ j ∈ r.blk.journal, j.port = b.port ∧ j.op = op ∧ j.action = b.action ∧ j.progress = 0 ∧ j.ended = false)) ∧
  ∀ (p : Fin 8) (q : Fin 4) (c : Instr) (e : Nat × BlkBody), let x := s.accQ .block p.val q.val
    let w := s.win .block p.val
    c ∈ [Instr.blkRead (.accel p q) b t, .blkWrite (.accel p q) b t, .blkFlush (.accel p q) b t] → x.st = 1 → x.taken < x.tail →
    x.posted - x.released < x.cqN → x.cqBase ≠ 0 → x.sqN ≠ 0 → e = blkEntry w q.val (x.taken % x.sqN) b →
    (e.1 = if c = Instr.blkRead (.accel p q) b t then 1 else if c = .blkWrite (.accel p q) b t then 2 else 3) →
    s.blkBadField e.1 e.2 = false → (∀ u ∈ s.blk.tags, u.acc = false ∨ u.inst ≠ p.val ∨ u.ring ≠ q.val ∨ u.tag ≠ e.2.tag) →
    s.attachOf (.acc p.val q.val w.gen) e.2.vol = none → w.gen < 65536 → Runs c s fun r =>
      r.accQ .block p.val q.val = { x with taken := x.taken + 1, posted := x.posted + 1 } ∧
      r.out = .accelWrite p.val (x.cqBase + 16 * (x.posted % x.cqN)) (withPhase (natLe 2 e.2.tag ++ [5, 0] ++ natLe 2 w.gen ++ List.replicate 10 0)
        ((1 + x.posted / x.cqN) % 2)) :: s.out

/-- What drives answer, and the control operations on volumes. A completion of a READ places its data and completes the command, one of a WRITE
completes it and caches its blocks clean, one of a destage cleans its blocks; a status fails the command, a failed destage is sent again and the
second time loses its blocks, adding their range to the failed ones; an unknown identifier and a bad phase are recorded, the latter with a controller
reset. A time-out sends an Abort, and its own time-out resets the controller; a reset that fails or the third in 60 s fails the path. A link that
falls fails the path; one that comes up brings the drive up and registers this device's key. A drive's access outside its command's buffer is
recorded. Progress is journalled, the sixteenth sixteenth ending the sanitise. Volumes are created on extents of their drives, attached, detached and
destroyed, each by the physical function (R384 to R393, R402, R404, R408, R410, R412, R414, Tables 13.1 to 13.4). -/
def Obligations.DrivesAndVolumes : Prop := ∀ (s : State) (k : Fin 8) (cid t : Nat),
  let now := max s.time.now t
  let d := s.drive k.val
  let calm := (s.lines true).length < 524288
  (∀ st ok, (∀ c ∈ d.cmds, c.cid ≠ cid) → Runs (.nvmeCompletion k cid st ok t) s fun r => r.blk = s.blk ∧ r.out = s.out ∧
    Logged s r 3 k.val 9 0xFF 6 k.val cid) ∧
  (∀ st c, s.Still → calm → d.cmds = [c] → c.cid = cid → Runs (.nvmeCompletion k cid st false t) s fun r => Emit.nvmeReset k.val ∈ r.out ∧ SameMem s r ∧
    Logged s r 3 k.val 9 0xFF 7 k.val cid) ∧
  (∀ (c : NvmeCmd) (p : BlkSub) (o : BlkOp) (a : VolAttr) (st : Nat), d.cmds = [c] → c.cid = cid → c.sub = p.id → c.sub ≠ 0 → s.blk.parts = [p] →
    s.blk.ops = [o] → s.lft.qps = [] → s.lft.finished = [] → s.lft.notified = [] → o.id = p.op → o.started = true → o.subs = 1 → o.a = some a →
    o.fail = none → calm → s.stewardGone 4 = false → s.hbm.bad = [] → s.hbm.soft = [] → s.fld R.hbmWorkMib ≤ 36864 →
    let done := Instr.nvmeCompletion k cid st true t
    let failed := if st = 0x83 then 0x13 else if c.opcode = 0x02 then 0x10 else 0x11
    (∀ w, o.owner = .ring w → s.Owes w → w.inst < 64 → s.fld (R.lhqiReady w.inst) = 1 → o.op = 1 ∨ o.op = 2 →
      (st ≠ 0 → Runs done s fun r => Paid s r w failed 0 0 ∧ r.blk.ops = [] ∧ SameMem s r ∧ (st = 0x83 → Emit.toSteward 5 cid 0x13 k.val ∈ r.out)) ∧
      (∀ e, st = 0 → o.op = 1 → p.write = false → o.got = [] → p.lba = o.b.lba → p.n = o.b.nlb → e = s.volOpen a p.lba c.buf →
        e.length = o.b.nlb * a.bs → 0 < a.bs →
        (o.b.bufHbm = true → o.b.bufAddr + e.length ≤ s.workTop → Runs done s fun r => Paid s r w 0 0 0 ∧ r.blk.ops = [] ∧ StoredWork s r o.b.bufAddr e) ∧
        (o.b.bufHbm = false → o.b.dmaOk = true → Runs done s fun r => Paid s r w 0 0 0 ∧ r.blk.ops = [] ∧ SameMem s r ∧
          Emit.hostWrite w.inst o.b.bufAddr e ∈ r.out)) ∧
      (∀ e, st = 0 → o.op = 2 → p.write = true → o.got = blocksOf a.bs e o.b.lba o.b.nlb → 0 < o.b.nlb → Runs done s fun r => Paid s r w 0 0 0 ∧
        r.blk.ops = [] ∧ r.touchesFailed o.b.vol o.b.lba o.b.nlb = false ∧ ∀ j, j < o.b.nlb → ∃ x, r.cached o.b.vol (o.b.lba + j) = some x ∧
          x.data = slice e (j * a.bs) a.bs ∧ x.dirty = false)) ∧
    ∀ (x : CBlk) (v : Volume) (nsid first n : Nat) (again : Bool), o.owner = .destage again → o.op = 2 → p.write = true → s.blk.cache = [x] → x.vol = o.b.vol →
      x.dirty = true → o.got = [(x.lba, x.data)] →
      (st = 0 → Runs done s fun r => r.blk.cache = [{ x with dirty := false }] ∧ r.blk.ops = [] ∧ r.fld R.dirtyLines = 0) ∧
      (st ≠ 0 → again = false → s.OneDrive v k nsid first n → v.a = a → o.b.lba = x.lba → o.b.nlb = 1 → o.b.data = some x.data →
        x.data.length = a.bs → x.lba < n → s.storOk k.val nsid (first + x.lba) 1 = true → Runs done s fun r => r.blk.cache = [x] ∧
        ∃ i, Emit.nvme k.val i false 0x01 nsid (first + x.lba) 1 false (slice (s.volSeal a x.lba x.data) 0 a.bs) ∈ r.out) ∧
      (st ≠ 0 → again = true → s.held = false → s.blk.failed.length < 4096 → Runs done s fun r => r.blk.cache = [] ∧ r.blk.ops = [] ∧
        r.blk.failed = s.blk.failed ++ [(o.b.vol, o.b.lba, o.b.nlb)] ∧ r.fld R.dirtyLines = 0 ∧
        ∃ e ∈ r.blk.bel, e.acc = x.acc ∧ e.inst = x.inst ∧ e.ring = x.ring ∧ e.lba = o.b.lba ∧ e.nlb = o.b.nlb ∧ e.vol = o.b.vol ∧ e.time = now ∧
          e.status = st ∧ r.deferred = s.deferred ++ [{ acc := x.acc, inst := x.inst, ring := x.ring, index := e.index }])) ∧
  ((∀ c ∈ d.cmds, c.cid ≠ cid) → (Runs (.nvmeCommandTimeout k cid t) s fun r => r = s.advance t) ∧
    ∀ ok, Runs (.nvmeAbortTimeout k cid ok t) s fun r => r = s.advance t) ∧
  (∀ c, d.cmds = [c] → c.cid = cid → (Runs (.nvmeCommandTimeout k cid t) s fun r => r.out = .nvme k.val cid c.relayed 0x108 0 cid 0 false [] :: s.out ∧
      (r.drive k.val).cmds = [{ c with aborted := true }] ∧ r.fld (R.storTimeout k.val) = min (s.fld (R.storTimeout k.val) + 1) (2 ^ (R.storTimeout k.val).w - 1)) ∧
    ∀ ok, c.aborted = true → c.relayed = false → c.sub = 0 → s.Still → calm → Runs (.nvmeAbortTimeout k cid ok t) s fun r => Emit.nvmeReset k.val ∈ r.out ∧
      (r.drive k.val).cmds = [] ∧ (r.drive k.val).resets = now :: d.resets.filter (fun x => now < x + 60000000000) ∧
      r.fld (R.storPathFailed k.val) = if ok = false ∨ 2 ≤ (d.resets.filter fun x => now < x + 60000000000).length then 1 else s.fld (R.storPathFailed k.val)) ∧
  (s.Still → calm → d.cmds = [] → Runs (.storageLinkDown k t) s fun r => r.fld (R.storLinkUp k.val) = 0 ∧ r.fld (R.storPathFailed k.val) = 1 ∧
    r.blk = s.blk ∧ r.out = s.out) ∧
  (∀ x : DriveInfo, x.rate < 8 → Runs (.storageLinkUp k x t) s fun r => r.fld (R.storLinkUp k.val) = 1 ∧ r.fld (R.storRate k.val) = x.rate ∧
    r.fld (R.storUnsupported k.val) = (if driveSupported x = true then 0 else 1)) ∧
  (∀ x : DriveInfo, s.Still → s.blk.vols = [] → s.blk.journal = [] → d.queueRoom = true → x.rate < 8 → let up := Instr.storageLinkUp k x t
    (driveSupported x = false → Runs up s fun r => r.out = .toSteward 5 0 1 k.val :: s.out ∧ r.fld (R.storUnsupported k.val) = 1 ∧
      r.fld (R.storLinkUp k.val) = 1 ∧ (r.drive k.val).info = d.info) ∧
    (driveSupported x = true → Runs up s fun r => r.fld (R.storUnsupported k.val) = 0 ∧ r.fld (R.storLinkUp k.val) = 1 ∧
      r.fld (R.storPathFailed k.val) = 0 ∧ r.fld (R.storRate k.val) = x.rate ∧
      r.fld (R.storDegraded k.val) = (if x.rate < 5 ∨ x.width < 2 then 1 else 0) ∧ (r.drive k.val).info = some x ∧
      ∃ i, r.out = .nvme k.val i false 0x0D 1 0 0 false (natLe 8 (s.csr.get64 R.devSerial)) :: s.out)) ∧
  (Runs (.storageAerCorrectable k) s fun r => r = { s with csr := r.csr, tele := r.tele } ∧
    r.fld (R.storAer k.val) = min (s.fld (R.storAer k.val) + 1) (2 ^ (R.storAer k.val).w - 1)) ∧
  (∀ off len write data, s.Still → calm →
    ((∀ c ∈ d.cmds, c.cid ≠ cid) → Runs (.driveDma k cid off len write data t) s fun r => Logged s r 3 k.val 9 0xFF 10 k.val cid ∧ Emit.nvmeReset k.val ∈ r.out) ∧
    (∀ c, (d.cmds.find? fun x => x.cid == cid) = some c → off + len ≤ c.buf.length →
      (c.write = false → data.length = len → Runs (.driveDma k cid off len true data t) s fun r => r.out = s.out ∧
        (r.drive k.val).cmds = d.cmds.map fun x => if x.cid = cid then { x with buf := x.buf.take off ++ data ++ x.buf.drop (off + len) } else x) ∧
      Runs (.driveDma k cid off len false data t) s fun r => r = s.advance t) ∧
    ∀ c, d.cmds = [c] → c.cid = cid → c.sub = 0 →
      (c.buf.length < off + len → Runs (.driveDma k cid off len write data t) s fun r => Logged s r 3 k.val 9 0xFF 10 k.val cid ∧ Emit.nvmeReset k.val ∈ r.out) ∧
      (off + len ≤ c.buf.length → c.write = false → data.length = len → Runs (.driveDma k cid off len true data t) s fun r => r.out = s.out ∧
        (r.drive k.val).cmds = [{ c with buf := c.buf.take off ++ data ++ c.buf.drop (off + len) }]) ∧
      (off + len ≤ c.buf.length → Runs (.driveDma k cid off len false data t) s fun r => r = s.advance t)) ∧
  (∀ n, s.blk.journal = [] → Runs (.sanitizeProgress k n t) s fun r => r = s.advance t) ∧
  (∀ n j, (s.blk.journal.find? fun j => j.port == k.val && j.op == 7 && !j.ended) = some j → n < 16 → Runs (.sanitizeProgress k n t) s fun r =>
    (∃ z ∈ r.blk.journal, z = { j with progress := max j.progress n, seq := z.seq } ∧ ∀ y ∈ s.blk.journal, y.seq < z.seq) ∧ r.fld (R.storSanitizing k.val) = 1) ∧
  (∀ n j, s.blk.journal = [j] → j.port = k.val → j.op = 7 → j.ended = false → s.blk.ops = [] →
    (n < 16 → Runs (.sanitizeProgress k n t) s fun r => r.blk.journal = [{ j with progress := max j.progress n, seq := j.seq + 1 }] ∧
      r.fld (R.storSanitizing k.val) = 1) ∧
    (16 ≤ n → Runs (.sanitizeProgress k n t) s fun r => r.blk.journal = [{ j with progress := 16, ended := true, seq := j.seq + 1 }] ∧
      r.fld (R.storSanitizing k.val) = 0)) ∧
  ∀ (i : InstId) (ri : Fin 64) (h : CtlHdr) (a : VolAttr) (n kind index : Nat) (ro : Bool),
    let told := fun (r : State) (st : Nat) => RingDone s r i.val ri.val h.tag.toNat st 0 0
    (s.CtlFits i ri h true (volParamLen a) 0 → s.blk.vols = [] →
      (s.volBad a = true → Runs (.volCreate i ri h a) s fun r => told r 0xE1 ∧ r.blk = s.blk) ∧
      ∀ (nsid first nb : Nat) (x : NsInfo), s.volBad a = false → a.members = [.drive k.val nsid first nb] → s.nsOf k.val nsid = some x →
        (x.blocks < first + nb ∨ x.bs ≠ a.bs → Runs (.volCreate i ri h a) s fun r => told r 0xD1 ∧ r.blk = s.blk) ∧
        (first + nb ≤ x.blocks → x.bs = a.bs → s.storOk k.val nsid first nb = false → Runs (.volCreate i ri h a) s fun r => told r 0xD3 ∧ r.blk = s.blk) ∧
        (first + nb ≤ x.blocks → x.bs = a.bs → s.storOk k.val nsid first nb = true → Runs (.volCreate i ri h a) s fun r => told r 0 ∧
          r.vol a.vol = some ⟨a, false, false⟩ ∧ ∀ m, m ≠ a.vol → r.vol m = none)) ∧
    (s.CtlFits i ri h true (volParamLen a) 0 → let make := Instr.volCreate i ri h a
      let ex := volExtents a
      (s.volBad a = true → Runs make s fun r => told r 0xE1 ∧ r.blk = s.blk) ∧
      (s.volBad a = false → (s.blk.vols.filter fun v => v.2.isSome).length < 4096 →
        ((∃ x ∈ ex, s.nsOf x.1 x.2.1 = none) ∨ (∃ x ∈ ex, ∃ y ∈ s.allExtents, extOverlap x y = true) → Runs make s fun r => told r 0xD1 ∧ r.blk = s.blk) ∧
        ((∀ x ∈ ex, ∃ z, s.nsOf x.1 x.2.1 = some z ∧ x.2.2.1 + x.2.2.2 ≤ z.blocks ∧ z.bs = a.bs) → (∀ x ∈ ex, ∀ y ∈ s.allExtents, extOverlap x y = false) →
          (∀ (i j : Nat) x y, ex[i]? = some x → ex[j]? = some y → i ≠ j → extOverlap x y = false) →
          ((∃ e ∈ s.blk.vols, ∃ v, e.2 = some v ∧ v.a.home ≠ a.home ∧ ∃ d ∈ volDrives v.a, d ∈ volDrives a) → Runs make s fun r => told r 0xD2 ∧ r.blk = s.blk) ∧
          ((∀ e ∈ s.blk.vols, ∀ v, e.2 = some v → v.a.home ≠ a.home → ∀ d ∈ volDrives v.a, d ∉ volDrives a) →
            ((∃ x ∈ ex, s.storOk x.1 x.2.1 x.2.2.1 x.2.2.2 = false) → Runs make s fun r => told r 0xD3 ∧ r.blk = s.blk) ∧
            ((∀ x ∈ ex, s.storOk x.1 x.2.1 x.2.2.1 x.2.2.2 = true) → Runs make s fun r => told r 0 ∧ r.vol a.vol = some ⟨a, false, false⟩ ∧
              ∀ m, m ≠ a.vol → r.vol m = s.vol m))))) ∧
    (s.CtlFits i ri h true 2 0 → (s.vol n = none → Runs (.volDestroy i ri h n) s fun r => told r 0xD7 ∧ r.blk = s.blk) ∧
      ((s.vol n).isSome = true → s.keys.erase = [] → Runs (.volDestroy i ri h n) s fun r => told r 0 ∧ r.vol n = none ∧ (∀ m, m ≠ n → r.vol m = s.vol m) ∧
        r.blk.atts = s.blk.atts.filter (fun a => a.vol != n) ∧ r.blk.cache = s.blk.cache.filter (fun c => c.vol != n) ∧
        r.blk.failed = s.blk.failed.filter (fun f => f.1 != n))) ∧
    (s.CtlFits i ri h true 5 0 →
      (s.vol n = none → Runs (.volAttach i ri h n kind index ro) s fun r => told r 0xD7 ∧ r.blk = s.blk) ∧
      ((s.vol n).isSome = true → 1 < kind ∨ (kind = 0 ∧ 63 < index) ∨ (kind = 1 ∧ 7 < index) →
        Runs (.volAttach i ri h n kind index ro) s fun r => told r 0xE1 ∧ r.blk = s.blk) ∧
      ((s.vol n).isSome = true → (kind = 0 ∧ index ≤ 63) ∨ (kind = 1 ∧ index ≤ 7) → Runs (.volAttach i ri h n kind index ro) s fun r => told r 0 ∧
        r.blk.atts = s.blk.atts.filter (fun a => !(a.vol == n && a.acc == (kind == 1) && a.index == index)) ++ [⟨n, kind == 1, index, ro⟩] ∧
        r.blk.vols = s.blk.vols) ∧
      ((∀ a ∈ s.blk.atts, ¬(a.vol = n ∧ a.acc = (kind == 1) ∧ a.index = index)) → Runs (.volDetach i ri h n kind index) s fun r => told r 0xD7 ∧ r.blk = s.blk) ∧
      ∀ z, z.vol = n → z.acc = (kind == 1) → z.index = index → s.blk.atts = [z] → Runs (.volDetach i ri h n kind index) s fun r => told r 0 ∧
        r.blk.atts = [] ∧ r.blk.vols = s.blk.vols)

/-! ## Decode support (spec/14) -/

/-- Entries of a decode window end with the first status of Table 14.6 whose condition holds; CANDIDATES of the last member to report make the
sequence merge with the token sampled from all of them, and PASS_DONE is noted. A loaded chunk is in its half, its pages copied to every member; the
token goes to the members once confirmed, and ends the sequence at its EOS or its last position, or starts the next step; what was held is posted when
its queue can take it; a context loads where one is free and its turn has come, or in the place of the least recently used unpinned one, and waits
while all are pinned; a sequence whose step ends gives its context up to others that wait; a copy that ends moves its page, and the page that waited
for its slot is placed; a pool with less than a sixteenth free demotes its least recently read page. Pools are defined once; a sequence is created
under a free number, and destroyed by its owner alone (R415 to R432, R29, R31, Tables 14.3 to 14.9). Stated with no twin to confirm. -/
def Obligations.DecodeSupport : Prop := ∀ (s : State) (t : Nat), s.held = false → s.fld R.twinState ≠ 6 → s.twin.held = [] →
  (∀ (p : Fin 8) (qi : Fin 4) (cands : Option (List (Nat × Nat))) (x : AccQ) (w : AccWin) (e : DecEntry) (l : List (Nat × Nat)) (c : Instr),
    x = s.accQ .decode p.val qi.val → w = s.win .decode p.val → e = decEntry w qi.val (x.taken % x.sqN) → l = cands.getD [] →
    c = (if e.op = 2 then Instr.decPassDone p qi t else .decCandidates p qi cands t) →
    x.st = 1 → x.taken < x.tail → x.posted - x.released < x.cqN → x.cqBase ≠ 0 → x.sqN ≠ 0 →
    let gen := ((s.seq e.seq).map (·.gen)).getD 0
    let posts := fun (r : State) (st : Nat) => Emit.accelWrite p.val (x.cqBase + 16 * (x.posted % x.cqN))
      (withPhase (seqBody e.seq st 0 0 gen 0xFFFF e.pos) ((1 + x.posted / x.cqN) % 2)) ∈ r.out
    let early := [(e.op != 1 && e.op != 2, 1),
      (e.rsv || (e.op == 1 && (e.count == 0 || decide (256 < e.count) || e.addr % 8 != 0)) || (e.op == 2 && (e.count != 0 || e.addr != 0)), 2),
      (!(s.seq e.seq).any s.serves, 3)]
    (∀ st, early.find? (·.1) = some (true, st) → Runs c s fun r => posts r st ∧ r.accQ .decode p.val qi.val = { x with taken := x.taken + 1, posted := x.posted + 1 } ∧
      r.dec = s.dec ∧ Logged s r 1 p.val 4 st (if st = 1 then 1 else if st = 2 then 5 else 6) qi.val (x.taken % x.sqN)) ∧
    ∀ (q : Seq) (kept : List (Nat × Nat)), (∀ y ∈ early, y.1 = false) → s.seq e.seq = some q →
      kept = (l.filter fun c => !fp32BadLogit c.2 && !(q.cands.flatMap fun d => d.2.map (·.1)).contains c.1) →
      let late := [(!bitAt q.a.mask p.val, 4), (q.st == .ended, 9),
        (e.pos != q.pos || q.next == 0 || e.pass + 1 != q.next || (e.op == 1 && (q.cands.any fun c => c.1 == p.val)) ||
          (e.op == 1 && q.next != q.passes) || (e.op == 2 && q.done.contains (p.val, e.pass)), 5),
        (e.op == 1 && !s.accOk p.val e.addr (8 * e.count), 6), (e.op == 1 && (cands.isNone || l.length != e.count), 7)]
      (∀ st, late.find? (·.1) = some (true, st) → Runs c s fun r => posts r st ∧ r.dec = s.dec) ∧
      ((∀ y ∈ late, y.1 = false) → e.op = 1 → q.st = .granted → Runs (.decCandidates p qi cands t) s fun r => posts r (if kept.length = e.count then 0 else 8) ∧
        ∃ z, r.seq e.seq = some z ∧ z.cands = q.cands ++ [(p.val, kept)] ∧
          ((∃ m ∈ seqMembers q.a, m ≠ p.val ∧ ∀ c ∈ q.cands, c.1 ≠ m) → z.st = .granted) ∧
          ((∀ m ∈ seqMembers q.a, m ≠ p.val → ∃ c ∈ q.cands, c.1 = m) → z.st = .merging ∧
            ∀ v, sample q.a q.pos (q.cands.flatMap (·.2) ++ kept) = some v → z.token = v)) ∧
      ((∀ y ∈ late, y.1 = false) → e.op = 2 → Runs (.decPassDone p qi t) s fun r => posts r 0 ∧ ∃ z, r.seq e.seq = some z ∧
        z.done = q.done ++ [(p.val, e.pass)] ∧ z.st = q.st ∧ z.pos = q.pos)) ∧
  (∀ (n : Nat) (q : Seq) (data : List (List Byte)), s.seq n = some q →
    (q.loading = [] → Runs (.chunkLoaded n data t) s fun r => r = s.advance t) ∧
    (∀ c rest, q.loading = c :: rest → s.hbm.bad = [] → let ms := seqMembers q.a
      let pages := (q.chunk c).filterMap fun pn => q.pages.find? fun g => g.pn == pn
      Runs (.chunkLoaded n data t) s fun r => (∃ z, r.seq n = some z ∧ z.loading = rest ∧ z.loaded = max q.loaded (c + 1) ∧ z.pos = q.pos ∧
          ∀ g ∈ q.pages, (if ∃ x ∈ pages, x.pn = g.pn then { g with used := s.dec.clock } else g) ∈ z.pages) ∧
        ∀ j g k m a l, pages[j]? = some g → ms[k]? = some m → (s.pools q.inst).run m = some (a, l) → s.accOk m (a + q.halfSlot c j * 65536) 65536 = true →
          Emit.accelWrite m (a + q.halfSlot c j * 65536)
            (slice (if g.tier = 2 then s.hbmBytes (g.loc * 65536) (65536 * ms.length) else data.getD j []) (k * 65536) 65536) ∈ r.out) ∧
    (q.st ≠ .merging → Runs (.tokenPost n t) s fun r => r = s.advance t) ∧
    (q.st = .merging → q.held = [] → let body := natLe 2 n ++ [0, 2] ++ natLe 2 q.gen ++ natLe 2 0 ++ natLe 4 q.token ++ natLe 4 q.pos
      let last := (q.token = q.a.eos ∧ q.a.eos ≠ 0xFFFFFFFF) ∨ q.pos + 1 = q.a.maxLen
      let posted := fun m => (s.accQ .decode m (n % 4)).canPost .decode
      Runs (.tokenPost n t) s fun r => (∀ m ∈ seqMembers q.a, posted m = true → let x := s.accQ .decode m (n % 4)
          Emit.accelWrite m (x.cqBase + 16 * (x.posted % x.cqN)) (withPhase body ((1 + x.posted / x.cqN) % 2)) ∈ r.out) ∧
        r.fld R.decSteps = min (s.fld R.decSteps + ((seqMembers q.a).filter posted).length) (2 ^ R.decSteps.w - 1) ∧ ∃ z, r.seq n = some z ∧
        (∀ m ∈ seqMembers q.a, posted m = false → ∃ h ∈ z.held, h.member = m ∧ h.kind = 1 ∧ h.body = body) ∧
        (last → z.st = .ended ∧ z.pos = q.pos) ∧
        (¬last → z.pos = q.pos + 1 ∧ z.cands = [] ∧ z.done = [] ∧
          (q.resident = true → s.seqWaiting = true → q.loading = [] → (∀ g ∈ q.pages, g.move = none) → (∀ m ∈ seqMembers q.a, posted m = true) →
            z.resident = false ∧ z.st = .granted ∧ z.laid = false) ∧
          (q.resident = true → s.seqWaiting = false → s.serves q = true → q.pos % 2 ^ q.a.shift ≠ 0 → q.want = false → (∀ g ∈ q.pages, g.tier = 1) →
            z.st = .granted ∧ z.pages = q.pages ∧ z.stream = [] ∧ z.mapped = q.pages.map (fun g => (g.pn, g.loc)) ∧
            ((∀ m ∈ seqMembers q.a, posted m = true) → z.next = 1)))) ∧
    ((∀ y ∈ q.held, y.member < 8) →
      (∀ (k : Nat) h x, q.held[k]? = some h → (∀ j y, j < k → q.held[j]? = some y → y.member ≠ h.member) → x = s.accQ .decode h.member (n % 4) →
        x.canPost .decode = true → Runs (.decodeHeldPost n t) s fun r => Emit.accelWrite h.member (x.cqBase + 16 * (x.posted % x.cqN))
          (withPhase h.body ((1 + x.posted / x.cqN) % 2)) ∈ r.out ∧
          (q.st ≠ .granted → ∃ z, r.seq n = some z ∧ z.held.length < q.held.length ∧ z.st = q.st ∧ z.pos = q.pos)) ∧
      ((∀ h ∈ q.held, (s.accQ .decode h.member (n % 4)).canPost .decode = false) → q.st ≠ .granted → Runs (.decodeHeldPost n t) s fun r => r.out = s.out ∧
        r.seq n = some q)) ∧
    (∀ h x, q.held = [h] → h.member < 8 → q.st ≠ .granted → x = s.accQ .decode h.member (n % 4) → h.kind ≠ 1 →
      (x.canPost .decode = true → Runs (.decodeHeldPost n t) s fun r => r.out = .accelWrite h.member (x.cqBase + 16 * (x.posted % x.cqN))
        (withPhase h.body ((1 + x.posted / x.cqN) % 2)) :: s.out ∧ ∃ z, r.seq n = some z ∧ z.held = []) ∧
      (x.canPost .decode = false → Runs (.decodeHeldPost n t) s fun r => r.out = s.out ∧ ∃ z, r.seq n = some z ∧ z.held = [h])) ∧
    (q.resident = true → Runs (.sequenceContextLoaded n t) s fun r => r = s.advance t) ∧
    (q.resident = false → let free := s.seqFree q.inst
      let loads := fun (r : State) => (∃ z, r.seq n = some z ∧ z.resident = true ∧ z.pos = q.pos) ∧
        r.fld R.decCtxLoad = min (s.fld R.decCtxLoad + 1) (2 ^ R.decCtxLoad.w - 1)
      let all := decide (s.seqRes q.inst = 0 ∨ s.seqResident q.inst < s.seqRes q.inst)
      (max 1 free ≤ s.seqAhead n q → Runs (.sequenceContextLoaded n t) s fun r => r = s.advance t) ∧
      (s.seqAhead n q < free → Runs (.sequenceContextLoaded n t) s loads) ∧
      (free = 0 → (∀ e ∈ s.allSeqs, e.2.resident = true → all = true ∨ e.2.inst = q.inst → e.2.pinned = true) →
        Runs (.sequenceContextLoaded n t) s fun r => r = s.advance t) ∧
      ∀ v y, free = 0 → s.seqAhead n q = 0 → s.seq v = some y → y.resident = true → y.pinned = false → all = true ∨ y.inst = q.inst →
        (∀ e ∈ s.allSeqs, e.1 ≠ v → e.2.resident = true → e.2.pinned = false → all = true ∨ e.2.inst = q.inst → y.used < e.2.used) →
        Runs (.sequenceContextLoaded n t) s fun r => loads r ∧ ∃ z, r.seq v = some z ∧ z.resident = false) ∧
    (∀ pn d, (∀ g ∈ q.pages, g.pn = pn → g.move = none) → Runs (.pageMoveEnd n pn d t) s fun r => r = s.advance t) ∧
    (∀ g loc d, q.pages = [g] → q.nodes = [] → q.want = false → g.tier ≠ 2 → let m := (seqMembers q.a).length
      (g.move = some (2, loc) → s.fld R.hbmWorkMib ≤ 36864 → d.length = 65536 * m → loc * 65536 + d.length ≤ s.workTop → Runs (.pageMoveEnd n g.pn d t) s fun r =>
        StoredWork s r (loc * 65536) d ∧ ∃ z, r.seq n = some z ∧ z.pages = [{ g with tier := 2, loc := loc, move := none, dirty := false }]) ∧
      (g.move = some (3, loc) → s.hostOk q.inst (loc * 65536) (65536 * m) = true → Runs (.pageMoveEnd n g.pn d t) s fun r =>
        r.out = .hostWrite q.inst (loc * 65536) (d.take (65536 * m)) :: s.out ∧
        ∃ z, r.seq n = some z ∧ z.pages = [{ g with tier := 3, loc := loc, move := none, dirty := false }])) ∧
    (∀ g tier loc d, (q.pages.find? fun x => x.pn == g.pn) = some g → g.move = some (tier, loc) → s.Still →
      let moved : SeqPage := { g with tier := tier, loc := loc, move := none, dirty := false }
      (q.want = false → Runs (.pageMoveEnd n g.pn d t) s fun r => ∃ z, r.seq n = some z ∧
        z.pages = (q.pages.filter fun x => x.pn < g.pn) ++ [moved] ++ (q.pages.filter fun x => g.pn < x.pn) ∧ z.pos = q.pos ∧ z.st = q.st) ∧
      (q.want = true → s.dec.seqs = [(n, some q)] → q.a.mask ≠ 0 → g.tier = 1 → 2 ≤ tier → g.loc < (s.pools q.inst).slots q.a →
        g.loc ∉ q.mapped.map (·.2) ++ q.half → (∀ x ∈ q.pages, x ≠ g → x.loc ≠ g.loc) → g.pn ≠ (q.pos - 1) / 2 ^ q.a.shift →
        Runs (.pageMoveEnd n g.pn d t) s fun r => ∃ z, r.seq n = some z ∧ moved ∈ z.pages ∧ z.want = false ∧
          ∃ x ∈ z.pages, x.pn = (q.pos - 1) / 2 ^ q.a.shift ∧ x.tier = 1))) ∧
  (∀ (n : Nat) d, s.seq n = none → (Runs (.chunkLoaded n d t) s fun r => r = s.advance t) ∧ (Runs (.tokenPost n t) s fun r => r = s.advance t) ∧
    (Runs (.sequenceContextLoaded n t) s fun r => r = s.advance t) ∧ Runs (.pageMoveEnd n n [] t) s fun r => r = s.advance t) ∧
  (∀ (i : InstId) (tier : Nat) (sp : Nat × Nat), s.tierSpan i.val tier = some sp → tier = 2 ∨ tier = 3 →
    (sp.2 ≤ 16 * (sp.2 - s.tierBusy i.val tier) → Runs (.tierDemotion i tier t) s fun r => r = s.advance t) ∧
    ∀ n q g y, 16 * (sp.2 - s.tierBusy i.val tier) < sp.2 → s.oldPage i.val tier = some (n, g) → s.seq n = some q → q.inst = i.val → SMap.wf (fun _ => none) s.dec.seqs = true →
      s.firstTier i.val (seqMembers q.a).length (s.lowerTiers i.val tier) = some y → Runs (.tierDemotion i tier t) s fun r =>
        ∃ z, r.seq n = some z ∧ { g with move := some y } ∈ z.pages ∧ z.pos = q.pos ∧ z.st = q.st) ∧
  ∀ (i : InstId) (ri : Fin 64) (h : CtlHdr) (n : Nat),
    let told := fun (r : State) (st v : Nat) => RingDone s r i.val ri.val h.tag.toNat st v 0
    (∀ d : PoolDef, s.CtlFits i ri h true (poolParamLen d) 0 → let pool := Instr.poolDefine i ri h n d
      let only := fun (r : State) (p : Pools) => told r 0 0 ∧ r.pools n = p ∧ ∀ m, m ≠ n → r.pools m = s.pools m
      (63 < n → Runs pool s fun r => told r 0xE1 0 ∧ r.dec = s.dec) ∧
      (∀ k, n ≤ 63 → d = .reserved k → Runs pool s fun r => told r 0xE1 0 ∧ r.dec = s.dec) ∧
      (n ≤ 63 → s.dec.pools = [] →
        (∀ runs, d = .t0 runs → runs ≠ [] → (∀ x ∈ runs, x.1 ≤ 7 ∧ x.2.2 ≠ 0) → (runs.map (·.1)).Nodup → Runs pool s fun r => only r { s.pools n with t0 := runs }) ∧
        (∀ b k, d = .t1 b k → (k = 0 ∨ b % 65536 ≠ 0 ∨ k % 65536 ≠ 0 ∨ s.sliceOk n b k = false) → Runs pool s fun r => told r 0xE1 0 ∧ r.dec = s.dec) ∧
        (∀ b k, d = .t1 b k → k ≠ 0 → b % 65536 = 0 → k % 65536 = 0 → s.sliceOk n b k = true → Runs pool s fun r => only r { s.pools n with t1 := some (b, k) }) ∧
        (∀ b k, d = .t2 b k → k ≠ 0 → b % 65536 = 0 → k % 65536 = 0 → covered (s.dmaWins n) b k = true →
          Runs pool s fun r => only r { s.pools n with t2 := some (b, k) }) ∧
        (∀ v, d = .t3 v → s.vol v = none → Runs pool s fun r => told r 0xD7 0 ∧ r.dec = s.dec) ∧
        ∀ v, d = .t3 v → (s.vol v).isSome = true → (∃ a ∈ s.blk.atts, a.vol = v ∧ a.acc = false ∧ a.index = n ∧ a.ro = false) →
          Runs pool s fun r => only r { s.pools n with t3 := some v }) ∧
      (∀ runs, n ≤ 63 → d = .t0 runs → runs ≠ [] → (∀ x ∈ runs, x.1 ≤ 7 ∧ x.2.2 ≠ 0) → let p := s.pools n
        let meets := ∃ e ∈ s.dec.pools, ∃ x ∈ e.2.t0, ∃ y ∈ runs, y.1 = x.1 ∧ y.2.1 < x.2.1 + x.2.2 * 65536 ∧ x.2.1 < y.2.1 + y.2.2 * 65536
        (p.t0 ≠ [] ∨ ¬(runs.map (·.1)).Nodup ∨ meets → Runs pool s fun r => told r 0xD5 0 ∧ r.dec = s.dec) ∧
        (p.t0 = [] → (runs.map (·.1)).Nodup → ¬meets → Runs pool s fun r => only r { p with t0 := runs })) ∧
      (∀ b k, n ≤ 63 → d = .t1 b k → k ≠ 0 → b % 65536 = 0 → k % 65536 = 0 → s.sliceOk n b k = true → let p := s.pools n
        let meets := ∃ e ∈ s.dec.pools, ∃ x, e.2.t1 = some x ∧ b < x.1 + x.2 ∧ x.1 < b + k
        (p.t1.isSome = true ∨ meets → Runs pool s fun r => told r 0xD5 0 ∧ r.dec = s.dec) ∧
        (p.t1 = none → ¬meets → Runs pool s fun r => only r { p with t1 := some (b, k) })) ∧
      (∀ v, n ≤ 63 → d = .t3 v → (s.vol v).isSome = true → (∃ a ∈ s.blk.atts, a.vol = v ∧ a.acc = false ∧ a.index = n ∧ a.ro = false) → let p := s.pools n
        (p.t3.isSome = true ∨ (∃ e ∈ s.dec.pools, e.2.t3 = some v) → Runs pool s fun r => told r 0xD5 0 ∧ r.dec = s.dec) ∧
        (p.t3 = none → (∀ e ∈ s.dec.pools, e.2.t3 ≠ some v) → Runs pool s fun r => only r { p with t3 := some v })) ∧
      (∀ b k, n ≤ 63 → d = .t2 b k → k ≠ 0 → b % 65536 = 0 → k % 65536 = 0 → covered (s.dmaWins n) b k = true → (s.pools n).t2.isSome = true →
        Runs pool s fun r => told r 0xD5 0 ∧ r.dec = s.dec)) ∧
    (∀ a : SeqAttr, s.CtlFits i ri h false 73 0 → let make := Instr.seqCreate i ri h a
      let pool := s.pools i.val
      (seqBad a = true → Runs make s fun r => told r 0xE1 0 ∧ r.dec = s.dec) ∧
      (seqBad a = false → pool.t1 = none ∨ (∃ m ∈ seqMembers a, pool.run m = none) → Runs make s fun r => told r 0xD5 0 ∧ r.dec = s.dec) ∧
      (∀ b, seqBad a = false → pool.t1 = some b → (∀ m ∈ seqMembers a, ∃ x, pool.run m = some x ∧ s.accOk m x.1 (x.2 * 65536) = true) →
        s.inFwSpan b.1 b.2 = false → (∀ x, pool.t2 = some x → inOne s.hdmaWins x.1 x.2 = true) → (∃ m, m < 65536 ∧ s.seq m = none) →
        Runs make s fun r => ∃ m z, told r 0 m ∧ m < 65536 ∧ s.seq m = none ∧ r.seq m = some z ∧ z.inst = i.val ∧ z.a = a ∧ z.gen = 0 ∧
          z.pos = a.initLen ∧ ∀ j, j ≠ m → r.seq j = s.seq j)) ∧
    (s.CtlFits i ri h false 2 0 →
      (s.seq n = none ∨ (∃ q, s.seq n = some q ∧ q.inst ≠ i.val) → Runs (.seqDestroy i ri h n) s fun r => told r 0xD7 0 ∧ r.dec = s.dec) ∧
      ∀ q, s.seq n = some q → q.inst = i.val → Runs (.seqDestroy i ri h n) s fun r => told r 0 0 ∧ r.seq n = none ∧ ∀ j, j ≠ n → r.seq j = s.seq j)

/-! ## Resident state, checkpoint and restore (spec/15) -/

/-- The checkpoint's operations and events. A region register is written only while nothing uses it; a definition, a shard load, an arming and a
restore end with the first status of their list whose condition holds, and otherwise have their effect; an abort ends an armed or harvesting
checkpoint with 0x0E. A chunk that is durable is counted and its progress shown, a failed write ends the checkpoint with 0x0C; the durable manifest
makes CKPT_SEQ its number. A restore ends with the status of the first thing found wrong: no chain, no readable slot, no valid manifest, another
shape, a tag, a digest; otherwise its shard stands in its stack (R434 to R460, Tables 15.1 to 15.6). Stated with no twin to confirm. In a gap of a
Steward a manifest's write and a restore count for nothing, since they are made again (Table 23.2; log entry 176). -/
def Obligations.Checkpoints : Prop := ∀ (s : State) (i : InstId) (ri : Fin 64) (h : CtlHdr) (t : Nat),
  let told := fun (r : State) (st : Nat) => RingDone s r i.val ri.val h.tag.toNat st 0 0
  let idle := s.fld R.ckptState = 0
  (∀ (n : Fin 4) (len : Bool) (v : Word), let f := if len then R.rsLen n.val else R.rsBase n.val
    (idle → s.beat.running = none → s.ckpt.defn = none → Runs (.rsRegionWrite n len v) s fun r => r = { s with csr := r.csr } ∧ r.fld f = v.toNat % 2 ^ 18 ∧
      r.fld R.ckptRegErr = s.fld R.ckptRegErr) ∧
    (¬idle ∨ s.beat.running ≠ none ∨ s.ckpt.defn ≠ none → Runs (.rsRegionWrite n len v) s fun r => r = { s with csr := r.csr } ∧ r.fld f = s.fld f ∧
      r.fld R.ckptRegErr = 1)) ∧
  (∀ d : RsDef, s.CtlFits i ri h true (32 + 24 * d.shards.length + 24 * d.bindings.length) 0 → let make := Instr.rsDefine i ri h d
    (¬idle ∨ s.beat.running ≠ none → Runs make s fun r => told r 1 ∧ r.ckpt = s.ckpt) ∧
    (idle → s.beat.running = none → s.rsBad d = true → Runs make s fun r => told r 2 ∧ r.ckpt = s.ckpt ∧
      Logged s r 0 i.val 1 2 5 ri.val ((s.ring i.val ri.val).taken % (s.ring i.val ri.val).sqN)) ∧
    (idle → s.beat.running = none → s.rsBad d = false → (∃ k, k < 4 ∧ s.regionBad k = true) → Runs make s fun r => told r 4 ∧ r.ckpt = s.ckpt) ∧
    (idle → s.beat.running = none → s.rsBad d = false → (∀ k, k < 4 → s.regionBad k = false) → Runs make s fun r => told r 0 ∧
      r.ckpt = { s.ckpt with defn := some d } ∧ SameMem s r)) ∧
  (∀ shard src off len, s.CtlFits i ri h true 32 0 → let load := Instr.shardLoad i ri h shard src off len
    let found := fun (x : Shard) => ∃ d, s.ckpt.defn = some d ∧ d.shards.find? (fun y => y.id == shard) = some x
    (¬idle → Runs load s fun r => told r 1 ∧ SameMem s r) ∧
    (idle → (∀ x, ¬found x) → Runs load s fun r => told r 2 ∧ SameMem s r) ∧
    ∀ x, idle → found x → let fits := len ≠ 0 ∧ off + len ≤ x.len ∧ s.sliceOk i.val src len = true ∧ s.inFwSpan src len = false
      (¬fits → Runs load s fun r => told r 2 ∧ SameMem s r) ∧
      (fits → s.hbmBad src len = true → Runs load s fun r => told r 0x0B ∧ ∀ a, r.peek .hbm a = s.peek .hbm a) ∧
      (fits → s.hbm.mergeFails 64 (stackKey x.stack (x.off + off)) len = true → Runs load s fun r => told r 0x0B ∧ ∀ a, r.peek .hbm a = s.peek .hbm a) ∧
      (fits → s.hbm.bad = [] → s.hbm.soft = [] → Runs load s fun r => told r 0 ∧
        (∀ j, j < len → r.peek .hbm (stackKey x.stack (x.off + off) + j) = s.peek .hbm (s.workKey (src + j))) ∧
        ∀ m a, (m = .hbm → a < stackKey x.stack (x.off + off) ∨ stackKey x.stack (x.off + off) + len ≤ a) → r.peek m a = s.peek m a)) ∧
  (∀ seq target slot found, s.CtlFits i ri h true 26 0 → let arm := Instr.ckptArm i ri h seq target slot found
    let checks := [(!s.ckptIdle, 1), (s.fld R.hbmSpare == 0, 3), (s.targetBad ((s.ckpt.defn.map (·.shards)).getD []) target, 5), (!s.ckptKey slot, 6),
      (decide (2 ^ 40 ≤ seq) || s.ckpt.armed.any (fun a => decide (seq ≤ a)) || found.any (fun q => decide (seq ≤ q)), 7), (!s.ckpt.defn.any s.rosterOk, 8)]
    (∀ st, checks.find? (·.1) = some (true, st) → Runs arm s fun r => told r st ∧ r.ckpt = s.ckpt ∧ r.fld R.ckptState = s.fld R.ckptState) ∧
    ((∀ c ∈ checks, c.1 = false) → Runs arm s fun r => told r 0 ∧ r.ckpt.armed = some seq ∧ r.fld R.ckptState = 1 ∧ r.fld R.ckptProg = 0 ∧ SameMem s r ∧
      (∃ z, r.ckpt.run = some z ∧ z.seq = seq ∧ z.target = target ∧ z.keySlot = slot ∧ z.chunks = [] ∧ z.flight = []) ∧
      ∀ k, k < 4 → r.fld (R.copySrc k) = s.fld (R.rsBase k) ∧ r.fld (R.copyDst k) = 0 ∧ r.fld (R.copyLen k) = s.fld (R.rsLen k))) ∧
  (s.CtlFits i ri h true 0 0 →
    (s.fld R.ckptState = 1 ∨ s.fld R.ckptState = 3 → Runs (.ckptAbort i ri h) s fun r => told r 0 ∧ r.ckpt.run = none ∧ r.fld R.ckptState = 0 ∧
      r.fld R.ckptLast = 0x0E) ∧
    (idle → Runs (.ckptAbort i ri h) s fun r => told r 0 ∧ r.ckpt = s.ckpt ∧ r.fld R.ckptLast = s.fld R.ckptLast) ∧
    (s.fld R.ckptState = 2 ∨ 4 ≤ s.fld R.ckptState → Runs (.ckptAbort i ri h) s fun r => told r 1 ∧ r.ckpt = s.ckpt ∧
      r.fld R.ckptState = s.fld R.ckptState)) ∧
  (∀ target key slot chain, s.CtlFits i ri h true (24 + chain.length) 0 → let go := Instr.ckptRestore i ri h target key slot chain
    let checks := [(!s.ckptIdle, 1), (decide (2 < slot) || s.ckpt.defn.isNone, 2), (s.targetBad s.shards target, 5), (!s.ckptKey key, 6),
      (!s.nosched, 0x14), ((Config.chainKey chain).isNone, 0x15)]
    (∀ st, checks.find? (·.1) = some (true, st) → Runs go s fun r => told r st ∧ r.ckpt = s.ckpt ∧ r.fld R.ckptState = s.fld R.ckptState) ∧
    ((∀ c ∈ checks, c.1 = false) → Runs go s fun r => RingTook s r i.val ri.val ∧ r.fld R.ckptState = 5 ∧
      ∃ w, r.ckpt.restore = some ⟨w, target, key, slot, chain⟩ ∧ w.inst = i.val ∧ w.ring = ri.val)) ∧
  (∀ k : Fin 4, (s.ckpt.run = none → Runs (.harvestChunkDone k t) s fun r => r.ckpt = s.ckpt ∧ r.csr = s.csr ∧ SameMem s r) ∧
    (∀ z, s.ckpt.run = some z → (∀ f ∈ z.flight, f.1 ≠ k.val) → Runs (.harvestChunkDone k t) s fun r => r = s.advance t) ∧
    ∀ z j c id, s.ckpt.run = some z → z.flight.find? (fun f => f.1 == k.val) = some (k.val, j, c, id) → id ≠ 0 → s.keys.erase = [] →
      (s.writeResult id = none → Runs (.harvestChunkDone k t) s fun r => r = s.advance t) ∧
      (∀ st, s.writeResult id = some st → st ≠ 0 → s.fld R.ckptState = 3 → Runs (.harvestChunkDone k t) s fun r => r.ckpt.run = none ∧
        r.fld R.ckptState = 0 ∧ r.fld R.ckptLast = 0x0C) ∧
      ∀ x, s.writeResult id = some 0 → s.fld R.ckptState = 3 → s.shards[j]? = some x → let n := z.bytes + min chunkBytes (x.len - c * chunkBytes)
        n / mib < 2 ^ 32 → Runs (.harvestChunkDone k t) s fun r => r.fld R.ckptProg = n / mib ∧
          ∀ y, r.ckpt.run = some y → y.chunks = z.chunks ++ [(j, c)] ∧ y.bytes = n) ∧
  ((s.ckpt.run = none → Runs (.manifestWriteDone t) s fun r => r = s.advance t) ∧
    ∀ z, s.ckpt.run = some z →
      (z.manifest.bind s.writeResult = none ∨ s.gap = true → Runs (.manifestWriteDone t) s fun r => r = s.advance t) ∧
      ∀ st, z.manifest.bind s.writeResult = some st → s.gap = false → Runs (.manifestWriteDone t) s fun r => r.ckpt.run = none ∧ r.fld R.ckptState = 0 ∧
        r.fld R.ckptLast = (if st = 0 then 0 else 0x0C) ∧ (z.seq < 2 ^ 64 → r.csr.get64 R.ckptSeq = if st = 0 then z.seq else s.csr.get64 R.ckptSeq)) ∧
  ∀ (a b : Option (List Byte)) (data : List (Option (List Byte))), let done := Instr.restoreDone a b data t
    (s.ckpt.restore = none ∨ s.gap = true → Runs done s fun r => r = s.advance t) ∧
    ∀ (z : CkptRestore) (d : RsDef), s.ckpt.restore = some z → s.ckpt.defn = some d → s.Owes z.work → s.gap = false →
      let ends := fun (st : Nat) => Runs done s fun r => Paid s r z.work st 0 0 ∧ r.ckpt = { s.ckpt with restore := none } ∧ r.fld R.ckptState = 0 ∧ SameMem s r
      (Config.chainKey z.chain = none → ends 0x15) ∧
      ∀ pk, Config.chainKey z.chain = some pk → (a = none → b = none → ends 5) ∧
        (a ≠ none ∨ b ≠ none → manifestPick pk z.slot a b = none → ends 0x10) ∧
        ∀ m, manifestPick pk z.slot a b = some m → a ≠ none ∨ b ≠ none →
          (slice m 64 48 ≠ shapeDigest d → ends 0x11) ∧
          (slice m 64 48 = shapeDigest d → let rec_ := fun j => 128 + 96 * j
            let opened := fun (j : Nat) (e : List Byte) => openShard (((s.key z.keySlot).map (·.k1)).getD 0) (le m (rec_ j) 4) (le m 8 8) (le m (rec_ j + 16) 8) e
              ((le m (rec_ j + 16) 8 + chunkBytes - 1) / chunkBytes) 0
            ∀ l : List (List Byte), l.length = le m 44 4 → (∀ j, j < l.length → ∃ e, data[j]? = some (some e) ∧ opened j e = some (l.getD j []) ∧
              sha384 (l.getD j []) = slice m (rec_ j + 40) 48) → Runs done s fun r => Paid s r z.work 0 0 0 ∧ r.fld R.ckptState = 0 ∧
                r.ckpt = { s.ckpt with restore := none } ∧
                (∀ g x, le m 48 4 = 1 → g = le m (rec_ l.length) 2 → s.coll.groups.find? (fun y => y.group == g) = some x →
                  ∃ y, r.coll.groups.find? (fun y => y.group == g) = some y ∧ y.step = le m (rec_ l.length + 4) 4 ∧
                    y.expected = Vector.replicate 8 (le m (rec_ l.length + 4) 4)) ∧
                ∀ j, j < l.length → le m 48 4 = 0 → (∀ i, i < l.length → i ≠ j → let a := fun k => stackKey (le m (rec_ k + 4) 1 % 4) (le m (rec_ k + 8) 8)
                    a i + (l.getD i []).length ≤ a j ∨ a j + (l.getD j []).length ≤ a i) →
                  ∀ k, k < (l.getD j []).length → r.peek .hbm (stackKey (le m (rec_ j + 4) 1 % 4) (le m (rec_ j + 8) 8) + k) = (l.getD j []).getD k 0) ∧
          ∀ (e : List Byte) (p : Option (List Byte)), slice m 64 48 = shapeDigest d → le m 44 4 = 1 → le m 48 4 = 0 → data = [some e] →
            p = openShard (((s.key z.keySlot).map (·.k1)).getD 0) (le m 128 4) (le m 8 8) (le m 144 8) e ((le m 144 8 + chunkBytes - 1) / chunkBytes) 0 →
            (p = none → ends 0x12) ∧
            ∀ l, p = some l → Runs done s fun r => Paid s r z.work (if sha384 l = slice m 168 48 then 0 else 0x13) 0 0 ∧ r.fld R.ckptState = 0 ∧
              r.ckpt = { s.ckpt with restore := none } ∧
              ∀ j, j < l.length → r.peek .hbm (stackKey (le m 132 1 % 4) (le m 136 8) + j) = l.getD j 0

/-! ## Health and witnessed groups (spec/16) -/

/-- While Steward 5 is stopped or in a Graft gap its commands wait (R594). Otherwise the oldest report is logged as the newest entry; what Table 16.4
lists goes on the remap and repair lists, while its bank has spare rows (R208), and makes its unit suspect: a drain where drain is chosen, a raised
margin, or, for a failed unit, its repair. Powered hours are counted for the ageing section; a known-answer run over its budget is halted, and a
halted one judged; a witnessed group's digest goes to its peers, a record that fits is kept and any other recorded, and at the deadline the outcome is
what Table 16.5 says. WIT_DEFINE is refused while a table runs (R461 to R479). -/
def Obligations.HealthAndWitness : Prop := ∀ (s : State) (t : Nat),
  let now := max s.time.now t
  (s.stewardOff 5 = true → (∀ c ∈ [Instr.healthEvent t, .ageingRewrite t], Runs c s fun r => r = s.advance t) ∧
    (∀ u : Fin 256, (Runs (.katBudgetExpiry u) s fun r => r = s) ∧ Runs (.katJudge u t) s fun r => r = s.advance t) ∧
    (∀ w : Fin 8, (Runs (.witnessDigestDone w t) s fun r => r = s.advance t) ∧ Runs (.witnessDeadline w t) s fun r => r = s.advance t) ∧
    ∀ x : WitRec, Runs (.witnessRecordReceive x t) s fun r => r = s.advance t) ∧
  (s.stewardOff 5 = false →
  (s.reports = [] → Runs (.healthEvent t) s fun r => r = s.advance t) ∧
  (∀ e rest, s.reports = e :: rest → e.code = 0 → unitClass e.unit ≠ 7 → Runs (.healthEvent t) s fun r => r = { s.advance t with reports := rest }) ∧
  (∀ e rest, s.reports = e :: rest → e.code ≠ 0 →
    let first := ∀ x ∈ s.health.recent, x.1 = e.code → x.2.1 = e.unit → x.2.2.2 + dayNs ≤ now
    let suspected := fun (r : State) => (e.unit, now) ∈ r.health.suspects
    let base := s.health.suspects.filter fun x => x.1 == e.unit
    let d := bits e.unit 11 1
    let pb := bits e.unit 6 5
    (Runs (.healthEvent t) s fun r => r.health.log = (⟨now, e.code, e.unit, s.beat.season % 2 ^ 32, e.detail⟩ :: s.health.log).take 1024 ∧
      r.fld R.logHead = (s.fld R.logHead + 1) % 1024 ∧ (e.code, e.unit, e.detail, now) ∈ r.health.recent) ∧
    (e.code = 1 → first → Runs (.healthEvent t) s fun r => r.health.suspects = s.health.suspects ∧ r.reports = rest) ∧
    (e.code = 1 → ¬first → Runs (.healthEvent t) s suspected) ∧
    (e.code = 2 ∨ e.code = 7 ∨ e.code = 8 ∨ e.code = 9 → Runs (.healthEvent t) s suspected) ∧
    (e.code = 4 → let row := fun (y : Nat × Nat) => y.1 == e.unit && y.2 % 32 == e.detail % 32
      (spareRows e.unit ≤ (s.health.sramRemap.filter row).length → Runs (.healthEvent t) s fun r => r.health.sramRemap = s.health.sramRemap) ∧
      ((s.health.sramRemap.filter row).length < spareRows e.unit → s.health.sramRemap.length < 512 → Runs (.healthEvent t) s fun r => (e.unit, e.detail) ∈ r.health.sramRemap)) ∧
    (e.code = 6 → s.health.hbmRepair.length < 256 → Runs (.healthEvent t) s fun r => (e.unit, e.detail) ∈ r.health.hbmRepair) ∧
    (e.code = 3 ∨ e.code = 5 ∨ 10 ≤ e.code → Runs (.healthEvent t) s fun r => r.health.suspects = s.health.suspects ∧ r.reports = rest) ∧
    (e.code = 2 → s.fld R.twinState = 6 → s.fld R.marginEn = 0 → unitClass e.unit ≠ 8 → Runs (.healthEvent t) s fun r => r.fld R.drained = 1 ∧ r.fld R.flagReplace = 1 ∧
      r.fld R.twinState = 6 ∧ coreCode e.unit ∈ r.health.failed) ∧
    (e.code = 2 → s.fld R.twinState = 3 → unitClass e.unit = 0 → first → base = [] → s.fld (R.marginLevel d pb) < 5 → Runs (.healthEvent t) s fun r =>
      r.fld (R.marginPending d pb) = 1 ∧ r.health.failed = s.health.failed ∧ r.health.repairs = s.health.repairs ∧ r.fld R.drained = s.fld R.drained) ∧
    ∀ n, e.code = 2 → s.fld R.twinState = 3 → unitClass e.unit = 0 → base ≠ [] → s.fld (R.marginLevel d pb) = 5 → e.unit ∉ s.health.failed →
      s.coreAt e.unit = some n → s.spareFree d pb = true → s.health.repairs = [] → Runs (.healthEvent t) s fun r =>
        e.unit ∈ r.health.failed ∧ r.health.repairs = [.core n]) ∧
  (Runs (.ageingRewrite t) s fun r => r.health.poweredHours = min (2 ^ 32 - 1) (s.health.poweredHours + 24) ∧ r.out = s.out ∧ SameMem s r) ∧
  (∀ u : Fin 256, let c := s.core (coreUnit u.val)
    ((∀ k ∈ s.beat.katRuns, k.1 ≠ u.val) → (Runs (.katBudgetExpiry u) s fun r => r = s) ∧ Runs (.katJudge u t) s fun r => r = s.advance t) ∧
    ∀ n, s.beat.katRuns = [(u.val, n)] →
      (c.run.state = .running ∨ c.run.state = .waiting → Runs (.katBudgetExpiry u) s fun r => (r.core (coreUnit u.val)).run.state = .halted ∧
        (r.core (coreUnit u.val)).run.reason = .request) ∧
      (c.run.state ≠ .halted → Runs (.katJudge u t) s fun r => r = s.advance t) ∧
      (c.run.state = .halted → ∀ tr, tr = s.katTrailer (coreUnit u.val) n →
        let pass := c.run.reason = .halt ∧ c.cnt.cyc.toNat ≤ tr.2.2.1 ∧ sha384 ((s.lmem[(coreUnit u.val).val]).bytes.bytes tr.1 tr.2.1) = tr.2.2.2
        (pass → Runs (.katJudge u t) s fun r => r.beat.katRuns = [] ∧ r.fld R.katPass = min (s.fld R.katPass + 1) (2 ^ R.katPass.w - 1) ∧
          r.fld R.katFail = s.fld R.katFail) ∧
        (¬pass → Runs (.katJudge u t) s fun r => r.beat.katRuns = [] ∧ r.fld R.katFail = min (s.fld R.katFail + 1) (2 ^ R.katFail.w - 1) ∧
          r.fld R.katPass = s.fld R.katPass ∧ r.reports = s.reports ++ [⟨2, s.unitCode (coreUnit u.val), 0⟩]))) ∧
  (∀ (w : Fin 8) (z : WitRun) (d : WitDef), s.wit w.val = some d → s.witRun w.val = some z →
    let open_ := ∀ x ∈ s.witShards d, s.keyHeld (stackKey x.stack 0) = false
    (z.busy = false ∨ ¬open_ → Runs (.witnessDigestDone w t) s fun r => r = s.advance t) ∧
    (z.busy = true → open_ → d.peers = [] → s.Still → Runs (.witnessDigestDone w t) s fun r => r.out = s.out ∧
      r.witRun w.val = some { z with busy := false, digests := z.digests ++ [(d.replica, s.witDigest d z.season)] }) ∧
    (∀ p q x, z.busy = true → open_ → d.peers = [p] → s.QpAlone p.qpn q → q.st = .ready → q.owner = 64 → q.reqs = [] → q.Level → psnAdd q.acked 1 = q.sent →
      s.PathUp q x → 64 ≤ mtuBytes q.mtu → Runs (.witnessDigestDone w t) s fun r => ∃ f, PktQueued s r q x f ∧ f.opcode = 1 ∧ f.msgLen = 64 ∧
        f.payload = natLe 1 1 ++ natLe 1 0 ++ natLe 1 d.w ++ natLe 1 d.replica ++ natLe 4 z.season ++ natLe 2 s.rank ++ natLe 1 s.orchardId ++ [0] ++
          s.witDigest d z.season ++ List.replicate 4 0) ∧
    (now < z.start + d.deadlineUs * 1000 → Runs (.witnessDeadline w t) s fun r => r = s.advance t) ∧
    (z.start + d.deadlineUs * 1000 ≤ now → let judged := fun (o : Nat) => Runs (.witnessDeadline w t) s fun r => r.witRun w.val = none ∧ r.fld (R.witOutcome w.val) = o
      (z.busy = true → judged 2) ∧
      (∀ g, z.busy = false → z.digests ≠ [] → (∀ x ∈ z.digests, x.2 = g) →
        (z.digests.length = d.replicas → judged 1 ∧ (z.season < 2 ^ 32 → Runs (.witnessDeadline w t) s fun r => r.fld (R.witPass w.val) = z.season)) ∧
        (z.digests.length ≠ d.replicas → judged 2)) ∧
      (∀ x ∈ z.digests, ∀ y ∈ z.digests, z.busy = false → x.2 ≠ y.2 →
        (∀ g, majority d.replicas z.digests = some g → judged 3 ∧ ∀ o, (d.replica, o) ∈ z.digests → o ≠ g → Runs (.witnessDeadline w t) s fun r =>
          r.fld (R.witSelf w.val) = 1 ∧ ⟨9, 0x8000, w.val⟩ ∈ r.reports) ∧
        (majority d.replicas z.digests = none → judged 4)))) ∧
  (∀ x : WitRec, let bad := fun (why : Nat) => Runs (.witnessRecordReceive x t) s fun r => r.health = s.health ∧ Logged s r 2 x.rank 12 0xFF why x.w x.season
    (x.verMajor ≠ 1 → bad 3) ∧ (x.verMajor = 1 → x.rsv = true → bad 2) ∧
    (x.verMajor = 1 → x.rsv = false → 7 < x.w ∨ s.witRun x.w = none ∨ s.wit x.w = none → bad 6) ∧
    ∀ z d, x.verMajor = 1 → x.rsv = false → x.w ≤ 7 → s.witRun x.w = some z → s.wit x.w = some d →
      let fits := z.season = x.season ∧ x.replica < d.replicas ∧ x.replica ≠ d.replica ∧ ∀ g ∈ z.digests, g.1 ≠ x.replica
      (¬fits → bad 6) ∧
      (fits → Runs (.witnessRecordReceive x t) s fun r => r.witRun x.w = some { z with digests := z.digests ++ [(x.replica, x.digest)] } ∧
        r.vlog = s.vlog ∧ r.out = s.out))) ∧
  ∀ (i : InstId) (ri : Fin 64) (h : CtlHdr) (d : WitDef), s.CtlFits i ri h true (28 + 8 * (d.shards.length + d.peers.length + d.groups.length)) 0 →
    (s.beat.running ≠ none → Runs (.witDefine i ri h d) s fun r => RingDone s r i.val ri.val h.tag.toNat 1 0 0 ∧ r.health = s.health) ∧
    (s.beat.running = none → d.shards.isEmpty = true ∨ d.replicas < 2 ∨ 16 < d.replicas ∨ d.replicas ≤ d.replica ∨ d.peers.length + 1 ≠ d.replicas ∨
      d.deadlineUs < 100 ∨ 10000000 < d.deadlineUs → Runs (.witDefine i ri h d) s fun r => RingDone s r i.val ri.val h.tag.toNat 2 0 0 ∧ r.health = s.health) ∧
    (s.beat.running = none → d.w ≤ 7 → d.shards ≠ [] → d.shards.length ≤ 4096 → 2 ≤ d.replicas → d.replicas ≤ 16 → d.replica < d.replicas →
      d.peers.length + 1 = d.replicas → d.groups = [] → 100 ≤ d.deadlineUs → d.deadlineUs ≤ 10000000 → (∀ j ∈ d.shards, ∃ x ∈ s.shards, x.id = j) →
      (∀ p ∈ d.peers, p.rank ≤ 511 ∧ p.orchard ≤ 63 ∧ ∃ q, s.qp p.qpn = some q ∧ q.owner = 64 ∧ q.st = .ready) →
      Runs (.witDefine i ri h d) s fun r => RingDone s r i.val ri.val h.tag.toNat 0 0 0 ∧ r.wit d.w = some d ∧ r.witRun d.w = none)

/-! ## The twin (spec/17) -/

/-- Records, timers and events of the twin. A record that fails a check is discarded, recorded and counted; any other is heard, and what it confirms
lets the commitments held for it be made. MIRROR records are applied and confirmed in order, a journal record going into this device's flash as well,
and wait while Steward 6 is in a gap; one that contradicts the mirror is divergence. HELLO of the own SIDE fences; in DISCOVER it pairs or joins, and
in SOLO it is answered and RESYNC_DONE follows; RESYNC_DONE pairs. YIELD, and silence of both paths, begin arbitration, which preempts the twin's key
on every drive; five acquisitions take over, once no Steward the takeover needs is in a gap, and four failures fence. Silence of the link alone makes
SIDE 1 yield. The timers send their records, unconfirmed ones again; the holdover limit is FAULT; an audit that disagrees is divergence; the link's
state is shown and a foreign frame counted (R240, R481 to R500, Tables 17.1 to 17.4). -/
def Obligations.TwinOperation : Prop := ∀ (s : State) (t : Nat) (x : TwinRec),
  let now := max s.time.now t
  let st := s.fld R.twinState
  let fine := ∀ c ∈ s.twinChecks x, c.1 = false
  let grown := fun (r : State) (f : Fld) => r.fld f = min (s.fld f + 1) (2 ^ f.w - 1)
  let preempts := fun (r : State) => ∀ k, k < 8 → s.pathOk k = true → (s.drive k).queueRoom = true → ∃ cid, Emit.nvme k cid false 0x11 1 0 0 false (natLe 8 s.serial) ∈ r.out
  (∀ (m : MirItem) (b : Bool) (why : Nat), (s.twinChecks x).find? (·.1) = some (true, why) → ∀ c ∈ [Instr.twinHeartbeat x t, .twinConfirm x t,
      .twinMirror x m t, .twinHello x t, .twinResyncDone x t, .twinYield x t, .twinAudit x b t],
    Runs c s fun r => r.twin = s.twin ∧ r.out = s.out ∧ r.fld R.twinState = st ∧ grown r R.twinViol ∧ Logged s r 4 x.serial 8 0xFF why x.seq 0) ∧
  (∀ c ∈ [Instr.twinHeartbeat x t, .twinConfirm x t], fine → x.kind ≠ 0 →
    (Runs c s fun r => r.twin.lastLink = now ∧ r.twin.peerState = x.state ∧ r.twin.peerFault = x.fault) ∧
    (s.twin.held = [] → s.dec.seqs = [] → s.ckpt.run = none → s.Still → Runs c s fun r =>
      r.twin.unconf = s.twin.unconf.filter (fun m => x.confirmed < m.seq)) ∧
    ∀ (w : Work) (q a b d : Nat), st = 1 → s.twin.held = [(q, .ring w a b d)] → s.RingOwes w → s.dec.seqs = [] → s.ckpt.run = none → s.Still → s.twin.resync = none →
      (q ≤ x.confirmed → Runs c s fun r => Paid s r w a b d ∧ r.twin.held = []) ∧
      (x.confirmed < q → Runs c s fun r => r.out = s.out ∧ r.twin.held = s.twin.held)) ∧
  (∀ m : MirItem, fine → x.kind = 2 → s.TwinQuiet → st = 1 ∨ st = 4 →
    (x.seq ≤ s.twin.applied → Runs (.twinMirror x m t) s fun r => r.twin.applied = s.twin.applied ∧ r.twin.mirror = s.twin.mirror ∧ r.out = s.out) ∧
    (s.twin.applied + 1 < x.seq ∨ (s.stewardOff 6 = true ∧ s.twin.applied < x.seq) → Runs (.twinMirror x m t) s fun r => r.twin.applied = s.twin.applied ∧ r.twin.mirror = s.twin.mirror ∧
      r.twin.ahead = [(x.seq, some m)] ∧ r.out = s.out) ∧
    (∀ j, m = .journal j → x.seq = s.twin.applied + 1 → s.stewardOff 6 = false → Runs (.twinMirror x m t) s fun r => r.twin.applied = x.seq ∧
      r.twin.mirror = s.twin.mirror ++ [(x.seq, m)] ∧ r.boot.queue = s.boot.queue ++ [.journal j] ∧ (s.blk.cache = [] → TwinSent s r 3 0 0)) ∧
    ((∀ a b, m ≠ .ckptDigests a b) → (∀ j, m ≠ .journal j) → x.seq = s.twin.applied + 1 → s.stewardOff 6 = false → contradicts s.twin.mirror m = false → Runs (.twinMirror x m t) s fun r =>
      r.twin.applied = x.seq ∧ r.twin.mirror = s.twin.mirror ++ [(x.seq, m)] ∧ TwinSent s r 3 0 0 ∧ r.fld R.twinState = st) ∧
    (x.seq = s.twin.applied + 1 → s.stewardOff 6 = false → contradicts s.twin.mirror m = true → Runs (.twinMirror x m t) s fun r => r.twin.applied = x.seq ∧
      r.fld R.twinState = 6 ∧ r.fld R.flagReplace = 1)) ∧
  (fine → x.kind = 0 →
    (x.side = s.fld R.twinSide → Runs (.twinHello x t) s fun r => r.fld R.twinState = 5 ∧ r.beat.running = none ∧ ∃ v : Viol,
      r.vlog.entries = (v :: s.vlog.entries).take 4096 ∧ v.cls = 4 ∧ v.partner = x.serial ∧ v.reason = 6) ∧
    (x.side ≠ s.fld R.twinSide → st ≠ 0 → st ≠ 3 → Runs (.twinHello x t) s fun r => r.out = s.out ∧ r.fld R.twinState = st ∧ r.twin.lastLink = now) ∧
    (x.side ≠ s.fld R.twinSide → st = 0 → x.verMajor = 1 → Runs (.twinHello x t) s fun r => r.fld R.twinState = (if x.state = 3 then 4 else 1) ∧
      r.twin.helloGot = true ∧ r.twin.peerSerial = some x.serial ∧ r.twin.mirror = [] ∧ r.out = s.out) ∧
    (x.side ≠ s.fld R.twinSide → st = 0 → x.verMajor ≠ 1 → s.fld R.twinSide = 1 → Runs (.twinHello x t) s fun r => r.fld R.twinState = 5) ∧
    (x.side ≠ s.fld R.twinSide → st = 0 → x.verMajor ≠ 1 → s.fld R.twinSide = 0 → Runs (.twinHello x t) s fun r => r.fld R.twinState = 3 ∧ r.fld R.btSolo = 1) ∧
    (x.side ≠ s.fld R.twinSide → st = 3 → x.verMajor = 1 → Runs (.twinHello x t) s fun r => r.fld R.twinState = 4 ∧ ∃ y z out,
      r.out = Emit.twin false y :: out ∧ y.kind = 6 ∧ Emit.twin false z ∈ out ∧ z.kind = 0)) ∧
  (fine → x.kind = 6 → s.TwinQuiet →
    (st = 4 → Runs (.twinResyncDone x t) s fun r => r.fld R.twinState = 1 ∧ r.fld R.btSolo = 0 ∧ TwinSent s r 3 0 0) ∧
    (st ≠ 4 → Runs (.twinResyncDone x t) s fun r => r.fld R.twinState = st ∧ r.out = s.out)) ∧
  (fine → (st = 1 → Runs (.twinYield x t) s fun r => r.fld R.twinState = 2 ∧ r.twin.won = 0 ∧ r.twin.lost = 0 ∧ preempts r) ∧
    (st ≠ 1 → Runs (.twinYield x t) s fun r => r = s.advance t)) ∧
  (∀ agree, fine → x.kind = 4 → s.TwinQuiet → st = 1 ∨ st = 4 →
    (agree = false → Runs (.twinAudit x agree t) s fun r => r.fld R.twinState = 6 ∧ r.fld R.flagReplace = 1) ∧
    (agree = true → s.fld R.twinSide = 1 → Runs (.twinAudit x agree t) s fun r => r.fld R.twinState = st ∧ TwinSent s r 4 x.seq 48) ∧
    (agree = true → s.fld R.twinSide ≠ 1 → Runs (.twinAudit x agree t) s fun r => r.fld R.twinState = st ∧ r.twin.audit = none ∧ r.out = s.out)) ∧
  (∀ ok failed conflict, let c := Instr.arbitrationResult ok failed conflict t
    (st ≠ 2 → Runs c s fun r => r = s.advance t) ∧
    (st = 2 → 5 ≤ ok.val → s.takeoverWaits = false → Runs c s fun r => r.fld R.twinState = 3 ∧ r.fld R.btSolo = 1) ∧
    (st = 2 → 5 ≤ ok.val → s.takeoverWaits = true → Runs c s fun r => r.fld R.twinState = 2 ∧ r.out = s.out ∧ r.twin.won = ok.val) ∧
    (st = 2 → ok.val < 5 → conflict = true ∨ 3 < failed.val → Runs c s fun r => r.fld R.twinState = 5 ∧ r.beat.running = none) ∧
    (st = 2 → ok.val < 5 → conflict = false → failed.val ≤ 3 → Runs c s fun r => r.fld R.twinState = 2 ∧ r.out = s.out ∧ r.twin.won = ok.val ∧
      r.twin.lost = failed.val)) ∧
  (∀ link back : Prop, (link ↔ s.twin.lastLink + max 4 (s.fld R.twinHbUs) * 1000 ≤ now) → (back ↔ s.twin.lastBackup + max 2 (s.fld R.twinBkUs) * 10000 ≤ now) →
    (st ≠ 1 ∨ ¬link → Runs (.twinLinkSilence t) s fun r => r = s.advance t) ∧
    (st = 1 → link → back ∨ s.fld R.twinSide ≠ 1 → Runs (.twinLinkSilence t) s fun r => r.fld R.twinState = 2 ∧ preempts r) ∧
    (st = 1 → link → ¬back → s.fld R.twinSide = 1 → Runs (.twinLinkSilence t) s fun r => r.fld R.twinState = 5 ∧
      ∃ y, Emit.twin true y ∈ r.out ∧ y.kind = 5) ∧
    (¬back → Runs (.backupSilence t) s fun r => r = s.advance t) ∧
    (back → (Runs (.backupSilence t) s fun r => r.fld R.twinBkAlive = 0) ∧
      (st = 1 → link → Runs (.backupSilence t) s fun r => r.fld R.twinState = 2 ∧ preempts r) ∧
      (st ≠ 1 ∨ ¬link → Runs (.backupSilence t) s fun r => r.fld R.twinState = st ∧ r.out = s.out))) ∧
  (∀ due : Prop, (due ↔ s.fld R.ftState = 3 ∧ s.time.holdAt + s.holdoverLimit ≤ now) →
    (¬due → Runs (.holdoverLimit t) s fun r => r = s.advance t) ∧
    (due → Runs (.holdoverLimit t) s fun r => r.fld R.ftState = 4 ∧ r.beat.running = none ∧ ⟨0, 0x8000, 4⟩ ∈ r.reports ∧
      r.fld R.twinState = if st = 1 ∧ s.twin.peerFault = false then 5 else st)) ∧
  (s.twin.helloGot = true → Runs (.twinHelloTimer t) s fun r => r = s.advance t) ∧
  (s.twin.helloGot = false → Runs (.twinHelloTimer t) s fun r => TwinSent s r 0 0 0 ∧ r.csr = s.csr) ∧
  (s.heartStopped = true → (Runs (.twinHeartbeatTimer t) s fun r => r = s.advance t) ∧ Runs (.backupWriteTimer t) s fun r => r = s.advance t) ∧
  (s.heartStopped = false → (Runs (.twinHeartbeatTimer t) s fun r => TwinSent s r 1 0 0 ∧ r.csr = s.csr) ∧
    Runs (.backupWriteTimer t) s fun r => ∃ y, Emit.twin true y ∈ r.out ∧ y.kind = 1 ∧ y.state = st ∧ y.side = s.fld R.twinSide) ∧
  (s.twin.unconf = [] → Runs (.mirrorRetransmitTimeout t) s fun r => r = s.advance t) ∧
  (Runs (.mirrorRetransmitTimeout t) s fun r => r.out = (s.twin.unconf.map fun m => Emit.mirror m.seq m.item).reverse ++ s.out ∧ r.twin = s.twin ∧
    r.fld R.twinRetx = min (s.fld R.twinRetx + s.twin.unconf.length) (2 ^ R.twinRetx.w - 1)) ∧
  (∀ m, s.twin.unconf = [m] → Runs (.mirrorRetransmitTimeout t) s fun r => r.out = .mirror m.seq m.item :: s.out ∧ grown r R.twinRetx ∧ r.twin = s.twin) ∧
  (s.fld R.twinAuditMs = 0 ∨ s.fld R.twinSide = 1 ∨ st ≠ 1 → Runs (.auditTimer t) s fun r => r = s.advance t) ∧
  (s.fld R.twinAuditMs ≠ 0 → s.fld R.twinSide ≠ 1 → st = 1 → Runs (.auditTimer t) s fun r => TwinSent s r 4 s.twin.seq 48 ∧ r.twin.audit = some s.twin.seq) ∧
  (Runs .twinLinkUp s fun r => r = { s with csr := r.csr } ∧ r.fld R.twinLinkUp = 1) ∧
  (Runs .twinLinkDown s fun r => r = { s with csr := r.csr } ∧ r.fld R.twinLinkUp = 0) ∧
  Runs .twinLinkOtherFrame s fun r => r = { s with csr := r.csr, tele := r.tele } ∧ grown r R.twinViol

/-! ## Host rings and their control operations (spec/18) -/

/-- Enabling, doorbells, the heartbeat, interrupts and the control descriptors. A control descriptor ends with the first condition of Table 18.9 that
holds, whatever it asks for. A write of LHQI_CTL waits while Steward 1 is stopped or in a Graft gap (R556), and a key load waits in its ring for
Steward 0. ENABLE checks its version, sizes and windows and makes ring 0 active under the next generation; DISABLE and a heartbeat that is late
quiesce, which in a gap of Steward 1 goes no further than its first steps (Table 23.2). A doorbell moves the tail or the released count to what it
names, is captured while its instance is not resident, and is recorded where its ring, its range or its direction is wrong, the latter two putting the
ring in ERROR. Completions that wait are signalled after COAL_US. IDENTIFY and LOG_READ write their output; rings are created with a free number and
drained when deleted; keys are loaded in and released from the instance's own slots (R371, R504 to R526, R532, R573, Tables 18.3 to 18.11). -/
def Obligations.HostRings : Prop := ∀ (s : State) (i : InstId) (ri : Fin 64) (h : CtlHdr) (t : Nat),
  let now := max s.time.now t
  let n := i.val
  let vec := s.fld (R.lhqiVec n)
  let told := fun (r : State) (st r1 r2 : Nat) => RingDone s r n ri.val h.tag.toNat st r1 r2
  let ctl := CtlSrc.host i ri h
  let ctlKey := 0x20400008 + 0x10000 * n
  (∀ (pf : Bool) (plen need st : Nat) (c : Instr) (v : VolAttr) (pd : PoolDef) (sa : SeqAttr) (rd : RsDef) (wd : WitDef) (qa : QpAttr) (rg : RingDef)
      (tg : CkptTarget) (l : List Byte) (ns : List Nat) (a b d e : Nat) (ro : Bool),
    (c, pf, plen, need) ∈ [(Instr.identify i ri h, false, 0, 64), (.ringCreate i ri h rg, false, 36, 0), (.ringDelete i ri h a, false, 1, 0),
      (.logRead i ri h a b d, a == 2, 12, if 2 < a then 0 else 32 * ((s.logEntries n a b).take d).length), (.keyLoad i ri h a b l, false, 16 + l.length, 0),
      (.keyRelease i ri h a, false, 2, 0), (.volCreate i ri h v, true, volParamLen v, 0), (.volDestroy i ri h a, true, 2, 0),
      (.volAttach i ri h a b d ro, true, 5, 0), (.volDetach i ri h a b d, true, 5, 0), (.poolDefine i ri h a pd, true, poolParamLen pd, 0),
      (.seqCreate i ri h sa, false, 73, 0), (.seqDestroy i ri h a, false, 2, 0), (.rsDefine i ri h rd, true, 32 + 24 * rd.shards.length + 24 * rd.bindings.length, 0),
      (.shardLoad i ri h a b d e, true, 32, 0), (.ckptArm i ri h a tg b ns, true, 26, 0), (.ckptAbort i ri h, true, 0, 0),
      (.ckptRestore i ri h tg a b l, true, 24 + l.length, 0), (.witDefine i ri h wd, true, 28 + 8 * (wd.shards.length + wd.peers.length + wd.groups.length), 0),
      (.qpCreate ctl a qa, false, qpParamLen 1 qa, 0), (.qpModify ctl a b qa, false, qpParamLen 3 qa, 0), (.qpConnect ctl a t, false, 2, 0),
      (.qpReset ctl a, false, 2, 0), (.qpDestroy ctl a t, false, 2, 0), (.regionRegister ctl a b d, false, 17, 0), (.regionDeregister ctl a, false, 4, 0)] →
    s.RingReady n ri.val 0 → s.Still → (s.stewardOff 0 = false ∨ ∀ x y z, c ≠ .keyLoad i ri h x y z) →
    ([(h.rsv, 0xE1), (pf && n != 0, 0xE2),
      (h.paramAddr % 8 != 0 || h.outAddr % 8 != 0 || (h.paramLen == 0 && h.paramAddr != 0) || decide (h.outLen < need) ||
        (h.paramLen != 0 && !s.hostOk n h.paramAddr h.paramLen) || (h.outLen != 0 && !s.hostOk n h.outAddr h.outLen), 0xE3),
      (h.paramLen != (plen + 7) / 8 * 8 || decide (2 ^ 20 < h.paramLen), 0xE4), (plen != 0 && !h.readOk, 0xE5)].find? (·.1)) = some (true, st) →
    Runs c s fun r => told r st 0 0 ∧ r.lft.qps = s.lft.qps ∧ r.lft.regions = s.lft.regions ∧ r.blk.vols = s.blk.vols ∧ r.dec = s.dec ∧
      r.ckpt = s.ckpt ∧ r.keys = s.keys ∧ r.health = s.health ∧ SameMem s r ∧ ∀ why, ctlReason st = some why →
        Logged s r 0 n 1 st why ri.val ((s.ring n ri.val).taken % (s.ring n ri.val).sqN)) ∧
  (s.fld (R.instEnabled n) = 0 → ∀ v w, (Runs (.lhqiEnable i t) s fun r => r = s.advance t) ∧ (Runs (.lhqiDisable i t) s fun r => r = s.advance t) ∧
    (Runs (.lhqiHeartbeat i w t) s fun r => r = s.advance t) ∧ (Runs (.lhqiSqDoorbell i ri v t) s fun r => r = s.advance t) ∧
    (Runs (.lhqiCqDoorbell i ri v t) s fun r => r = s.advance t) ∧ Runs (.doorbellPageBadWrite i t now) s fun r => r = s) ∧
  (s.fld (R.instEnabled n) = 1 → s.feWaits ctlKey = true →
    (Runs (.lhqiEnable i t) s fun r => r = { s.advance t with wide.fe := s.wide.fe ++ [.write ctlKey 1] }) ∧
    Runs (.lhqiDisable i t) s fun r => r = { s.advance t with wide.fe := s.wide.fe ++ [.write ctlKey 0] }) ∧
  (s.fld (R.instEnabled n) = 1 →
    let acts := s.feWaits ctlKey = false
    let sq := s.csr.get64 (R.lhqiAdminSq n)
    let cq := s.csr.get64 (R.lhqiAdminCq n)
    let sqN := s.fld (R.lhqiSqM1 n) + 1
    let cqN := s.fld (R.lhqiCqM1 n) + 1
    let refused := [(s.fld (R.hostVerMajor n) != 1, 1), (decide (sqN < 2) || decide (cqN < 2) || sq % 4096 != 0 || cq % 4096 != 0, 2),
      (!s.hostOk n sq (64 * sqN) || !s.hostOk n cq (16 * cqN), 3)]
    (acts → s.fld (R.lhqiReady n) = 1 → Runs (.lhqiEnable i t) s fun r => r.rings = s.rings ∧ r.fld (R.lhqiReady n) = 1 ∧ r.fld (R.lhqiEnable n) = 1 ∧
      r.fld (R.lhqiGen n) = s.fld (R.lhqiGen n)) ∧
    (∀ e, acts → s.fld (R.lhqiReady n) = 0 → refused.find? (·.1) = some (true, e) → Runs (.lhqiEnable i t) s fun r => r.rings = s.rings ∧
      r.fld (R.lhqiReady n) = 0 ∧ r.fld (R.lhqiEnableErr n) = e ∧ r.fld (R.lhqiGen n) = s.fld (R.lhqiGen n)) ∧
    (acts → s.fld (R.lhqiReady n) = 0 → (∀ c ∈ refused, c.1 = false) → ∀ g, g = (s.fld (R.lhqiGen n) + 1) % 65536 → Runs (.lhqiEnable i t) s fun r =>
      r.fld (R.lhqiReady n) = 1 ∧ r.fld (R.lhqiQuiesced n) = 0 ∧ r.fld (R.lhqiEnableErr n) = 0 ∧ r.fld (R.lhqiGen n) = g ∧ r.fld (R.instGen n) = g ∧
      r.ring n 0 = { Ring.zero with st := .active, vec := vec, sqN := sqN, cqN := cqN, sqBase := sq, cqBase := cq, gen := g } ∧
      ∀ k, k ≠ 0 → k < 64 → r.ring n k = s.ring n k) ∧
    (∀ w : Word, Runs (.lhqiHeartbeat i w t) s fun r => r.fld (R.lhqiHb n) = w.toNat ∧ SMap.get (fun _ => 0) r.inst.hb n = now ∧ r.rings = s.rings ∧ r.out = s.out) ∧
    (∀ off v, Runs (.doorbellPageBadWrite i off v) s fun r => r.rings = s.rings ∧ r.out = s.out ∧ Logged s r 0 n 1 0xFF 8 off v) ∧
    (∀ v, s.fld (R.instResident n) = 0 →
      (Runs (.lhqiSqDoorbell i ri v t) s fun r => r = { s.advance t with inst.doorbells := s.inst.doorbells ++ [⟨n, ri.val, false, v.toNat⟩] }) ∧
      Runs (.lhqiCqDoorbell i ri v t) s fun r => r = { s.advance t with inst.doorbells := s.inst.doorbells ++ [⟨n, ri.val, true, v.toNat⟩] }) ∧
    (∀ v : BitVec 16, s.fld (R.instResident n) = 1 →
      let x := s.ring n ri.val
      let sqd := Instr.lhqiSqDoorbell i ri v t
      let cqd := Instr.lhqiCqDoorbell i ri v t
      let m := (v.toNat + x.sqN - x.taken % x.sqN) % x.sqN
      let k := (v.toNat + x.cqN - x.released % x.cqN) % x.cqN
      let bad := fun (c : Instr) (why : Nat) => Runs c s fun r => r.rings = s.rings ∧ r.out = s.out ∧ Logged s r 0 n 1 0xFF why ri.val v.toNat
      let breaks := fun (c : Instr) (why : Nat) => vec < msixVecs n → s.fld (R.msixMask n vec) = 1 → Runs c s fun r => r.ring n ri.val = { x with st := .error } ∧
        r.fld (R.lhqiRingErr n ri.val) = 1 ∧ r.fld (R.msixPend n vec) = 1 ∧ r.out = s.out ∧ Logged s r 0 n 1 0xFF why ri.val v.toNat
      (x.st = .none ∨ x.st = .draining → bad sqd 6 ∧ bad cqd 6) ∧ (x.st = .error → bad sqd 7 ∧ bad cqd 7) ∧
      (x.st = .active → (x.sqN ≤ v.toNat → breaks sqd 5) ∧ (x.cqN ≤ v.toNat → breaks cqd 5) ∧
        (v.toNat < x.sqN → m < x.tail - x.taken → breaks sqd 7) ∧ (v.toNat < x.cqN → x.posted - x.released < k → breaks cqd 7) ∧
        (v.toNat < x.sqN → x.tail - x.taken ≤ m → Runs sqd s fun r => r.ring n ri.val = { x with tail := x.taken + m } ∧ (x.taken + m) % x.sqN = v.toNat ∧
          r.out = s.out ∧ r.vlog = s.vlog) ∧
        (v.toNat < x.cqN → k ≤ x.posted - x.released → s.twin.held = [] → s.Still → Runs cqd s fun r => r.ring n ri.val = { x with released := x.released + k } ∧
          (x.released + k) % x.cqN = v.toNat ∧ r.out = s.out ∧ r.vlog = s.vlog)))) ∧
  (∀ due : Prop, (due ↔ s.fld (R.lhqiHbMs n) ≠ 0 ∧ SMap.get (fun _ => 0) s.inst.hb n + s.fld (R.lhqiHbMs n) * 1000000 ≤ now) →
    let stops := fun (c : Instr) => Runs c s fun r => r.fld (R.lhqiReady n) = 0 ∧ r.fld (R.lhqiQuiesced n) = 1 ∧ (r.pools n).t2 = none ∧
      SMap.get (fun _ => none) r.inst.keks n = none ∧ ∀ k, k < 64 → (s.ring n k).st ≠ .none → (r.ring n k).st = .draining ∧ (r.ring n k).tail = (r.ring n k).taken
    (¬due → Runs (.lhqiHbTimeout i t) s fun r => r = s.advance t) ∧
    (s.fld (R.lhqiReady n) = 1 → s.fld R.twinState ≠ 2 → s.Still → s.stewardOff 1 = false → (due → stops (.lhqiHbTimeout i t)) ∧
      (s.fld (R.instEnabled n) = 1 → s.feWaits ctlKey = false → stops (.lhqiDisable i t))) ∧
    (s.fld (R.lhqiReady n) = 1 → s.fld R.twinState ≠ 2 → s.stewardOff 1 = true → due → Runs (.lhqiHbTimeout i t) s fun r => n ∈ r.inst.late ∧
      r.fld (R.lhqiReady n) = 0 ∧ r.fld (R.lhqiQuiesced n) = s.fld (R.lhqiQuiesced n) ∧ r.lft.qps = s.lft.qps) ∧
    (s.fld (R.lhqiReady n) = 1 → s.fld R.twinState = 2 → s.fld (R.instEnabled n) = 1 → s.feWaits ctlKey = false → Runs (.lhqiDisable i t) s fun r =>
      n ∈ r.inst.late ∧ r.fld (R.lhqiReady n) = 1 ∧ r.rings = s.rings)) ∧
  (∀ x : Ring, x = s.ring n ri.val →
    (x.st = .draining → x.live = [] → Runs (.ringDrained i ri) s fun r => r.ring n ri.val = Ring.zero ∧ r.out = s.out) ∧
    (x.st ≠ .draining ∨ x.live ≠ [] → Runs (.ringDrained i ri) s fun r => r = s) ∧
    (x.unsig = 0 ∨ now < x.firstUnsig + x.coalUs * 1000 → Runs (.coalesceTimer i ri t) s fun r => r = s.advance t) ∧
    (x.unsig ≠ 0 → x.firstUnsig + x.coalUs * 1000 ≤ now → x.vec < msixVecs n →
      (s.fld (R.msixMask n x.vec) = 1 → Runs (.coalesceTimer i ri t) s fun r => (r.ring n ri.val).unsig = 0 ∧ r.fld (R.msixPend n x.vec) = 1 ∧ r.out = s.out) ∧
      (s.fld (R.msixMask n x.vec) = 0 → inOne s.hdmaWins (s.csr.get64 (R.msixKey n x.vec)) 4 = true → Runs (.coalesceTimer i ri t) s fun r =>
        (r.ring n ri.val).unsig = 0 ∧ r.out = .msix n x.vec (s.csr.get64 (R.msixKey n x.vec)) (s.csr.get (R.msixKey n x.vec + 8)).toNat :: s.out))) ∧
  (s.CtlFits i ri h false 0 64 →
    (h.writeOk = true → Runs (.identify i ri h) s fun r => told r 0 0 0 ∧ Emit.hostWrite n h.outAddr (natLe 1 1 ++ natLe 1 (s.fld (R.lhqiRunMinor n)) ++
      natLe 1 0xB1 ++ natLe 1 (s.fld R.twinSide) ++ natLe 1 n ++ natLe 3 0 ++ natLe 8 s.serial ++ List.replicate 48 0) ∈ r.out) ∧
    (h.writeOk = false → Runs (.identify i ri h) s fun r => told r 0xE5 0 0)) ∧
  (∀ p : RingDef, s.CtlFits i ri h false 36 0 → let make := Instr.ringCreate i ri h p
    let second := p.typ = 5 ∧ ∃ k, k < 64 ∧ k ≠ p.ring ∧ (s.ring n k).st ≠ .none ∧ (s.ring n k).typ = 5
    let fits := p.ring ≠ 0 ∧ p.ring ≤ 63 ∧ p.typ ≤ 5 ∧ p.vec < vecCount n ∧ 2 ≤ p.sqN ∧ p.sqN ≤ 65536 ∧ 2 ≤ p.cqN ∧ p.cqN ≤ 65536 ∧ p.sqBase % 4096 = 0 ∧
      p.cqBase % 4096 = 0 ∧ p.coalCount ≤ 65535 ∧ p.coalUs ≤ 65535 ∧ ¬second ∧ s.hostOk n p.sqBase (64 * p.sqN) = true ∧ s.hostOk n p.cqBase (16 * p.cqN) = true
    (¬fits → Runs make s fun r => told r 0xE1 0 0 ∧ (p.ring ≠ ri.val → r.ring n p.ring = s.ring n p.ring)) ∧
    (fits → (s.ring n p.ring).st ≠ .none → (s.ring n p.ring).drained = false → Runs make s fun r => told r 0xE6 0 0 ∧
      (p.ring ≠ ri.val → r.ring n p.ring = s.ring n p.ring)) ∧
    (fits → (s.ring n p.ring).st = .none → Runs make s fun r => told r 0 0 0 ∧ r.ring n p.ring = { Ring.zero with
      st := .active, typ := p.typ, vec := p.vec, sqN := p.sqN, cqN := p.cqN, sqBase := p.sqBase, cqBase := p.cqBase, coalCount := p.coalCount,
      coalUs := p.coalUs, gen := s.fld (R.lhqiGen n) })) ∧
  (∀ k, s.CtlFits i ri h false 1 0 → let drop := Instr.ringDelete i ri h k
    (k = 0 ∨ 63 < k → Runs drop s fun r => told r 0xE1 0 0) ∧
    (0 < k → k ≤ 63 → (s.ring n k).st ≠ .active → (s.ring n k).st ≠ .error → Runs drop s fun r => told r 0xD7 0 0) ∧
    (0 < k → k ≤ 63 → k ≠ ri.val → (s.ring n k).st = .active ∨ (s.ring n k).st = .error → Runs drop s fun r => told r 0 0 0 ∧
      (r.ring n k).st = .draining ∧ (r.ring n k).tail = (s.ring n k).taken ∧ (r.ring n k).gen = (s.ring n k).gen)) ∧
  (∀ log first count, let l := (s.logEntries n log first).take count
    (s.CtlFits i ri h (log == 2) 12 0 → 2 < log → Runs (.logRead i ri h log first count) s fun r => told r 0xE1 0 0) ∧
    (s.CtlFits i ri h (log == 2) 12 (32 * l.length) → log ≤ 2 → h.writeOk = true → Runs (.logRead i ri h log first count) s fun r =>
      told r 0 l.length ((l.getLast?.map fun e => e.1 + 1).getD first) ∧ (l ≠ [] → l.flatMap (·.2) ≠ [] → Emit.hostWrite n h.outAddr (l.flatMap (·.2)) ∈ r.out))) ∧
  ∀ (slot mode : Nat) (l : List Byte),
    (s.stewardOff 0 = true → Runs (.keyLoad i ri h slot mode l) s fun r => r = s) ∧
    (s.CtlFits i ri h false (16 + l.length) 0 → s.stewardOff 0 = false → let load := Instr.keyLoad i ri h slot mode l
      let key := ((SMap.get (fun _ => none) s.inst.keks n : Option (BitVec 256)).bind fun k => keyUnwrap k l)
      let want := if mode = 0 then 32 else 64
      let refused := [(!s.ownsSlot n slot, 6), (s.boundCount slot != 0, 0xA), (decide (1 < mode), 0xE1), (!key.any (fun k => k.length == want), 0xD6)]
      (∀ st, refused.find? (·.1) = some (true, st) → Runs load s fun r => told r st 0 0 ∧ r.keys = s.keys) ∧
      ∀ k, (∀ c ∈ refused, c.1 = false) → key = some k → let half := fun (i : Nat) => BitVec.ofNat 256 (beNat (slice k (32 * i) 32))
        (mode = 0 → Runs load s fun r => told r 0 0 0 ∧ r.key slot = some ⟨false, n, half 0, 0⟩ ∧ ∀ j, j ≠ slot → r.key j = s.key j) ∧
        (mode = 1 → half 0 ≠ half 1 → Runs load s fun r => told r 0 0 0 ∧ r.key slot = some ⟨true, n, half 0, half 1⟩ ∧ ∀ j, j ≠ slot → r.key j = s.key j) ∧
        (mode = 1 → half 0 = half 1 → Runs load s fun r => told r 0xB 0 0 ∧ r.keys = s.keys)) ∧
    (s.CtlFits i ri h false 2 0 → let free := Instr.keyRelease i ri h slot
      (s.ownsSlot n slot = false → Runs free s fun r => told r 6 0 0 ∧ r.keys = s.keys) ∧
      (s.ownsSlot n slot = true → s.boundCount slot ≠ 0 → Runs free s fun r => told r 0xA 0 0 ∧ r.keys = s.keys) ∧
      (s.ownsSlot n slot = true → s.boundCount slot = 0 → Runs free s fun r => told r 0 0 0 ∧ r.key slot = none ∧ ∀ j, j ≠ slot → r.key j = s.key j))

/-! ## Instances (spec/01, spec/19) -/

/-- Residency, enabling, removal and quota of instances. An instance loads where one of 16 places is free, and the longest resident that is not pinned
and whose quantum of 100 us is over gives its place to the next that waits; VF Enable makes instances 1 to NumVFs exist and removes those above, a
count over 63 being ignored and recorded; a reset quiesces and clears ENABLE and READY with GEN kept, and that of the physical function reaches every
instance; in a gap of Steward 1 a quiesce goes no further than its first steps and a removal waits (R594); a removal destroys what the instance owned;
COMMIT refuses a record with the first code of Table 19.1 that holds, and otherwise puts it into effect, PENDING where it narrows under running work
(R29, R31, R37, R527 to R538, Tables 1.7, 19.1 and 19.2). -/
def Obligations.InstanceLifecycle : Prop := ∀ (s : State) (i : InstId) (t : Nat),
  let n := i.val
  let now := max s.time.now t
  let spent := fun (j : Nat) => !s.instPinned j && decide (SMap.get (fun _ => 0) s.inst.since j + 100000 ≤ now)
  SMap.wf resetVal s.csr = true →
  (s.fld (R.instEnabled n) = 0 ∨ s.fld (R.instResident n) = 1 ∨ 16 ≤ s.inst.order.length → Runs (.instanceContextLoaded i t) s fun r => r = s.advance t) ∧
  (s.fld (R.instEnabled n) = 1 → s.fld (R.instResident n) = 0 → s.inst.order.length < 16 → (∀ d ∈ s.inst.doorbells, d.inst ≠ n) →
    Runs (.instanceContextLoaded i t) s fun r => r.inst.order = s.inst.order ++ [n] ∧ r.fld (R.instResident n) = 1 ∧ r.rings = s.rings ∧
      SMap.get (fun _ => 0) r.inst.since n = now) ∧
  (s.inst.doorbells = [] → Runs (.instanceQuantumExpiry t) s fun r => r = s.advance t) ∧
  (∀ d k, s.inst.doorbells = [d] → d.inst = n → d.ring < 64 → k < 64 → s.fld (R.instEnabled n) = 1 → n ∉ s.inst.order →
    (s.inst.order.length < 16 → Runs (.instanceQuantumExpiry t) s fun r => r.inst.order = s.inst.order ++ [n] ∧ r.fld (R.instResident n) = 1 ∧
      r.inst.doorbells = []) ∧
    (16 ≤ s.inst.order.length → s.inst.order.find? spent = some k → Runs (.instanceQuantumExpiry t) s fun r =>
      r.inst.order = s.inst.order.erase k ++ [n] ∧ r.fld (R.instResident k) = 0 ∧ r.fld (R.instResident n) = 1) ∧
    (16 ≤ s.inst.order.length → (∀ j ∈ s.inst.order, spent j = false) → Runs (.instanceQuantumExpiry t) s fun r => r = s.advance t)) ∧
  (∀ en num,
    (63 < num → Runs (.vfEnable en num t) s fun r => r.inst = s.inst ∧ r.csr = s.csr ∧ Logged s r 0 0 14 0xFF 5 num 0) ∧
    (num ≤ 63 → let m := if en then num else 0
      Runs (.vfEnable en num t) s fun r => r.inst.numVfs = m ∧
        (∀ k, 1 ≤ k → k ≤ m → r.fld (R.instEnabled k) = 1) ∧
        ∀ k, m < k → k ≤ 63 → (s.fld (R.instEnabled k) = 1 → r.fld (R.instRemoving k) = 1) ∧ r.fld (R.instEnabled k) = s.fld (R.instEnabled k))) ∧
  (s.fld R.twinState ≠ 2 → s.stewardOff 1 = true → n ≠ 0 → s.fld (R.instEnabled n) = 1 → s.fld (R.instRemoving n) = 0 → s.fld (R.lhqiReady n) = 1 →
    Runs (.flr i t) s fun r => r.fld (R.lhqiReady n) = 0 ∧ n ∈ r.inst.late ∧ r.lft.qps = s.lft.qps) ∧
  (s.fld R.twinState ≠ 2 → s.Still → s.stewardOff 1 = false →
    (n ≠ 0 → s.fld (R.instEnabled n) = 1 → s.fld (R.instRemoving n) = 0 → Runs (.flr i t) s fun r => r.fld (R.lhqiReady n) = 0 ∧
      r.fld (R.lhqiGen n) = s.fld (R.lhqiGen n) ∧ r.fld (R.lhqiEnable n) = 0 ∧
      ∀ k, k < 64 → (s.ring n k).st ≠ .none → s.fld (R.lhqiReady n) = 1 → (r.ring n k).st = .draining) ∧
    (n ≠ 0 → s.fld (R.instEnabled n) = 0 ∨ s.fld (R.instRemoving n) = 1 → Runs (.flr i t) s fun r => r = s.advance t) ∧
    (n = 0 → Runs (.flr i t) s fun r => (∀ k, k < 64 → r.fld (R.lhqiReady k) = 0) ∧ r.inst.numVfs = 0 ∧ r.fld (R.lhqiGen 0) = s.fld (R.lhqiGen 0) ∧
      ∀ k, 1 ≤ k → k ≤ 63 → s.fld (R.instEnabled k) = 1 → r.fld (R.instRemoving k) = 1)) ∧
  (s.fld (R.instRemoving n) = 0 ∨ s.stewardOff 1 = true → Runs (.instanceRemoval i t) s fun r => r = s.advance t) ∧
  (s.fld (R.instRemoving n) = 1 → n ∉ s.inst.late → s.stewardOff 1 = false → s.Still → (∀ slot, s.boundCount slot = 0) → Runs (.instanceRemoval i t) s fun r =>
    r.fld (R.instRemoving n) = 0 ∧ r.fld (R.instResident n) = 0 ∧ r.fld (R.instEnabled n) = (if n ≤ s.inst.numVfs then 1 else 0) ∧
    r.inst.order = s.inst.order.erase n ∧ r.pools n = Pools.none ∧ (∀ k q, r.seq k = some q → q.inst ≠ n) ∧ (∀ slot k, r.key slot = some k → k.owner ≠ n) ∧
    (∀ d ∈ r.inst.doorbells, d.inst ≠ n) ∧ (∀ a ∈ r.blk.atts, a.acc = true ∨ a.index ≠ n) ∧
    ∀ k, k < 20 → r.quota.get (R.instKey n + 4 * k) = resetVal (R.instKey n + 4 * k) ∧ r.csr.get (R.instKey n + 4 * k) = resetVal (R.instKey n + 4 * k)) ∧
  let rs := s.shadowRanges n
  let sl := sliceOf s.csr n
  let ks := keysOf s.csr n
  let res := (s.csr.get (R.instKey n + 0x48)).toNat
  let meets := fun (a b : Nat × Nat) => decide (0 < a.2) && decide (0 < b.2) && extentsMeet a.1 a.2 b.1 b.2
  let refused := [((rs.any fun r => !pagesIn r (byFirst s.hdmaWins)) || (sl.2 != 0 && (s.inFwSpan sl.1 sl.2 || s.inRegion sl.1 sl.2)), 1),
    ((List.range 63).any (fun k => k + 1 != n && (meets sl (sliceOf s.quota (k + 1)) || meets ks (keysOf s.quota (k + 1)))), 2), (s.excludes n rs sl ks, 3),
    ((rs.any fun r => decide (r.2 < r.1)) || decide (4096 < ks.1 + ks.2) || decide (s.workTop < sl.1 + sl.2) || decide (4096 < bits res 0 13) ||
      decide (16384 < bits res 16 15), 4)]
  (∀ e, refused.find? (·.1) = some (true, e) → Runs (.instCommit i t) s fun r => r.quota = s.quota ∧ r.fld (R.instErr n) = 1 ∧ r.fld (R.instErrCode n) = e) ∧
  ((∀ c ∈ refused, c.1 = false) → s.lft.qps = [] → s.dec.seqs = [] → Runs (.instCommit i t) s fun r =>
    (∀ k, k < 20 → r.quota.get (R.instKey n + 4 * k) = s.csr.get (R.instKey n + 4 * k)) ∧ r.rings = s.rings ∧ r.keys = s.keys ∧
    (s.narrows n = true → (∃ k, k < 64 ∧ (s.ring n k).live ≠ []) → r.fld (R.instPending n) = 1 ∧
      ∀ k ix, k < 64 → ix ∈ (s.ring n k).live → (n, k, ix) ∈ r.inst.pend) ∧
    (s.narrows n = false → r.fld (R.instPending n) = s.fld (R.instPending n) ∧ r.inst.pend = s.inst.pend))

/-! ## The Rind, watchdogs, restart and Graft (spec/20, spec/21) -/

/-- RIND_LOCK locks once, and SECY EN of each port takes its bit of RIND_CIPHER. A KICK starts the watchdog's count; its end halts the Steward, which
is then to be restarted and reported; the restart runs it from its image in force, or from its handover record. GRAFT and RESTART wait while Steward
1, or Steward 0, which carries them out, is stopped (R556, R594), and are refused while the device is busy; a package ends the Graft with the first
status of Table 20.8 that holds, and otherwise its first target is sent HANDOVER; an answer with a good record starts the new image, a bad one and the
time-outs end the Graft, the old image running again from its record where the new one had started; ACCEPT puts the image in force and goes on (R547,
R548, R553 to R561, R563 to R566, Tables 20.5 to 20.8). -/
def Obligations.Firmware : Prop := ∀ (s : State) (n : Fin 8) (t : Nat),
  let now := max s.time.now t
  let u := stewardUnit n.val
  let busy := s.fld R.graftState ≠ 0 ∨ s.fld R.twinState = 2 ∨ s.fld R.ckptState = 2 ∨ s.fld R.ckptState = 4 ∨ s.fld R.ckptState = 5
  let ends := fun (i : Instr) (st : Nat) => Runs i s fun r => r.fw.graft = none ∧ r.fld R.graftState = 0 ∧ r.fld R.graftStatus = st
  let idles := fun (i : Instr) => Runs i s fun r => r = s.advance t
  (s.fld R.rindLock = 1 → Runs .rindLock s fun r => r = s) ∧
  (s.fld R.rindLock = 0 → Runs .rindLock s fun r => r = { s with csr := r.csr } ∧ r.fld R.rindLock = 1 ∧ r.fld R.rindCipher = s.fld R.rindCipher ∧
    ∀ p, p < 32 → r.fld (R.secyEn p) = if bitAt (s.fld R.rindCipher) p then 1 else 0) ∧
  (Runs (.watchdogKick n t) s fun r => r = { s.advance t with fw := r.fw } ∧ r.fw.kick[n] = now ∧ r.fw.graft = s.fw.graft ∧ r.fw.images = s.fw.images ∧
    ∀ m : Fin 8, m ≠ n → r.fw.kick[m] = s.fw.kick[m]) ∧
  (∀ due : Prop, (due ↔ ((s.core u).run.state = .running ∨ (s.core u).run.state = .waiting) ∧
      s.fw.kick[n] + (if s.fld (R.wdogMs n.val) = 0 then 10 else s.fld (R.wdogMs n.val)) * 1000000 ≤ now) →
    (¬due → idles (.stewardWatchdogExpiry n t)) ∧
    (due → Runs (.stewardWatchdogExpiry n t) s fun r => (r.core u).run.state = .halted ∧ (r.core u).run.reason = .request ∧ n.val ∈ r.stopped ∧
      r.fld (R.fwRestarting n.val) = 1 ∧ r.fld (R.fwRestarts n.val) = min (s.fld (R.fwRestarts n.val) + 1) 255 ∧
      ⟨0, 0x7000 + n.val, 0⟩ ∈ r.reports)) ∧
  (n.val ∉ s.stopped ∨ stewardLoader n.val ∈ s.stopped → idles (.stewardRestart n t)) ∧
  (n.val ∈ s.stopped → s.stopped.Nodup → stewardLoader n.val ∉ s.stopped → s.fw.graft = none → s.wide.fe = [] →
    (s.fw.back = [] → Runs (.stewardRestart n t) s fun r => StewardRuns r n (s.fwImage n.val) 0 0 ∧ n.val ∉ r.stopped ∧ r.fld (R.fwRestarting n.val) = 0) ∧
    ∀ k, s.fw.back = [(n.val, k)] → Runs (.stewardRestart n t) s fun r => StewardRuns r n (s.fwImage n.val) 0xBF000000 (BitVec.ofNat 32 k) ∧
      n.val ∉ r.stopped ∧ r.fw.back = [] ∧ r.fld (R.fwRestarting n.val) = 0) ∧
  (∀ (mask : BitVec 8) (persist : Bool),
    let go := Instr.graft mask persist t
    let restart := Instr.graftRestartCmd mask t
    let later := (Runs go s fun r => r = { s.advance t with wide.fe := s.wide.fe ++ [.write 0x40000C (BitVec.ofNat 32 (1 + mask.toNat * 256 + if persist then 65536 else 0))] }) ∧
      Runs restart s fun r => r = { s.advance t with wide.fe := s.wide.fe ++ [.write 0x40000C (BitVec.ofNat 32 (2 + mask.toNat * 256))] }
    (s.feWaits 0x40000C = true → later) ∧
    (s.feWaits 0x40000C = false → ¬busy → 0 ∈ s.stopped → later) ∧
    (s.feWaits 0x40000C = false → busy → (Runs (.graft mask persist t) s fun r => r.fw = s.fw ∧ r.fld R.graftStatus = 1 ∧ r.fld R.graftState = s.fld R.graftState ∧ r.cores = s.cores) ∧
      Runs (.graftRestartCmd mask t) s fun r => r.fw = s.fw ∧ r.fld R.graftStatus = 1 ∧ r.stopped = s.stopped ∧ r.cores = s.cores) ∧
    (s.feWaits 0x40000C = false → ¬busy → 0 ∉ s.stopped → (Runs (.graftRestartCmd mask t) s fun r => r.fld R.graftStatus = 0 ∧ r.fld R.graftDone = 0 ∧ ∀ m : Fin 8,
        (bitAt mask.toNat m.val = true → m.val ∈ r.stopped ∧ r.fld (R.fwRestarting m.val) = 1 ∧ (r.core (stewardUnit m.val)).run.state ≠ .running ∧
          (r.core (stewardUnit m.val)).run.state ≠ .waiting) ∧
        (bitAt mask.toNat m.val = false → (m.val ∈ r.stopped ↔ m.val ∈ s.stopped) ∧
          ((∀ k : Fin 8, (s.core (stewardUnit k.val)).run.state ≠ .waiting) → r.core (stewardUnit m.val) = s.core (stewardUnit m.val)))) ∧
      ∀ (a len : Nat) (p : List Byte), a = s.csr.get64 R.graftSrc → len = s.fld R.graftLen → p = s.hbmBytes a len → s.fw.graft = none →
        (s.workTop < a + len ∨ 28 * mib < len ∨ s.hbmBad a len = true → ends (.graft mask persist t) 2) ∧
        (a + len ≤ s.workTop → len ≤ 28 * mib → s.hbmBad a len = false →
          let refused := [(!pkgFormed p || (List.range 8).any (fun m => bitAt mask.toNat m && !bitAt (le p 16 1) m), 2), (!pkgSigned p, 3),
            (decide (pkgSvn p < s.boot.flash.rpmc0), 4), ((List.range 8).any fun m => bitAt mask.toNat m && (pkgImage p m).domain != s.domDigest m, 5)]
          (∀ st, refused.find? (·.1) = some (true, st) → ends (.graft mask persist t) st) ∧
          ((∀ c ∈ refused, c.1 = false) → mask = 0 → persist = false → ends (.graft mask persist t) 0) ∧
          ∀ (m : Fin 8) (rest : List Nat), (∀ c ∈ refused, c.1 = false) → graftOrder mask.toNat = m.val :: rest → m.val ∉ s.stopped → Runs (.graft mask persist t) s fun r =>
            r.fld R.graftState = 2 ∧ r.fld (R.fwGrafting m.val) = 1 ∧ r.fld R.graftDone = 0 ∧ r.fw.graft = some ⟨m.val :: rest, persist, p, true, none, now⟩ ∧
            ∀ k : Fin 8, k.val = stewardLoader m.val → ((s.core (stewardUnit m.val)).ports.smbRx[k]).length < 16 →
              (r.core (stewardUnit m.val)).ports.smbRx[k] = (s.core (stewardUnit m.val)).ports.smbRx[k] ++ [1]))) ∧
  (∀ len code, (∀ g, s.fw.graft = some g → g.sent = false ∨ g.targets.head? ≠ some n.val) → idles (.handoverAnswer n len t) ∧ idles (.accept n t) ∧ idles (.refuse n code t)) ∧
  (s.fw.graft = none → idles (.graftHandoverTimeout t) ∧ idles (.graftStartTimeout t)) ∧
  ∀ (g : GraftRun) (rest : List Nat), s.fw.graft = some g → g.targets = n.val :: rest → g.sent = true → s.wide.fe = [] →
    (∀ len, g.recLen = none → let h := s.hbmBytes (s.recordAddr n.val) 32
      let good := s.hbmBad (s.recordAddr n.val) 32 = false ∧ le h 0 4 = 0x52474D4C ∧ le h 6 1 = n.val ∧ le h 24 4 = len ∧ 128 ≤ len ∧ len ≤ 16 * mib
      (good → Runs (.handoverAnswer n len t) s fun r => StewardRuns r n (pkgImage g.pkg n.val) 0xBF000000 (BitVec.ofNat 32 len) ∧ r.fld R.graftState = 3 ∧
        r.fw.graft = some { g with recLen := some len, since := now }) ∧
      (¬good → ends (.handoverAnswer n len t) 7 ∧ Runs (.handoverAnswer n len t) s fun r => n.val ∈ r.stopped ∧ (r.core u).run.state = .halted)) ∧
    (g.recLen = none → ∀ code, idles (.accept n t) ∧ idles (.refuse n code t) ∧ idles (.graftStartTimeout t) ∧
      (now < g.since + 2000000 → idles (.graftHandoverTimeout t)) ∧
      (g.since + 2000000 ≤ now → ends (.graftHandoverTimeout t) 6 ∧ Runs (.graftHandoverTimeout t) s fun r => r.fld (R.fwGrafting n.val) = 0)) ∧
    ∀ len, g.recLen = some len →
      (∀ k, idles (.handoverAnswer n k t)) ∧ idles (.graftHandoverTimeout t) ∧
      (n.val ∉ rest → Runs (.accept n t) s fun r => r.fw.images[n] = pkgImage g.pkg n.val ∧ r.fld (R.fwGrafting n.val) = 0 ∧ bitAt (r.fld R.graftDone) n.val = true) ∧
      (rest = [] → g.persist = false → ends (.accept n t) 0) ∧
      (rest = [] → g.persist = true → Runs (.accept n t) s fun r => r.fld R.graftState = 4 ∧
        r.boot.queue.getLast? = some (.package (s.fld R.bootPkgSlot == 0) g.pkg)) ∧
      (∀ (m : Fin 8) (l : List Nat), rest = m.val :: l → m ≠ n → m.val ∉ s.stopped → Runs (.accept n t) s fun r => r.fld R.graftState = 2 ∧
        r.fld (R.fwGrafting m.val) = 1 ∧ r.fw.graft = some { g with targets := rest, recLen := none, since := now }) ∧
      (∀ code : BitVec 8, s.Still → s.hbm.bad = [] → s.fld R.twinState ≠ 2 → s.fld R.hbmWorkMib ≤ 36864 → s.recordAddr n.val + 31 ≤ s.workTop → ends (.refuse n code t) 8 ∧ Runs (.refuse n code t) s fun r =>
        StewardRuns r n (s.fwImage n.val) 0xBF000000 (BitVec.ofNat 32 len) ∧ Emit.toSteward (stewardLoader n.val) 3 code.toNat 0 ∈ r.out ∧
        r.peek .hbm (s.workKey (s.recordAddr n.val + 30)) = s.peek .hbm (s.workKey (s.recordAddr n.val + 30)) ||| 1#8) ∧
      (now < g.since + 4000000 → idles (.graftStartTimeout t)) ∧
      (g.since + 4000000 ≤ now → ends (.graftStartTimeout t) 9 ∧ Runs (.graftStartTimeout t) s fun r =>
        StewardRuns r n (s.fwImage n.val) 0xBF000000 (BitVec.ofNat 32 len))

/-! ## Reset, boot, the Device Record and flash (spec/21, spec/24) -/

/-- Every reset source returns the device to its state after reset, but for what the flash holds, with its cause in RST_CAUSE; a thermal trip ends
only at a cool SYS_RST_N. BOOT stops with the first error of Table 21.5 that it meets, enters recovery with no package to start, and otherwise runs
the eight Stewards from the chosen package under the chosen record, the counters raised and the Rind locked. A signed section of the record is taken
and the record written, any other recorded; one write runs at a time; a package for recovery is placed in slot A and started by a reset when it is
valid; a flash write that ends makes its copy or its package the flash's, and one that fails is repeated or ends its Graft; what Steward 0 does of
this waits for it (R564 to R570, R576, R577, R594, R599, R612 to R614). -/
def Obligations.BootAndRecord : Prop := ∀ s : State,
  let anew := fun (r : State) (cause : Nat) => r.cores = State.reset.cores ∧ SameMem State.reset r ∧ r.fld R.rstCauseF = cause ∧ r.boot.flash = s.boot.flash ∧
    r.out = s.out ∧ r.pending = s.pending ∧ r.time = State.reset.time ∧ r.fld R.bootDone = 0 ∧ r.keys = State.reset.keys ∧ r.rings = [] ∧ r.lft = State.reset.lft
  (∀ i ∈ [Instr.powerOn, .railFault], Runs i s fun r => anew r 0 ∧ r.pins = PinSt.reset) ∧
  (s.pins.thermtrip = true → (Runs (.sysReset false) s fun r => r = { s with pins := { s.pins with sysRst := true } }) ∧
    (Runs (.sysReset true) s fun r => anew r 3 ∧ r.pins.thermtrip = false ∧ r.pins.sysRst = true) ∧ Runs .devReset s fun r => r = s) ∧
  (s.pins.thermtrip = false → (∀ cool, Runs (.sysReset cool) s fun r => anew r 1 ∧ r.pins.sysRst = true) ∧
    Runs .devReset s fun r => anew r 2 ∧ r.pins.sysRst = s.pins.sysRst ∧ r.pins.perst = s.pins.perst) ∧
  (∀ i : BootIn, s.fld R.bootDone = 1 ∨ s.fld R.bootErr ≠ 0 ∨ s.fld R.bootRecovery = 1 ∨ s.pins.thermtrip = true → Runs (.boot i) s fun r => r = s) ∧
  (∀ (i : BootIn) (f : Flash), s.fld R.bootDone = 0 → s.fld R.bootErr = 0 → s.fld R.bootRecovery = 0 → s.pins.thermtrip = false → f = i.flash.getD s.boot.flash →
    let chosen := chooseRec f.rpmc1 f.recA f.recB
    let stops := [(i.testEn, 4), (!i.flashOk, 1), (!i.pllOk, 4), (f.recA.isNone && f.recB.isNone, 2), (!i.pufOk, 3), (chosen.isNone, 2)]
    (∀ e, stops.find? (·.1) = some (true, e) → Runs (.boot i) s fun r => r.fld R.bootErr = e ∧ r.fld R.bootDone = 0 ∧ r.cores = s.cores ∧
      r.fld R.twinSide = if i.side then 1 else 0) ∧
    ∀ (b : Bool) (c : DevRec), (∀ x ∈ stops, x.1 = false) → chosen = some (b, c) → c.seq < 2 ^ 64 → c.serial < 2 ^ 64 →
      (choosePkg f.rpmc0 f.pkgA f.pkgB = none → Runs (.boot i) s fun r => r.fld R.bootRecovery = 1 ∧ r.fld R.bootDone = 0 ∧ r.cores = s.cores) ∧
      ∀ (q : Bool) (p : List Byte), choosePkg f.rpmc0 f.pkgA f.pkgB = some (q, p) →
        (i.hwOk = false → Runs (.boot i) s fun r => r.fld R.bootErr = 4 ∧ r.fld R.bootStep = 4 ∧ r.fld R.bootDone = 0 ∧ r.cores = s.cores) ∧
        (i.hwOk = true → c.d.margins = [] → Runs (.boot i) s fun r => r.fld R.bootDone = 1 ∧ r.fld R.bootStep = 7 ∧ r.fld R.bootErr = 0 ∧
          r.fld R.bootPkgSlot = (if q then 1 else 0) ∧ r.fld R.drCopy = (if b then 1 else 0) ∧ r.csr.get64 R.drSeq = c.seq ∧ r.csr.get64 R.devSerial = c.serial ∧
          r.boot.chosen = some c ∧ r.boot.digest = sha384 p ∧ r.boot.flash.rpmc0 = max f.rpmc0 (pkgSvn p) ∧ r.boot.flash.rpmc1 = max f.rpmc1 c.seq ∧
          r.fld R.rindLock = 1 ∧ r.fld R.hbmWorkMib = workMib c.d.spare ∧ r.health.failed = c.d.failed ∧ r.blk.journal = f.journal ∧ r.pins.sysRst = false ∧
          (∀ n : Fin 8, StewardRuns r n (pkgImage p n.val) 0 0 ∧ r.pins.accPerst[n] = true ∧ r.pins.storPerst[n] = true) ∧ ∀ a, r.peek .hbm a = 0)) ∧
  (∀ x, s.stewardOff 0 = true → Runs (.drUpdate x) s fun r => r = s) ∧
  (∀ (x : DrUpdate) (c : DevRec), s.boot.chosen = some c → s.stewardOff 0 = false →
    let first := c.d.ownerKey = [] ∧ x.key ≠ []
    let good := (first ∨ c.d.ownerKey = sha384 x.key) ∧ Config.ecdsaOk x.key (sha384 (natLe 8 c.seq ++ natLe 8 c.serial ++ x.raw)) x.sig = true
    (¬good → Runs (.drUpdate x) s fun r => r = { s with vlog := r.vlog, tele := r.tele } ∧ Logged s r 5 0 13 0xFF 11 0 0) ∧
    (good → ∃ d, d = { updateSections c.d x.section_ with
        ownerKey := if first then sha384 x.key else (updateSections c.d x.section_).ownerKey } ∧ Runs (.drUpdate x) s fun r =>
      r.fld R.drPending = 1 ∧ r.boot.chosen = some { c with d := d } ∧
      (s.fld R.drWriting = 0 → r.fld R.drWriting = 1 ∧ ∃ y, r.boot.queue = s.boot.queue ++ [.record (s.fld R.drCopy == 0) y] ∧ y.seq = c.seq + 1 ∧
        y.d.rind = d.rind ∧ y.d.config = d.config ∧ y.d.spare = d.spare ∧ y.d.ownerKey = d.ownerKey) ∧
      (s.fld R.drWriting = 1 → r.boot.queue = s.boot.queue ∧ r.boot.want = true))) ∧
  (∀ x, s.boot.chosen = none → Runs (.drUpdate x) s fun r => r = s) ∧
  (s.boot.chosen = none ∨ s.fld R.drWriting = 1 ∨ s.stewardOff 0 = true → Runs .drWrite s fun r => r = { s with boot := { s.boot with want := true } }) ∧
  (∀ c, s.boot.chosen = some c → s.fld R.drWriting = 0 → s.stewardOff 0 = false → Runs .drWrite s fun r => r.boot.want = false ∧ r.fld R.drWriting = 1 ∧
    ∃ y, r.boot.queue = s.boot.queue ++ [.record (s.fld R.drCopy == 0) y] ∧ y.seq = c.seq + 1 ∧ y.d = s.drNow c.d) ∧
  (∀ pkg, (s.fld R.bootRecovery = 0 → Runs (.pkgUpload pkg) s fun r => r = s) ∧
    (s.fld R.bootRecovery = 1 → pkgValid pkg = false → Runs (.pkgUpload pkg) s fun r => r.boot.flash = { s.boot.flash with pkgA := pkg } ∧ r.csr = s.csr) ∧
    (s.fld R.bootRecovery = 1 → pkgValid pkg = true → Runs (.pkgUpload pkg) s fun r => r.boot.flash = { s.boot.flash with pkgA := pkg } ∧
      r.fld R.rstCauseF = 4 ∧ r.fld R.bootRecovery = 0 ∧ r.cores = State.reset.cores)) ∧
  (∀ ok, s.boot.queue = [] → Runs (.flashWriteDone ok) s fun r => r = s) ∧
  (∀ ok o rest, s.stewardOff 0 = true → s.boot.queue = o :: rest → (∀ j, o ≠ .journal j) → Runs (.flashWriteDone ok) s fun r => r = s) ∧
  (s.boot.want = false →
    (∀ b r rest, s.stewardOff 0 = false → s.boot.queue = .record b r :: rest → r.seq < 2 ^ 64 →
      (Runs (.flashWriteDone true) s fun t => t.boot.queue = rest ∧ (if b then t.boot.flash.recB else t.boot.flash.recA) = some r ∧
        ((∀ c, s.boot.chosen = some c → c.seq < r.seq) → t.csr.get64 R.drSeq = r.seq ∧ t.fld R.drCopy = (if b then 1 else 0) ∧
          t.boot.flash.rpmc1 = max s.boot.flash.rpmc1 r.seq)) ∧
      ∀ c, s.boot.chosen = some c → rest = [] → Runs (.flashWriteDone false) s fun t => t.boot.flash = s.boot.flash ∧ t.fld R.drWriting = 1 ∧
        ∃ y, t.boot.queue = [.record (s.fld R.drCopy == 0) y] ∧ y.seq = c.seq + 1) ∧
    (∀ b p rest, s.stewardOff 0 = false → s.boot.queue = .package b p :: rest →
      (Runs (.flashWriteDone true) s fun t => t.boot.queue = rest ∧ (if b then t.boot.flash.pkgB else t.boot.flash.pkgA) = p ∧
        t.boot.flash.rpmc0 = max s.boot.flash.rpmc0 (pkgSvn p) ∧ (s.fld R.graftState = 4 → t.fw.graft = none ∧ t.fld R.graftStatus = 0 ∧ t.fld R.graftState = 0)) ∧
      Runs (.flashWriteDone false) s fun t => t.boot.queue = rest ∧ t.boot.flash = s.boot.flash ∧
        (s.fld R.graftState = 4 → t.fw.graft = none ∧ t.fld R.graftStatus = 0xB ∧ t.fld R.graftState = 0)) ∧
    ∀ j rest, s.boot.queue = .journal j :: rest → (Runs (.flashWriteDone true) s fun t => t.boot.queue = rest ∧ j ∈ t.boot.flash.journal) ∧
      Runs (.flashWriteDone false) s fun t => t.boot.queue = rest ∧ t.boot.flash = s.boot.flash)

/-! ## Attestation (spec/21) -/

/-- The SPDM responder answers while Steward 0 runs, after boot, and in recovery over MCTP alone (R577): a connection is negotiated in three steps, a
request out of order being an error; digests, certificates, the challenge and measurements come from slot 0, signed where asked; at most four sessions
open, and a request in a session needs that session to be up on its transport; the key-encryption key of a READY instance is given in a session over
DOE alone (R573, R578, Table 21.6; the codes of messages are log entry 58). -/
def Obligations.Attestation : Prop := ∀ (s : State) (doe : Bool),
  let c := s.spdm.conn[b2n (!doe)]'(by unfold b2n; split <;> decide)
  let conn := fun (r : State) => r.spdm.conn[b2n (!doe)]'(by unfold b2n; split <;> decide)
  let chain := s.chain
  let only := fun (r : State) => r = { s with spdm := r.spdm, out := r.out, fresh := r.fresh }
  let fails := fun (i : Instr) (e : Nat) => Runs i s fun r => r = { s with out := .spdm 0x7F [BitVec.ofNat 8 e] :: s.out }
  let up := fun (n : Nat) => ∃ x ∈ s.spdm.sessions, x.id = n ∧ x.doe = doe ∧ x.up = true
  (∀ (sess : Option (Fin 4)) (z : Fin 4) (slot off len index : Nat) (sign ok : Bool) (nonce data : List Byte) (i : InstId),
    let needs := [Instr.spdmGetDigests doe sess, .spdmGetCertificate doe sess slot off len, .spdmChallenge doe slot nonce,
      .spdmGetMeasurements doe sess index sign nonce, .spdmKeyExchange doe slot data, .spdmFinish doe z ok, .spdmHeartbeat doe z, .spdmKeyUpdate doe z,
      .spdmEndSession doe z, .getKek doe z i]
    let inside := [Instr.spdmHeartbeat doe z, .spdmKeyUpdate doe z, .spdmEndSession doe z, .getKek doe z i]
    (s.spdmUp doe = false → ∀ m, m ∈ needs ∨ m ∈ [Instr.spdmGetVersion doe, .spdmGetCapabilities doe, .spdmNegotiateAlgorithms doe] → Runs m s fun r => r = s) ∧
    (s.spdmUp doe = true →
      (Runs (.spdmGetVersion doe) s fun r => only r ∧ conn r = 1 ∧ r.out = .spdm 4 (natLe 1 0 ++ natLe 1 1 ++ natLe 2 0x1200) :: s.out) ∧
      (c = 1 → Runs (.spdmGetCapabilities doe) s fun r => only r ∧ conn r = 2 ∧ ∃ d, r.out = .spdm 0x61 d :: s.out) ∧
      (c ≠ 1 → fails (.spdmGetCapabilities doe) 4) ∧
      (c = 2 → Runs (.spdmNegotiateAlgorithms doe) s fun r => only r ∧ conn r = 3 ∧ ∃ d, r.out = .spdm 0x63 d :: s.out) ∧
      (c ≠ 2 → fails (.spdmNegotiateAlgorithms doe) 4) ∧
      (c < 3 → ∀ m ∈ needs, fails m 4) ∧
      (3 ≤ c → (¬up z.val → ∀ m ∈ inside, fails m 1) ∧
        (∀ n, sess = some n → ¬up n.val → fails (.spdmGetDigests doe sess) 1 ∧ fails (.spdmGetCertificate doe sess slot off len) 1 ∧
          fails (.spdmGetMeasurements doe sess index sign nonce) 1) ∧
        (slot ≠ 0 → fails (.spdmChallenge doe slot nonce) 1 ∧ fails (.spdmKeyExchange doe slot data) 1) ∧
        ((∀ n, sess = some n → up n.val) →
          (Runs (.spdmGetDigests doe sess) s fun r => only r ∧ r.spdm = s.spdm ∧ r.out = .spdm 1 (natLe 1 1 ++ sha384 chain) :: s.out) ∧
          (slot ≠ 0 → fails (.spdmGetCertificate doe sess slot off len) 1) ∧
          (∀ k, slot = 0 → k = min len (chain.length - off) → Runs (.spdmGetCertificate doe sess slot off len) s fun r => only r ∧ r.spdm = s.spdm ∧
            r.out = .spdm 2 (natLe 2 k ++ natLe 2 (chain.length - off - k) ++ slice chain off k) :: s.out) ∧
          (11 < index → index ≠ 255 → fails (.spdmGetMeasurements doe sess index sign nonce) 1) ∧
          (∀ d, (index = 0 ∧ d = natLe 1 11) ∨ (1 ≤ index ∧ index ≤ 11 ∧ d = natLe 1 index ++ s.measure index) ∨
              (index = 255 ∧ d = (List.range 11).flatMap fun k => natLe 1 (k + 1) ++ s.measure (k + 1)) →
            (sign = false → Runs (.spdmGetMeasurements doe sess index sign nonce) s fun r => only r ∧ r.spdm = s.spdm ∧ r.out = .spdm 0x60 d :: s.out) ∧
            (sign = true → Runs (.spdmGetMeasurements doe sess index sign nonce) s fun r => only r ∧ r.spdm = s.spdm ∧
              r.out = .spdm 0x60 (d ++ Config.ecdsaSign 1 (sha384 (d ++ nonce)) s.fresh) :: s.out))) ∧
        (slot = 0 → Runs (.spdmChallenge doe slot nonce) s fun r => only r ∧ r.spdm = s.spdm ∧
          r.out = .spdm 3 (sha384 chain ++ Config.ecdsaSign 1 (sha384 (sha384 chain ++ nonce)) s.fresh) :: s.out) ∧
        (slot = 0 → (∀ n, n < 4 → ∃ x ∈ s.spdm.sessions, x.id = n) → fails (.spdmKeyExchange doe slot data) 5) ∧
        (∀ n, slot = 0 → n < 4 → (∀ x ∈ s.spdm.sessions, x.id ≠ n) → (∀ m, m < n → ∃ x ∈ s.spdm.sessions, x.id = m) →
          Runs (.spdmKeyExchange doe slot data) s fun r => only r ∧ r.spdm.sessions = s.spdm.sessions ++ [⟨n, doe, false⟩] ∧
            ∃ d, r.out = .spdm 0x64 (natLe 2 n ++ d) :: s.out) ∧
        ((∀ x ∈ s.spdm.sessions, x.id = z.val → x.doe = doe → x.up = true) → fails (.spdmFinish doe z ok) 1) ∧
        ((∃ x ∈ s.spdm.sessions, x.id = z.val ∧ x.doe = doe ∧ x.up = false) → let rest := s.spdm.sessions.filter fun x => x.id != z.val
          (ok = true → Runs (.spdmFinish doe z ok) s fun r => only r ∧ r.spdm.sessions = rest ++ [⟨z.val, doe, true⟩] ∧ r.out = .spdm 0x65 [] :: s.out) ∧
          (ok = false → Runs (.spdmFinish doe z ok) s fun r => only r ∧ r.spdm.sessions = rest ∧ r.out = .spdm 0x7F [6#8] :: s.out)) ∧
        (up z.val → (Runs (.spdmHeartbeat doe z) s fun r => r = { s with out := .spdm 0x68 [] :: s.out }) ∧
          (Runs (.spdmKeyUpdate doe z) s fun r => r = { s with out := .spdm 0x69 [] :: s.out }) ∧
          (Runs (.spdmEndSession doe z) s fun r => only r ∧ r.spdm.sessions = s.spdm.sessions.filter (fun x => x.id != z.val) ∧ r.out = .spdm 0x6C [] :: s.out) ∧
          (doe = false ∨ SMap.get (fun _ => none) s.inst.keks i.val = none → fails (.getKek doe z i) 1) ∧
          ∀ k, doe = true → SMap.get (fun _ => none) s.inst.keks i.val = some k → Runs (.getKek doe z i) s fun r => r = { s with out := .spdm 0x7E (keyBytes k) :: s.out }))))

/-! ## Telemetry (spec/22) -/

/-- Records of telemetry. A posted buffer is accepted, or completes with BAD_FIELD or OUT_OF_RANGE; 1 ms after its first record it completes with the
bytes in it. While no Beat Table runs, a sample is due when the period has passed since the last: each die's POWER record, with its header and five
values, goes into the oldest buffer of instance 0 without a gap between records, is lost and counted where no buffer is posted, goes by MCTP where the
subscription has its type and the second's bytes allow it, and goes nowhere while Steward 7 is gone. TELEM_SUBSCRIBE replaces the subscription (R583,
R586 to R589). -/
def Obligations.Telemetry : Prop := ∀ (s : State) (i : InstId) (ri : Fin 64) (t : Nat), s.tele.logs = [] →
  let now := max s.time.now t
  let x := s.ring i.val ri.val
  (∀ (tag len addr : Nat) (rsv : Bool), s.RingReady i.val ri.val 5 → let post := Instr.telemetryDescriptor i ri tag len addr rsv t
    let bad := rsv = true ∨ len < 4096 ∨ 2 ^ 20 < len
    (bad → Runs post s fun r => RingDone s r i.val ri.val tag 1 0 0 ∧ r.tele.bufs = s.tele.bufs ∧
      Logged s r 0 i.val 1 1 (if rsv = true then 2 else 5) ri.val (x.taken % x.sqN)) ∧
    (¬bad → s.hostOk i.val addr len = false → Runs post s fun r => RingDone s r i.val ri.val tag 3 0 0 ∧ r.tele.bufs = s.tele.bufs ∧
      Logged s r 0 i.val 1 3 10 ri.val (x.taken % x.sqN)) ∧
    (¬bad → s.hostOk i.val addr len = true → Runs post s fun r => RingTook s r i.val ri.val ∧
      ∃ w, r.tele.bufs = s.tele.bufs ++ [{ work := w, len := len, addr := addr }] ∧ w.inst = i.val ∧ w.ring = ri.val ∧ w.tag = tag)) ∧
  ((∀ f ∈ s.tele.fill, f.1 ≠ i.val) → Runs (.telemetryBufferTimeout i t) s fun r => r = s.advance t) ∧
  (∀ used first b, s.tele.fill = [(i.val, used, first)] → s.tele.bufs = [b] → b.work.inst = i.val → s.stewardGone 7 = false →
    (now < first + 1000000 → Runs (.telemetryBufferTimeout i t) s fun r => r = s.advance t) ∧
    (first + 1000000 ≤ now → s.Owes b.work → Runs (.telemetryBufferTimeout i t) s fun r => Paid s r b.work 0 used 0 ∧ r.tele.bufs = [] ∧ r.tele.fill = [])) ∧
  (let due := s.beat.running = none ∧ s.fld R.telemPeriod ≠ 0 ∧ s.tele.last + s.fld R.telemPeriod * 1000 ≤ now
    let body := fun (d : Nat) => natLe 1 1 ++ natLe 1 0 ++ natLe 2 8 ++ natLe 4 64 ++ natLe 8 now ++ natLe 4 (s.beat.season % 2 ^ 32) ++ natLe 2 0xFFFF ++
      natLe 2 d ++ natLe 8 (s.power.power.toList.getD d 0) ++ natLe 8 (s.power.tj.toList.getD d 0) ++
      natLe 8 ((s.hbmCtl.toList[2 * d]?.map (·.temp)).getD 0) ++ natLe 8 ((s.hbmCtl.toList[2 * d + 1]?.map (·.temp)).getD 0) ++
      natLe 8 (s.fld R.pwrCapInForce)
    let sample := Instr.telemetryPeriodSample t
    (¬due → Runs sample s fun r => r = s.advance t) ∧
    (due → s.stewardGone 7 = true → Runs sample s fun r => r.tele.last = now ∧ r.out = s.out) ∧
    (due → s.stewardGone 7 = false → s.fld R.telemMask = 128 → s.tele.gaps = [] →
      (∀ k, k < 64 → s.teleRing 0 = some k → s.tele.mask = 0 →
        (s.tele.bufs = [] → Runs sample s fun r => r.out = s.out ∧ r.tele.gaps = [(0, 2, now)] ∧
          r.fld R.telemRingLost = min (s.fld R.telemRingLost + 2) 65535) ∧
        (∀ b, s.tele.bufs = [b] → b.work.inst = 0 → 4096 ≤ b.len → s.tele.fill = [] → Runs sample s fun r => r.tele.fill = [(0, 128, now)] ∧
          r.out = .hostWrite 0 (b.addr + 64) (body 1) :: .hostWrite 0 b.addr (body 0) :: s.out)) ∧
      (s.teleRing 0 = none → s.tele.mask = 256 → s.tele.second ≠ now / 1000000000 →
        (s.tele.left ≤ 1 → Runs sample s fun r => r.out = .mctp (body 1) :: .mctp (body 0) :: s.out ∧ r.tele.left = s.tele.div ∧ r.tele.sent = 128) ∧
        (1 < s.tele.left → Runs sample s fun r => r.out = s.out ∧ r.tele.left = s.tele.left - 1)) ∧
      (s.teleRing 0 = none → s.tele.mask = 256 → s.tele.second = now / 1000000000 → 256000 < s.tele.sent + 64 → s.tele.left ≤ 1 →
        Runs sample s fun r => r.out = s.out ∧ r.tele.gaps = [(64, 2, now)] ∧ r.fld R.telemMctpLost = min (s.fld R.telemMctpLost + 2) 65535))) ∧
  ∀ mask div : BitVec 16, Runs (.telemSubscribe mask div) s fun r => r = { s with tele := r.tele } ∧ r.tele = { s.tele with
    mask := mask.toNat, div := max 1 div.toNat, left := max 1 div.toNat, gaps := s.tele.gaps.filter fun g => g.1 != 64 }

/-! ## Power, temperature, clocks and port H (spec/24, spec/25) -/

/-- The cap in force is the lower of the setting, taken between 300 and 560 W, and the Rind's; the IMON inputs are read in 10-bit steps of a linear
scale that ends at 1.0 V (R639); an evaluation raises the level by one where the power is above the cap, recording the gain of the level at the next,
lowers it by one where power plus the recorded gain has fitted for 1 ms, and never leaves it under the thermal floor, which the readings give; a trip
drives THERMTRIP_N low and resets the device. A lost REFCLK_SYS is YIELD and FENCED, a lost REFCLK_ETH takes every port and the twin link down, a lost
REFCLK_H port H in common-clock mode; port H trains again by PERST_N and its link. The TAP takes EXTEST and its kin only while SYS_RST_N is low (R601,
R606 to R608, R610 to R613, R632, R639). -/
def Obligations.PowerAndPlatform : Prop := ∀ (s : State) (t : Nat),
  let now := max s.time.now t
  let capOf := fun (w : Nat) => let r := s.fld R.rindPower
    min (if w < 300 then 300 else if 560 < w then 560 else w) (if r < 300 ∨ 560 < r then 560 else r)
  (∀ w : BitVec 16, w.toNat < 1024 → Runs (.pwrSet w) s fun r => r = { s with csr := r.csr } ∧ r.fld R.pwrCfg = w.toNat ∧ r.fld R.pwrCapInForce = capOf w.toNat) ∧
  (∀ v c, (1000000 ≤ v → imonCode v c = 1023) ∧ (v < 1000000 → v * 1023 / 1000000 ≤ imonCode v c ∧ imonCode v c ≤ (v * 1023 + 999999) / 1000000)) ∧
  (∀ amps volts a u, amps = [a] → volts = [u] → (∀ j, j ≠ 6 → j ≠ 8 → a.getD j 0 = 0) → 1000000 ≤ a.getD 6 0 → 1000000 ≤ a.getD 8 0 →
    Runs (.powerEvaluation amps volts t) s fun r => r.fld R.pwrMeas0 = min ((u.getD 6 0 * 100 + u.getD 8 0 * 200) / 100) 65535 ∧ r.fld R.pwrMeas1 = 0) ∧
  (∀ amps volts p0 p1, (p0, p1) = s.diePower amps volts → let go := Instr.powerEvaluation amps volts t
    let p : Int := p0 + p1
    let cap : Int := capOf (s.fld R.pwrCfg) * 1000
    let level := s.fld R.pwrLevel
    let floor := s.fld R.pwrFloor
    let g := if s.power.raised = true then s.power.before - p else s.power.gain.toList.getD level 0
    let long := p + g < cap ∧ ∃ f, s.power.fits = some f ∧ f + 1000000 ≤ now
    let level' := fun (n : Nat) => Runs go s fun r => r.fld R.pwrLevel = n ∧ r.fld R.pwrCapLimited = (if floor < n then 1 else 0) ∧
      r.fld R.pwrMeas0 = min (p0 / 100) 65535 ∧ r.fld R.pwrMeas1 = min (p1 / 100) 65535 ∧ r = { s.advance t with fresh := r.fresh, csr := r.csr, power := r.power } ∧
      r.power.gain.toList.getD level 0 = g ∧ (∀ j, j ≠ level → r.power.gain.toList.getD j 0 = s.power.gain.toList.getD j 0) ∧
      r.power.fits = if p + g < cap ∧ n = level then some (s.power.fits.getD now) else none
    level ≤ 6 → floor ≤ 6 →
      (cap < p → level < 6 → level' (max (level + 1) floor) ∧ Runs go s fun r => r.power.raised = true ∧ r.power.before = p) ∧
      (p ≤ cap ∨ level = 6 → floor < level → long → level' (level - 1)) ∧
      (p ≤ cap ∨ level = 6 → level ≤ floor ∨ ¬long → level' (max level floor)) ∧
      (p ≤ cap ∨ level = 6 → Runs go s fun r => r.power.raised = false)) ∧
  (∀ (x : ThermIn) (m g : Nat), let sample := Instr.thermalSample x t
    (∀ b ∈ x.bunch, b.2.2 ≤ m) → (∃ b ∈ x.bunch, b.2.2 = m) → (∀ k ∈ x.stk, k.2 ≤ g) → (∃ k ∈ x.stk, k.2 = g) →
      (115000 ≤ m ∨ 110000 ≤ g → Runs sample s fun r => r.pins.thermtrip = true ∧ r.fld R.rstCauseF = 3 ∧ r.fld R.bootDone = 0 ∧
        r.cores = State.reset.cores ∧ r.time = State.reset.time ∧ r.out = s.out ∧ r.boot.flash = s.boot.flash ∧ ∀ p, p < 32 → r.fld (R.portLinkUp p) = 0) ∧
      (m < 115000 → g < 110000 → let hot := 105000 ≤ m ∧ ∃ f, s.power.hot = some f ∧ f + 1000000 ≤ now
        Runs sample s fun r => r.fld R.thermTj = min (m / 1000) 255 ∧ r.fld R.thermHbm = min (g / 1000) 255 ∧
          (hot → r.fld R.pwrFloor = 6) ∧ (¬hot → r.fld R.pwrFloor = if 100000 ≤ m then 4 else if 95000 ≤ g then 1 else 0) ∧
          r.out = s.out ∧ r.cores = s.cores ∧ SameMem s r ∧ r.fld R.pwrLevel = s.fld R.pwrLevel)) ∧
  (s.Still → Runs .refclkSysLoss s fun r => r.fld R.twinState = 5 ∧ ∃ y, Emit.twin true y ∈ r.out ∧ y.kind = 5) ∧
  (Runs (.refclkEthLoss t) s fun r => r = { s.advance t with csr := r.csr, out := r.out } ∧ r.fld R.twinLinkUp = 0 ∧ ∀ p, p < 32 → r.portUp p = false) ∧
  (s.pins.sris = true ∨ s.pins.perst = true → Runs (.refclkHLoss t) s fun r => r = s.advance t) ∧
  (∀ (i : Instr) (e : PortHEvent), (i = .refclkHLoss t ∧ e = .linkDown ∧ s.pins.sris = false ∧ s.pins.perst = false) ∨ i = .portHReset e t →
    s.fld R.twinState ≠ 2 → s.Still → SMap.wf resetVal s.csr = true → Runs i s fun r => r.pins = { s.pins with portH := false, perst := decide (e = .perst) || s.pins.perst } ∧
      r.cxl = CxlSt.reset ∧ (∀ k, k < 64 → r.fld (R.lhqiReady k) = 0) ∧ r.inst.numVfs = 0 ∧ r.fld (R.lhqiGen 0) = s.fld (R.lhqiGen 0) ∧
      (256 < s.fld R.hostwinCfgLen → r.fld R.hostwinBase = 0 ∧ r.fld R.hostwinLen = 0 ∧ r.fld R.hostwinErr = 1) ∧
      (s.fld R.hostwinCfgLen = 0 → s.fld R.hostwinCfgBase * 2 ^ 28 ≤ s.workTop → r.fld R.hostwinBase = s.fld R.hostwinCfgBase ∧ r.fld R.hostwinLen = 0 ∧
        r.fld R.hostwinErr = s.fld R.hostwinErr)) ∧
  (∀ b : Bool, Runs (.perstNDeassert b) s fun r => r = if s.pins.perst = true then { s with pins.perst := false, pins.sris := !b } else s) ∧
  (Runs .portHLinkUp s fun r => r = if s.pins.perst = false ∧ 5 ≤ s.fld R.bootStep ∧ s.fld R.bootRecovery = 0 then { s with pins.portH := true } else s) ∧
  (let takes := fun (i : Instr) (x : Tap) => Runs i s fun r => r = { s with pins.tap := x }
    let held := fun (x : Tap) => if s.pins.sysRst = true then x else .bypass
    takes .jtagBypass .bypass ∧ takes .jtagSamplePreload .sample ∧ takes .jtagExtest (held .extest) ∧ takes .jtagExtestPulse (held .extestPulse) ∧
    takes .jtagExtestTrain (held .extestTrain) ∧
    Runs .jtagIdcode s fun r => r = { s with pins.tap := .idcode, out := .readData 0x28140A19 :: s.out })

/-! ## The CXL.mem window (spec/18, spec/27) -/

/-- Accesses of the host to its window. Outside the window a read answers ones and a write has no effect; in the span kept for firmware the Rind also
counts and records it; otherwise a read answers the bytes, the line being tracked when CXL.mem may cache it, or an error for an uncorrectable block,
and a write stands in memory, one through BAR4 to a line the host may hold only when the host has given the line up; snoops and persistent flushes are
answered at once (R501, R502, R654). -/
def Obligations.HostWindow : Prop := ∀ (s : State) (bar4 : Bool) (off len : Nat) (d : List Byte),
  let win := s.fld R.hostwinLen * 2 ^ 28
  let a := s.fld R.hostwinBase * 2 ^ 28 + off
  let read := Instr.cxlMemRead bar4 off len
  let write := Instr.cxlMemWrite bar4 off d
  let ones := Emit.cxl 0 off (List.replicate len 0xFF#8)
  let wrote := if bar4 = true then s.out else .cxl 1 off [] :: s.out
  let blocked := fun (r : State) => r.fld R.rindBlocked = min (s.fld R.rindBlocked + 1) (2 ^ 32 - 1) ∧ Logged s r 5 0 13 0xFF 10 0 0
  let clean := s.hbm.bad = [] ∧ s.hbm.soft = []
  (win < off + len → Runs read s fun r => r = { s with out := ones :: s.out }) ∧
  (win < off + d.length → Runs write s fun r => r = { s with out := wrote }) ∧
  (off + len ≤ win → s.inFwSpan a len = true → Runs read s fun r => r.out = ones :: s.out ∧ blocked r ∧ SameMem s r) ∧
  (off + d.length ≤ win → s.inFwSpan a d.length = true → Runs write s fun r => r.out = wrote ∧ blocked r ∧ SameMem s r) ∧
  (off + len ≤ win → s.inFwSpan a len = false → clean → let got := Emit.cxl 0 off ((List.range len).map fun j => s.peek .hbm (s.workKey (a + j)))
    (bar4 = true → Runs read s fun r => r = { s with out := got :: s.out }) ∧
    (bar4 = false → len = 64 → off % 64 = 0 → s.cxl.tracked.length < 2 ^ 20 → Runs read s fun r => SameMem s r ∧ r.out = got :: s.out ∧
      r.cxl = { s.cxl with tracked := if a / 64 ∈ s.cxl.tracked then s.cxl.tracked else s.cxl.tracked ++ [a / 64] })) ∧
  (off + len ≤ win → s.inFwSpan a len = false → bar4 = true → s.hbmBad a len = true → Runs read s fun r => r.out = .cxl 5 off [] :: s.out ∧ SameMem s r) ∧
  (off + d.length ≤ win → s.inFwSpan a d.length = false → clean → s.fld R.hbmWorkMib ≤ 36864 →
    (s.cxl = CxlSt.reset → Runs write s fun r => StoredWork s r a d ∧ r.out = wrote ∧ r.cxl = s.cxl) ∧
    (∀ k, bar4 = true → d ≠ [] → a % 64 + d.length ≤ 64 → k = a / 64 → s.cxl = { tracked := [k], snooping := [], waits := [] } → Runs write s fun r =>
      SameMem s r ∧ r.cxl = { tracked := [], snooping := [k], waits := [(k, s.workKey a, d, false)] } ∧
      r.out = .cxl 3 (k * 64 - s.fld R.hostwinBase * 2 ^ 28) [] :: s.out)) ∧
  (∀ k key, k = a / 64 →
    (k ∉ s.cxl.snooping → Runs (.backInvalidateResponse off) s fun r => r = s) ∧
    (k ∈ s.cxl.snooping → Runs (.backInvalidateResponse off) s fun r => r.out = s.out ∧
      r.cxl = { s.cxl with snooping := s.cxl.snooping.erase k, waits := s.cxl.waits.filter fun w => w.1 != k } ∧
      ∀ b, (∀ w ∈ s.cxl.waits, w.1 = k → b < w.2.1 ∨ w.2.1 + w.2.2.1.length ≤ b) → r.peek .hbm b = s.peek .hbm b) ∧
    (s.cxl = { tracked := [], snooping := [k], waits := [(k, key, d, false)] } → clean → Runs (.backInvalidateResponse off) s fun r => r.cxl = CxlSt.reset ∧
      (∀ j, j < d.length → r.peek .hbm (key + j) = d.getD j 0) ∧ ∀ m b, (m = .hbm → b < key ∨ key + d.length ≤ b) → r.peek m b = s.peek m b)) ∧
  (Runs (.h2dSnoop off) s fun r => r = { s with out := .cxl 2 off [] :: s.out }) ∧
  Runs .globalPersistentFlush s fun r => r = { s with out := .cxl 4 0 [] :: s.out }

/-! ## Register accesses (spec/00, spec/27) -/

/-- Reads and writes of registers. An agent that is not there reaches nothing; a Steward's access outside its rights raises its exception; a write
that is not 4 or 8 aligned bytes, and a read that is not 1, 2, 4 or 8, is refused and recorded; at an unassigned offset a read returns zero and a
write is discarded and recorded. A written word follows its access codes bit by bit, a change of an RWL field after the lock being recorded; a wide
register takes effect when its highest word is written, and its other words read what the lowest word's read latched; a read clears the RC fields it
covers wholly, counting what happens in the same cycle after the clear; the progress of a running in-stack copy reads no more than its length. An
access to an FE register waits while its Steward is stopped or in a Graft gap, and acts before the next access once it runs (R8 to R10, R220, R541,
R542, R547, R556, R647 to R649). -/
def Obligations.RegisterAccesses : Prop := ∀ (s : State) (a : RegAgent) (off size : Nat) (v : BitVec 64) (hw upd : Word),
  let write := Instr.registerWrite a off size v hw
  let read := Instr.rcFieldRead a off size upd
  let w : Word := v.truncate 32
  let read0 := fun (n : Nat) (r : State) => r = { s with out := .readData n :: s.out }
  let shows := fun (key : Nat) => 0x800110 ≤ key ∧ key < 0x800190 ∧ key % 0x20 = 0x10
  (∀ key x, s.wide.fe = [.write key x] → let m := ({ s with wide.fe := [] } : State).wordWrite key x 0
    m.wide.fe = [] → exec write s = exec write m ∧ (s.agentOn a = true → s.agentExc a off size false = none → m.agentOn a = true → m.agentExc a off size false = none →
      exec read s = exec read m)) ∧
  (s.wide.fe = [] →
  (s.agentOn a = false → (Runs write s fun r => r = s) ∧ Runs read s fun r => r = s) ∧
  (∀ n : Fin 8, a = .steward n → let u := stewardUnit n.val
    let c := s.core u
    let right := if off < 0x10000000 then s.fld (R.domCsr n.val (off / mib))
      else if 0x20000000 ≤ off ∧ (off - 0x20000000) / mib ≤ 8 then s.fld (R.domPriv n.val ((off - 0x20000000) / mib)) else 0
    let raises := fun (i : Instr) (k : Cause) => Runs i s fun r => c.Took (r.core u) k c.regs.pc (some (stewardAddr off)) 0 ∧ SameMem s r
    c.run.state = .running → (off < 0x10000000 ∨ 0x20000000 ≤ off) →
      (size ≠ 4 ∨ off % 4 ≠ 0 → raises write .misaligned ∧ raises read .misaligned) ∧
      (size = 4 → off % 4 = 0 → right = 0 ∨ right = 3 → raises write .unmapped ∧ raises read .unmapped) ∧
      (size = 4 → off % 4 = 0 → right = 1 → raises write .apDisabled)) ∧
  (a = .pf → (size ≠ 4 ∨ off % 4 ≠ 0) → (size ≠ 8 ∨ off % 8 ≠ 0) → Runs write s fun r => r = { s with vlog := r.vlog, tele := r.tele } ∧
    Logged s r 5 0 13 0xFF 4 off v.toNat) ∧
  (a = .pf → size ∉ [1, 2, 4, 8] ∨ off % size ≠ 0 → Runs read s fun r => r = { s with vlog := r.vlog, tele := r.tele, out := .readData 0 :: s.out } ∧
    Logged s r 5 0 13 0xFF 4 off 0) ∧
  (a = .pf → off % 8 = 0 → ∃ m, exec (.registerWrite .pf off 4 v hw) s = .next m ∧
    exec (.registerWrite .pf off 8 v hw) s = exec (.registerWrite .pf (off + 4) 4 (v >>> 32) 0) m) ∧
  (s.agentOn a = true → size = 4 → off % 4 = 0 →
    (s.agentExc a off 4 true = none → s.regPlace a off = .none → Runs write s fun r => r = { s with vlog := r.vlog, tele := r.tele } ∧
      Logged s r 5 0 13 0xFF 5 off w.toNat) ∧
    (s.agentExc a off 4 false = none → s.regPlace a off = .none → Runs read s (read0 0)) ∧
    (∀ key, s.regPlace a off = .word key → s.noPort key = false → s.feWaits key = true →
      (s.agentExc a off 4 true = none → Runs write s fun r => r = { s with wide.fe := [.write key w] }) ∧
      (s.agentExc a off 4 false = none → Runs read s fun r => r = { s with wide.fe := [.read a off 4 upd] })) ∧
    ∀ key, s.regPlace a off = .word key → s.feWaits key = false →
      (s.agentExc a off 4 true = none → s.noPort key = true → Runs write s fun r => r = s) ∧
      (s.agentExc a off 4 false = none → s.noPort key = true → Runs read s (read0 0)) ∧
      ∀ i, regInfo key = some i → (i.rw ||| i.rwl) &&& i.w1c = 0 → s.noPort key = false →
        let old := s.csr.get key
        let locked := s.fld R.rindLock = 1
        let coded := fun (r : State) (x h : Word) => ∀ b, b < 32 →
          (Nat.testBit i.rw b = true → (r.csr.get key).getLsbD b = x.getLsbD b) ∧
          (Nat.testBit i.rw b = false → Nat.testBit i.rwl b = true → (r.csr.get key).getLsbD b = if locked then old.getLsbD b else x.getLsbD b) ∧
          (Nat.testBit i.w1c b = true → (r.csr.get key).getLsbD b = (old.getLsbD b && !x.getLsbD b || h.getLsbD b)) ∧
          (Nat.testBit i.rw b = false → Nat.testBit i.rwl b = false → Nat.testBit i.w1c b = false → (r.csr.get key).getLsbD b = old.getLsbD b)
        (s.agentExc a off 4 true = none → s.ownWrite key w hw = none →
          (wideOf key = none → (∀ z : State, z.act key w = z) → Runs write s fun r => coded r w hw ∧ (∀ k, k ≠ key → r.csr.get k = s.csr.get k) ∧
            r = { s with csr := r.csr, vlog := r.vlog, tele := r.tele } ∧
            (locked → (∃ b, b < 32 ∧ Nat.testBit i.rwl b = true ∧ old.getLsbD b ≠ w.getLsbD b) → Logged s r 5 0 13 0xFF 9 key w.toNat) ∧
            (¬locked → r.vlog = s.vlog)) ∧
          (∀ base n, wideOf key = some (base, n) → key ≠ base + 4 * (n - 1) → Runs write s fun r => r = { s with wide := r.wide } ∧ r.heldWord key = w) ∧
          (∀ base, wideOf key = some (base, 2) → key = base + 4 → Runs write s fun r => coded r w 0 ∧
            (∀ k, k ≠ key → k ≠ base → r.csr.get k = s.csr.get k) ∧
            ∀ j, regInfo base = some j → (j.rw ||| j.rwl) &&& j.w1c = 0 → ∀ b, b < 32 → Nat.testBit j.rw b = true →
              (r.csr.get base).getLsbD b = (s.heldWord base).getLsbD b)) ∧
        (s.agentExc a off 4 false = none →
          (∀ n : Fin 4, key = 0x800110 + 32 * n.val → s.hbmCtl[n].phase = .copying → s.fld (R.copyProgress n.val) ≤ s.hbmCtl[n].len → s.hbmCtl[n].len < 2 ^ 18 →
            Runs read s fun r => r.out = .readData (r.csr.get key).toNat :: s.out ∧ s.fld (R.copyProgress n.val) ≤ r.fld (R.copyProgress n.val) ∧
              r.fld (R.copyProgress n.val) ≤ s.hbmCtl[n].len ∧ ∀ k, k ≠ key → r.csr.get k = s.csr.get k) ∧
          (wideOf key = none → ¬shows key → Runs read s fun r => r.out = .readData (s.wordValue key).toNat :: s.out ∧
            (∀ f ∈ rcFields key, let g : Fld := ⟨key, f.1, f.2⟩
              (isHwm key = false → r.fld g = bits upd.toNat f.1 f.2) ∧ (isHwm key = true → r.fld g = bits upd.toNat f.1 f.2)) ∧
            (∀ k, k ≠ key → r.csr.get k = s.csr.get k) ∧ r = { s with csr := r.csr, tele := r.tele, out := r.out }) ∧
          (∀ base n, wideOf key = some (base, n) →
            (key = base → Runs read s fun r => r = { s with wide := r.wide, out := .readData old.toNat :: s.out } ∧
              ∀ j, 1 ≤ j → j < n → SMap.get (fun _ => none) r.wide.latch (base + 4 * j) = some (s.csr.get (base + 4 * j))) ∧
            (∀ z, key ≠ base → SMap.get (fun _ => none) s.wide.latch key = some z → Runs read s (read0 z.toNat))))) ∧
  (∀ key f, a = .pf → size = 1 ∨ size = 2 → off % size = 0 → s.regPlace a (off / 4 * 4) = .word key → s.noPort key = false → wideOf key = none →
    f ∈ rcFields key → isHwm key = false → let g : Fld := ⟨key, f.1, f.2⟩
    let lo := off % 4 * 8
    let covered := lo ≤ f.1 ∧ f.1 + f.2 ≤ lo + 8 * size
    Runs read s fun r => r.out = .readData (bits (s.wordValue key).toNat lo (8 * size)) :: s.out ∧
      (covered → r.fld g = bits upd.toNat f.1 f.2) ∧
      (¬covered → r.fld g = min (s.fld g + bits upd.toNat f.1 f.2) (2 ^ f.2 - 1))))

/-! ## Every command -/

/-- Every command of the table completes on every state: none ends in a fault or a refusal. -/
def Obligations.EveryCommandCompletes : Prop := ∀ (i : Instr) (s : State), ∃ t, exec i s = .next t
end

