-- ==== Sys2Proof/Laws/Map.lean ====
section
/-! SUPPORT. Sparse maps and byte memories: reading over writing, and the canonical form kept by every memory operation. -/

namespace Sys2Proof.Machine

variable {α : Type} [DecidableEq α]

theorem SMap.get_dropWhile (d : Nat → α) (m : SMap α) (a b : Nat) (h : a ≤ b) (hb : a = b → False) :
    SMap.get d (m.dropWhile fun q => q.1 ≤ a) b = SMap.get d m b := by
  induction m with
  | nil => rfl
  | cons q t ih =>
    obtain ⟨k, v⟩ := q
    by_cases hk : k ≤ a
    · have h1 : k ≠ b := by rintro rfl; exact hb (le_antisymm h hk)
      have h2 : ¬b < k := by omega
      simp only [List.dropWhile_cons, decide_eq_true_eq, hk, if_true, SMap.get, h1, h2, if_false]
      exact ih
    · simp only [List.dropWhile_cons, decide_eq_true_eq, hk, if_false]

theorem SMap.get_dropWhile_low (d : Nat → α) (m : SMap α) (a b : Nat) (h : b ≤ a) :
    SMap.get d (m.dropWhile fun q => q.1 ≤ a) b = d b := by
  induction m with
  | nil => rfl
  | cons q t ih =>
    obtain ⟨k, v⟩ := q
    by_cases hk : k ≤ a
    · simp only [List.dropWhile_cons, decide_eq_true_eq, hk, if_true]
      exact ih
    · have h1 : k ≠ b := by omega
      have h2 : b < k := by omega
      simp only [List.dropWhile_cons, decide_eq_true_eq, hk, if_false, SMap.get, h1, h2, if_true]

/-- A read of the key just written gives the value written. -/
@[simp] theorem SMap.get_set_same (d : Nat → α) (m : SMap α) (a : Nat) (x : α) : SMap.get d (SMap.set d m a x) a = x := by
  induction m with
  | nil => by_cases h : x = d a <;> simp [SMap.set, SMap.get, h]
  | cons q t ih =>
    obtain ⟨k, v⟩ := q
    by_cases h1 : a < k
    · have h2 : k ≠ a := by omega
      by_cases h : x = d a <;> simp [SMap.set, SMap.get, h1, h2, h]
    · by_cases h2 : a = k
      · subst h2
        by_cases h : x = d a
        · simp only [SMap.set, h1, if_false, h, if_true, SMap.get_dropWhile_low d t a a le_rfl]
        · simp [SMap.set, SMap.get, h]
      · have h3 : k ≠ a := fun e => h2 e.symm
        simpa [SMap.set, SMap.get, h1, h2, h3] using ih

/-- A write leaves every other key as it was. -/
theorem SMap.get_set_other (d : Nat → α) (m : SMap α) (a b : Nat) (x : α) (hab : b ≠ a) :
    SMap.get d (SMap.set d m a x) b = SMap.get d m b := by
  induction m with
  | nil => by_cases h : x = d a <;> simp [SMap.set, SMap.get, h, Ne.symm hab]
  | cons q t ih =>
    obtain ⟨k, v⟩ := q
    by_cases h1 : a < k
    · by_cases h : x = d a
      · simp [SMap.set, h1, h]
      · by_cases h4 : b < a
        · have h5 : k ≠ b := by omega
          have h6 : b < k := by omega
          simp [SMap.set, SMap.get, h1, h, Ne.symm hab, h4, h5, h6]
        · simp [SMap.set, SMap.get, h1, h, Ne.symm hab, h4]
    · by_cases h2 : a = k
      · subst h2
        by_cases h : x = d a
        · by_cases h4 : b < a
          · simp only [SMap.set, h1, if_false, h, if_true, SMap.get, Ne.symm hab, h4,
              SMap.get_dropWhile_low d t a b h4.le]
          · simp only [SMap.set, h1, if_false, h, if_true, SMap.get, Ne.symm hab, h4]
            exact SMap.get_dropWhile d t a b (by omega) (fun e => hab e.symm)
        · simp [SMap.set, SMap.get, h, Ne.symm hab]
      · by_cases h3 : k = b
        · rw [SMap.set, if_neg h1, if_neg h2, SMap.get, SMap.get, if_pos h3, if_pos h3]
        · by_cases h4 : b < k <;> simp [SMap.set, SMap.get, h1, h2, h3, h4, ih]

theorem SMap.get_set (d : Nat → α) (m : SMap α) (a b : Nat) (x : α) :
    SMap.get d (SMap.set d m a x) b = if b = a then x else SMap.get d m b := by
  by_cases h : b = a
  · subst h; simp
  · simp [h, SMap.get_set_other d m a b x h]

/-! ## The canonical form -/

theorem SMap.wf_cons (d : Nat → α) (k : Nat) (v : α) (t : SMap α) :
    SMap.wf d ((k, v) :: t) = true ↔ (∀ q ∈ t, k < q.1) ∧ v ≠ d k ∧ SMap.wf d t = true := by
  simp [SMap.wf, and_assoc]

theorem SMap.wf_dropWhile (d : Nat → α) (m : SMap α) (a : Nat) (h : SMap.wf d m = true) :
    SMap.wf d (m.dropWhile fun q => q.1 ≤ a) = true := by
  induction m with
  | nil => exact h
  | cons q t ih =>
    obtain ⟨k, v⟩ := q
    by_cases hk : k ≤ a
    · simp only [List.dropWhile_cons, decide_eq_true_eq, hk, if_true]
      exact ih ((SMap.wf_cons d k v t).mp h).2.2
    · simpa only [List.dropWhile_cons, decide_eq_true_eq, hk, if_false] using h

/-- The keys after a write are keys from before it, or the key written. -/
theorem SMap.keys_set (d : Nat → α) (m : SMap α) (a : Nat) (x : α) (q : Nat × α) (h : q ∈ SMap.set d m a x) :
    q.1 = a ∨ ∃ r ∈ m, r.1 = q.1 := by
  induction m with
  | nil =>
    by_cases hx : x = d a
    · simp [SMap.set, hx] at h
    · simp only [SMap.set, hx, if_false, List.mem_singleton] at h
      exact .inl (by rw [h])
  | cons r t ih =>
    obtain ⟨k, v⟩ := r
    by_cases h1 : a < k
    · by_cases hx : x = d a
      · simp only [SMap.set, h1, hx, if_true] at h
        exact .inr ⟨q, h, rfl⟩
      · simp only [SMap.set, h1, hx, if_true, if_false, List.mem_cons] at h
        rcases h with h | h
        · exact .inl (by rw [h])
        · exact .inr ⟨q, List.mem_cons.mpr h, rfl⟩
    · by_cases h2 : a = k
      · by_cases hx : x = d a
        · rw [SMap.set, if_neg h1, if_pos h2, if_pos hx] at h
          exact .inr ⟨q, List.mem_cons_of_mem _ ((List.dropWhile_sublist _).subset h), rfl⟩
        · rw [SMap.set, if_neg h1, if_pos h2, if_neg hx] at h
          rcases List.mem_cons.mp h with h | h
          · exact .inl (by rw [h])
          · exact .inr ⟨q, List.mem_cons_of_mem _ h, rfl⟩
      · simp only [SMap.set, h1, h2, if_false, List.mem_cons] at h
        rcases h with h | h
        · exact .inr ⟨(k, v), List.mem_cons_self, by rw [h]⟩
        · rcases ih h with e | ⟨r, hr, e⟩
          · exact .inl e
          · exact .inr ⟨r, List.mem_cons_of_mem _ hr, e⟩

/-- A write keeps the canonical form. -/
theorem SMap.wf_set (d : Nat → α) (m : SMap α) (a : Nat) (x : α) (h : SMap.wf d m = true) : SMap.wf d (SMap.set d m a x) = true := by
  induction m with
  | nil =>
    by_cases hx : x = d a
    · simp [SMap.set, hx, SMap.wf]
    · simp [SMap.set, hx, SMap.wf]
  | cons r t ih =>
    obtain ⟨k, v⟩ := r
    obtain ⟨hk, hv, ht⟩ := (SMap.wf_cons d k v t).mp h
    by_cases h1 : a < k
    · by_cases hx : x = d a
      · simpa only [SMap.set, h1, hx, if_true] using h
      · simp only [SMap.set, h1, if_true, hx, if_false, SMap.wf_cons]
        refine ⟨fun q hq => ?_, hx, hk, hv, ht⟩
        rcases List.mem_cons.mp hq with e | e
        · rw [e]; exact h1
        · exact h1.trans (hk q e)
    · by_cases h2 : a = k
      · subst h2
        by_cases hx : x = d a
        · simp only [SMap.set, h1, if_false, hx, if_true]
          exact SMap.wf_dropWhile d t a ht
        · simp only [SMap.set, h1, if_false, if_true, hx, SMap.wf_cons]
          exact ⟨hk, hx, ht⟩
      · simp only [SMap.set, h1, h2, if_false, SMap.wf_cons]
        refine ⟨fun q hq => ?_, hv, ih ht⟩
        rcases SMap.keys_set d t a x q hq with e | ⟨r, hr, e⟩
        · omega
        · rw [← e]; exact hk r hr

/-! ## Byte memories -/

/-- A byte read after a byte write. -/
theorem Mem.get_set (m : Mem) (a b : Nat) (x : Byte) : (m.set a x).get b = if b = a then x else m.get b :=
  SMap.get_set memDefault m a b x

/-- A byte write keeps the canonical form. -/
theorem Mem.wf_set (m : Mem) (a : Nat) (x : Byte) (h : m.wf = true) : (m.set a x).wf = true := SMap.wf_set memDefault m a x h

/-- A byte outside a written range reads as before. -/
theorem Mem.get_put_outside (l : List Byte) (m : Mem) (a b : Nat) (h : b < a ∨ a + l.length ≤ b) : (m.put a l).get b = m.get b := by
  induction l generalizing m a with
  | nil => rfl
  | cons x t ih =>
    simp only [List.length_cons] at h
    rw [Mem.put, ih (m.set a x) (a + 1) (by omega), Mem.get_set, if_neg (by omega)]

/-- A byte inside a written range reads as written. -/
theorem Mem.get_put_inside (l : List Byte) (m : Mem) (a i : Nat) (h : i < l.length) : (m.put a l).get (a + i) = l[i] := by
  induction l generalizing m a i with
  | nil => exact absurd h (Nat.not_lt_zero i)
  | cons x t ih =>
    rw [Mem.put]
    cases i with
    | zero =>
      rw [Mem.get_put_outside t _ _ _ (by omega), Mem.get_set, if_pos (Nat.add_zero a)]
      rfl
    | succ i =>
      rw [List.length_cons] at h
      rw [show a + (i + 1) = a + 1 + i by omega, ih (m.set a x) (a + 1) i (by omega), List.getElem_cons_succ]

/-- A range write keeps the canonical form. -/
theorem Mem.wf_put (l : List Byte) (m : Mem) (a : Nat) (h : m.wf = true) : (m.put a l).wf = true := by
  induction l generalizing m a with
  | nil => exact h
  | cons x t ih => exact ih (m.set a x) (a + 1) (Mem.wf_set m a x h)

/-- The bytes read back from a written range are the bytes written. -/
theorem Mem.bytes_put (l : List Byte) (m : Mem) (a : Nat) : (m.put a l).bytes a l.length = l := by
  induction l generalizing m a with
  | nil => rfl
  | cons x t ih =>
    rw [List.length_cons, Mem.bytes, Mem.put, ih, Mem.get_put_outside t _ _ _ (by omega), Mem.get_set, if_pos rfl]

theorem Mem.bytes_length (m : Mem) (a n : Nat) : (m.bytes a n).length = n := by
  induction n generalizing a with
  | zero => rfl
  | succ n ih => simp [Mem.bytes, ih]

/-- A protected memory keeps the canonical form under its write. -/
theorem Ram.wf_put (r : Ram) (w a : Nat) (l : List Byte) (h : r.bytes.wf = true) : (r.put w a l).bytes.wf = true := by
  unfold Ram.put
  split
  · exact h
  · exact Mem.wf_put l r.bytes a h

end Sys2Proof.Machine
end

