-- ==== Sys2Proof/Laws/State.lean ====
section
/-! SUPPORT. The field updates of the state: what each leaves as it was, one lemma per field and update, and what reads over them give. -/

namespace Sys2Proof.Machine

/-! ## setCore -/

@[simp] theorem State.setCore_pending (s : State) (u : UnitId) (c : Core) : (s.setCore u c).pending = s.pending := rfl
@[simp] theorem State.setCore_imem (s : State) (u : UnitId) (c : Core) : (s.setCore u c).imem = s.imem := rfl
@[simp] theorem State.setCore_lmem (s : State) (u : UnitId) (c : Core) : (s.setCore u c).lmem = s.lmem := rfl
@[simp] theorem State.setCore_bmem (s : State) (u : UnitId) (c : Core) : (s.setCore u c).bmem = s.bmem := rfl
@[simp] theorem State.setCore_hbm (s : State) (u : UnitId) (c : Core) : (s.setCore u c).hbm = s.hbm := rfl
@[simp] theorem State.setCore_hbmCtl (s : State) (u : UnitId) (c : Core) : (s.setCore u c).hbmCtl = s.hbmCtl := rfl
@[simp] theorem State.setCore_d2d (s : State) (u : UnitId) (c : Core) : (s.setCore u c).d2d = s.d2d := rfl
@[simp] theorem State.setCore_csr (s : State) (u : UnitId) (c : Core) : (s.setCore u c).csr = s.csr := rfl
@[simp] theorem State.setCore_wide (s : State) (u : UnitId) (c : Core) : (s.setCore u c).wide = s.wide := rfl
@[simp] theorem State.setCore_time (s : State) (u : UnitId) (c : Core) : (s.setCore u c).time = s.time := rfl
@[simp] theorem State.setCore_beat (s : State) (u : UnitId) (c : Core) : (s.setCore u c).beat = s.beat := rfl
@[simp] theorem State.setCore_vlog (s : State) (u : UnitId) (c : Core) : (s.setCore u c).vlog = s.vlog := rfl
@[simp] theorem State.setCore_reports (s : State) (u : UnitId) (c : Core) : (s.setCore u c).reports = s.reports := rfl
@[simp] theorem State.setCore_stopped (s : State) (u : UnitId) (c : Core) : (s.setCore u c).stopped = s.stopped := rfl
@[simp] theorem State.setCore_out (s : State) (u : UnitId) (c : Core) : (s.setCore u c).out = s.out := rfl
@[simp] theorem State.setCore_fresh (s : State) (u : UnitId) (c : Core) : (s.setCore u c).fresh = s.fresh := rfl
@[simp] theorem State.setCore_quota (s : State) (u : UnitId) (c : Core) : (s.setCore u c).quota = s.quota := rfl
@[simp] theorem State.setCore_rings (s : State) (u : UnitId) (c : Core) : (s.setCore u c).rings = s.rings := rfl
@[simp] theorem State.setCore_deferred (s : State) (u : UnitId) (c : Core) : (s.setCore u c).deferred = s.deferred := rfl
@[simp] theorem State.setCore_wins (s : State) (u : UnitId) (c : Core) : (s.setCore u c).wins = s.wins := rfl
@[simp] theorem State.setCore_twin (s : State) (u : UnitId) (c : Core) : (s.setCore u c).twin = s.twin := rfl
@[simp] theorem State.setCore_coll (s : State) (u : UnitId) (c : Core) : (s.setCore u c).coll = s.coll := rfl
@[simp] theorem State.setCore_ckpt (s : State) (u : UnitId) (c : Core) : (s.setCore u c).ckpt = s.ckpt := rfl
@[simp] theorem State.setCore_health (s : State) (u : UnitId) (c : Core) : (s.setCore u c).health = s.health := rfl
@[simp] theorem State.setCore_net (s : State) (u : UnitId) (c : Core) : (s.setCore u c).net = s.net := rfl
@[simp] theorem State.setCore_cls (s : State) (u : UnitId) (c : Core) : (s.setCore u c).cls = s.cls := rfl
@[simp] theorem State.setCore_keys (s : State) (u : UnitId) (c : Core) : (s.setCore u c).keys = s.keys := rfl
@[simp] theorem State.setCore_lft (s : State) (u : UnitId) (c : Core) : (s.setCore u c).lft = s.lft := rfl
@[simp] theorem State.setCore_blk (s : State) (u : UnitId) (c : Core) : (s.setCore u c).blk = s.blk := rfl
@[simp] theorem State.setCore_dec (s : State) (u : UnitId) (c : Core) : (s.setCore u c).dec = s.dec := rfl
@[simp] theorem State.setCore_inst (s : State) (u : UnitId) (c : Core) : (s.setCore u c).inst = s.inst := rfl
@[simp] theorem State.setCore_fw (s : State) (u : UnitId) (c : Core) : (s.setCore u c).fw = s.fw := rfl
@[simp] theorem State.setCore_boot (s : State) (u : UnitId) (c : Core) : (s.setCore u c).boot = s.boot := rfl
@[simp] theorem State.setCore_spdm (s : State) (u : UnitId) (c : Core) : (s.setCore u c).spdm = s.spdm := rfl
@[simp] theorem State.setCore_pins (s : State) (u : UnitId) (c : Core) : (s.setCore u c).pins = s.pins := rfl
@[simp] theorem State.setCore_power (s : State) (u : UnitId) (c : Core) : (s.setCore u c).power = s.power := rfl
@[simp] theorem State.setCore_tele (s : State) (u : UnitId) (c : Core) : (s.setCore u c).tele = s.tele := rfl
@[simp] theorem State.setCore_cxl (s : State) (u : UnitId) (c : Core) : (s.setCore u c).cxl = s.cxl := rfl

/-! ## modCore -/

@[simp] theorem State.modCore_pending (s : State) (u : UnitId) (f : Core → Core) : (s.modCore u f).pending = s.pending := rfl
@[simp] theorem State.modCore_imem (s : State) (u : UnitId) (f : Core → Core) : (s.modCore u f).imem = s.imem := rfl
@[simp] theorem State.modCore_lmem (s : State) (u : UnitId) (f : Core → Core) : (s.modCore u f).lmem = s.lmem := rfl
@[simp] theorem State.modCore_bmem (s : State) (u : UnitId) (f : Core → Core) : (s.modCore u f).bmem = s.bmem := rfl
@[simp] theorem State.modCore_hbm (s : State) (u : UnitId) (f : Core → Core) : (s.modCore u f).hbm = s.hbm := rfl
@[simp] theorem State.modCore_hbmCtl (s : State) (u : UnitId) (f : Core → Core) : (s.modCore u f).hbmCtl = s.hbmCtl := rfl
@[simp] theorem State.modCore_d2d (s : State) (u : UnitId) (f : Core → Core) : (s.modCore u f).d2d = s.d2d := rfl
@[simp] theorem State.modCore_csr (s : State) (u : UnitId) (f : Core → Core) : (s.modCore u f).csr = s.csr := rfl
@[simp] theorem State.modCore_wide (s : State) (u : UnitId) (f : Core → Core) : (s.modCore u f).wide = s.wide := rfl
@[simp] theorem State.modCore_time (s : State) (u : UnitId) (f : Core → Core) : (s.modCore u f).time = s.time := rfl
@[simp] theorem State.modCore_beat (s : State) (u : UnitId) (f : Core → Core) : (s.modCore u f).beat = s.beat := rfl
@[simp] theorem State.modCore_vlog (s : State) (u : UnitId) (f : Core → Core) : (s.modCore u f).vlog = s.vlog := rfl
@[simp] theorem State.modCore_reports (s : State) (u : UnitId) (f : Core → Core) : (s.modCore u f).reports = s.reports := rfl
@[simp] theorem State.modCore_stopped (s : State) (u : UnitId) (f : Core → Core) : (s.modCore u f).stopped = s.stopped := rfl
@[simp] theorem State.modCore_out (s : State) (u : UnitId) (f : Core → Core) : (s.modCore u f).out = s.out := rfl
@[simp] theorem State.modCore_fresh (s : State) (u : UnitId) (f : Core → Core) : (s.modCore u f).fresh = s.fresh := rfl
@[simp] theorem State.modCore_quota (s : State) (u : UnitId) (f : Core → Core) : (s.modCore u f).quota = s.quota := rfl
@[simp] theorem State.modCore_rings (s : State) (u : UnitId) (f : Core → Core) : (s.modCore u f).rings = s.rings := rfl
@[simp] theorem State.modCore_deferred (s : State) (u : UnitId) (f : Core → Core) : (s.modCore u f).deferred = s.deferred := rfl
@[simp] theorem State.modCore_wins (s : State) (u : UnitId) (f : Core → Core) : (s.modCore u f).wins = s.wins := rfl
@[simp] theorem State.modCore_twin (s : State) (u : UnitId) (f : Core → Core) : (s.modCore u f).twin = s.twin := rfl
@[simp] theorem State.modCore_coll (s : State) (u : UnitId) (f : Core → Core) : (s.modCore u f).coll = s.coll := rfl
@[simp] theorem State.modCore_ckpt (s : State) (u : UnitId) (f : Core → Core) : (s.modCore u f).ckpt = s.ckpt := rfl
@[simp] theorem State.modCore_health (s : State) (u : UnitId) (f : Core → Core) : (s.modCore u f).health = s.health := rfl
@[simp] theorem State.modCore_net (s : State) (u : UnitId) (f : Core → Core) : (s.modCore u f).net = s.net := rfl
@[simp] theorem State.modCore_cls (s : State) (u : UnitId) (f : Core → Core) : (s.modCore u f).cls = s.cls := rfl
@[simp] theorem State.modCore_keys (s : State) (u : UnitId) (f : Core → Core) : (s.modCore u f).keys = s.keys := rfl
@[simp] theorem State.modCore_lft (s : State) (u : UnitId) (f : Core → Core) : (s.modCore u f).lft = s.lft := rfl
@[simp] theorem State.modCore_blk (s : State) (u : UnitId) (f : Core → Core) : (s.modCore u f).blk = s.blk := rfl
@[simp] theorem State.modCore_dec (s : State) (u : UnitId) (f : Core → Core) : (s.modCore u f).dec = s.dec := rfl
@[simp] theorem State.modCore_inst (s : State) (u : UnitId) (f : Core → Core) : (s.modCore u f).inst = s.inst := rfl
@[simp] theorem State.modCore_fw (s : State) (u : UnitId) (f : Core → Core) : (s.modCore u f).fw = s.fw := rfl
@[simp] theorem State.modCore_boot (s : State) (u : UnitId) (f : Core → Core) : (s.modCore u f).boot = s.boot := rfl
@[simp] theorem State.modCore_spdm (s : State) (u : UnitId) (f : Core → Core) : (s.modCore u f).spdm = s.spdm := rfl
@[simp] theorem State.modCore_pins (s : State) (u : UnitId) (f : Core → Core) : (s.modCore u f).pins = s.pins := rfl
@[simp] theorem State.modCore_power (s : State) (u : UnitId) (f : Core → Core) : (s.modCore u f).power = s.power := rfl
@[simp] theorem State.modCore_tele (s : State) (u : UnitId) (f : Core → Core) : (s.modCore u f).tele = s.tele := rfl
@[simp] theorem State.modCore_cxl (s : State) (u : UnitId) (f : Core → Core) : (s.modCore u f).cxl = s.cxl := rfl

/-! ## setFld -/

@[simp] theorem State.setFld_pending (s : State) (f : Fld) (v : Nat) : (s.setFld f v).pending = s.pending := rfl
@[simp] theorem State.setFld_cores (s : State) (f : Fld) (v : Nat) : (s.setFld f v).cores = s.cores := rfl
@[simp] theorem State.setFld_imem (s : State) (f : Fld) (v : Nat) : (s.setFld f v).imem = s.imem := rfl
@[simp] theorem State.setFld_lmem (s : State) (f : Fld) (v : Nat) : (s.setFld f v).lmem = s.lmem := rfl
@[simp] theorem State.setFld_bmem (s : State) (f : Fld) (v : Nat) : (s.setFld f v).bmem = s.bmem := rfl
@[simp] theorem State.setFld_hbm (s : State) (f : Fld) (v : Nat) : (s.setFld f v).hbm = s.hbm := rfl
@[simp] theorem State.setFld_hbmCtl (s : State) (f : Fld) (v : Nat) : (s.setFld f v).hbmCtl = s.hbmCtl := rfl
@[simp] theorem State.setFld_d2d (s : State) (f : Fld) (v : Nat) : (s.setFld f v).d2d = s.d2d := rfl
@[simp] theorem State.setFld_wide (s : State) (f : Fld) (v : Nat) : (s.setFld f v).wide = s.wide := rfl
@[simp] theorem State.setFld_time (s : State) (f : Fld) (v : Nat) : (s.setFld f v).time = s.time := rfl
@[simp] theorem State.setFld_beat (s : State) (f : Fld) (v : Nat) : (s.setFld f v).beat = s.beat := rfl
@[simp] theorem State.setFld_vlog (s : State) (f : Fld) (v : Nat) : (s.setFld f v).vlog = s.vlog := rfl
@[simp] theorem State.setFld_reports (s : State) (f : Fld) (v : Nat) : (s.setFld f v).reports = s.reports := rfl
@[simp] theorem State.setFld_stopped (s : State) (f : Fld) (v : Nat) : (s.setFld f v).stopped = s.stopped := rfl
@[simp] theorem State.setFld_out (s : State) (f : Fld) (v : Nat) : (s.setFld f v).out = s.out := rfl
@[simp] theorem State.setFld_fresh (s : State) (f : Fld) (v : Nat) : (s.setFld f v).fresh = s.fresh := rfl
@[simp] theorem State.setFld_quota (s : State) (f : Fld) (v : Nat) : (s.setFld f v).quota = s.quota := rfl
@[simp] theorem State.setFld_rings (s : State) (f : Fld) (v : Nat) : (s.setFld f v).rings = s.rings := rfl
@[simp] theorem State.setFld_deferred (s : State) (f : Fld) (v : Nat) : (s.setFld f v).deferred = s.deferred := rfl
@[simp] theorem State.setFld_wins (s : State) (f : Fld) (v : Nat) : (s.setFld f v).wins = s.wins := rfl
@[simp] theorem State.setFld_twin (s : State) (f : Fld) (v : Nat) : (s.setFld f v).twin = s.twin := rfl
@[simp] theorem State.setFld_coll (s : State) (f : Fld) (v : Nat) : (s.setFld f v).coll = s.coll := rfl
@[simp] theorem State.setFld_ckpt (s : State) (f : Fld) (v : Nat) : (s.setFld f v).ckpt = s.ckpt := rfl
@[simp] theorem State.setFld_health (s : State) (f : Fld) (v : Nat) : (s.setFld f v).health = s.health := rfl
@[simp] theorem State.setFld_net (s : State) (f : Fld) (v : Nat) : (s.setFld f v).net = s.net := rfl
@[simp] theorem State.setFld_cls (s : State) (f : Fld) (v : Nat) : (s.setFld f v).cls = s.cls := rfl
@[simp] theorem State.setFld_keys (s : State) (f : Fld) (v : Nat) : (s.setFld f v).keys = s.keys := rfl
@[simp] theorem State.setFld_lft (s : State) (f : Fld) (v : Nat) : (s.setFld f v).lft = s.lft := rfl
@[simp] theorem State.setFld_blk (s : State) (f : Fld) (v : Nat) : (s.setFld f v).blk = s.blk := rfl
@[simp] theorem State.setFld_dec (s : State) (f : Fld) (v : Nat) : (s.setFld f v).dec = s.dec := rfl
@[simp] theorem State.setFld_inst (s : State) (f : Fld) (v : Nat) : (s.setFld f v).inst = s.inst := rfl
@[simp] theorem State.setFld_fw (s : State) (f : Fld) (v : Nat) : (s.setFld f v).fw = s.fw := rfl
@[simp] theorem State.setFld_boot (s : State) (f : Fld) (v : Nat) : (s.setFld f v).boot = s.boot := rfl
@[simp] theorem State.setFld_spdm (s : State) (f : Fld) (v : Nat) : (s.setFld f v).spdm = s.spdm := rfl
@[simp] theorem State.setFld_pins (s : State) (f : Fld) (v : Nat) : (s.setFld f v).pins = s.pins := rfl
@[simp] theorem State.setFld_power (s : State) (f : Fld) (v : Nat) : (s.setFld f v).power = s.power := rfl
@[simp] theorem State.setFld_tele (s : State) (f : Fld) (v : Nat) : (s.setFld f v).tele = s.tele := rfl
@[simp] theorem State.setFld_cxl (s : State) (f : Fld) (v : Nat) : (s.setFld f v).cxl = s.cxl := rfl

/-! ## incFld -/

@[simp] theorem State.incFld_pending (s : State) (f : Fld) (n : Nat) : (s.incFld f n).pending = s.pending := rfl
@[simp] theorem State.incFld_cores (s : State) (f : Fld) (n : Nat) : (s.incFld f n).cores = s.cores := rfl
@[simp] theorem State.incFld_imem (s : State) (f : Fld) (n : Nat) : (s.incFld f n).imem = s.imem := rfl
@[simp] theorem State.incFld_lmem (s : State) (f : Fld) (n : Nat) : (s.incFld f n).lmem = s.lmem := rfl
@[simp] theorem State.incFld_bmem (s : State) (f : Fld) (n : Nat) : (s.incFld f n).bmem = s.bmem := rfl
@[simp] theorem State.incFld_hbm (s : State) (f : Fld) (n : Nat) : (s.incFld f n).hbm = s.hbm := rfl
@[simp] theorem State.incFld_hbmCtl (s : State) (f : Fld) (n : Nat) : (s.incFld f n).hbmCtl = s.hbmCtl := rfl
@[simp] theorem State.incFld_d2d (s : State) (f : Fld) (n : Nat) : (s.incFld f n).d2d = s.d2d := rfl
@[simp] theorem State.incFld_wide (s : State) (f : Fld) (n : Nat) : (s.incFld f n).wide = s.wide := rfl
@[simp] theorem State.incFld_time (s : State) (f : Fld) (n : Nat) : (s.incFld f n).time = s.time := rfl
@[simp] theorem State.incFld_beat (s : State) (f : Fld) (n : Nat) : (s.incFld f n).beat = s.beat := rfl
@[simp] theorem State.incFld_vlog (s : State) (f : Fld) (n : Nat) : (s.incFld f n).vlog = s.vlog := rfl
@[simp] theorem State.incFld_reports (s : State) (f : Fld) (n : Nat) : (s.incFld f n).reports = s.reports := rfl
@[simp] theorem State.incFld_stopped (s : State) (f : Fld) (n : Nat) : (s.incFld f n).stopped = s.stopped := rfl
@[simp] theorem State.incFld_out (s : State) (f : Fld) (n : Nat) : (s.incFld f n).out = s.out := rfl
@[simp] theorem State.incFld_fresh (s : State) (f : Fld) (n : Nat) : (s.incFld f n).fresh = s.fresh := rfl
@[simp] theorem State.incFld_quota (s : State) (f : Fld) (n : Nat) : (s.incFld f n).quota = s.quota := rfl
@[simp] theorem State.incFld_rings (s : State) (f : Fld) (n : Nat) : (s.incFld f n).rings = s.rings := rfl
@[simp] theorem State.incFld_deferred (s : State) (f : Fld) (n : Nat) : (s.incFld f n).deferred = s.deferred := rfl
@[simp] theorem State.incFld_wins (s : State) (f : Fld) (n : Nat) : (s.incFld f n).wins = s.wins := rfl
@[simp] theorem State.incFld_twin (s : State) (f : Fld) (n : Nat) : (s.incFld f n).twin = s.twin := rfl
@[simp] theorem State.incFld_coll (s : State) (f : Fld) (n : Nat) : (s.incFld f n).coll = s.coll := rfl
@[simp] theorem State.incFld_ckpt (s : State) (f : Fld) (n : Nat) : (s.incFld f n).ckpt = s.ckpt := rfl
@[simp] theorem State.incFld_health (s : State) (f : Fld) (n : Nat) : (s.incFld f n).health = s.health := rfl
@[simp] theorem State.incFld_net (s : State) (f : Fld) (n : Nat) : (s.incFld f n).net = s.net := rfl
@[simp] theorem State.incFld_cls (s : State) (f : Fld) (n : Nat) : (s.incFld f n).cls = s.cls := rfl
@[simp] theorem State.incFld_keys (s : State) (f : Fld) (n : Nat) : (s.incFld f n).keys = s.keys := rfl
@[simp] theorem State.incFld_lft (s : State) (f : Fld) (n : Nat) : (s.incFld f n).lft = s.lft := rfl
@[simp] theorem State.incFld_blk (s : State) (f : Fld) (n : Nat) : (s.incFld f n).blk = s.blk := rfl
@[simp] theorem State.incFld_dec (s : State) (f : Fld) (n : Nat) : (s.incFld f n).dec = s.dec := rfl
@[simp] theorem State.incFld_inst (s : State) (f : Fld) (n : Nat) : (s.incFld f n).inst = s.inst := rfl
@[simp] theorem State.incFld_fw (s : State) (f : Fld) (n : Nat) : (s.incFld f n).fw = s.fw := rfl
@[simp] theorem State.incFld_boot (s : State) (f : Fld) (n : Nat) : (s.incFld f n).boot = s.boot := rfl
@[simp] theorem State.incFld_spdm (s : State) (f : Fld) (n : Nat) : (s.incFld f n).spdm = s.spdm := rfl
@[simp] theorem State.incFld_pins (s : State) (f : Fld) (n : Nat) : (s.incFld f n).pins = s.pins := rfl
@[simp] theorem State.incFld_power (s : State) (f : Fld) (n : Nat) : (s.incFld f n).power = s.power := rfl
@[simp] theorem State.incFld_cxl (s : State) (f : Fld) (n : Nat) : (s.incFld f n).cxl = s.cxl := rfl

/-! ## setWord -/

@[simp] theorem State.setWord_pending (s : State) (k : Nat) (v : Word) : (s.setWord k v).pending = s.pending := rfl
@[simp] theorem State.setWord_cores (s : State) (k : Nat) (v : Word) : (s.setWord k v).cores = s.cores := rfl
@[simp] theorem State.setWord_imem (s : State) (k : Nat) (v : Word) : (s.setWord k v).imem = s.imem := rfl
@[simp] theorem State.setWord_lmem (s : State) (k : Nat) (v : Word) : (s.setWord k v).lmem = s.lmem := rfl
@[simp] theorem State.setWord_bmem (s : State) (k : Nat) (v : Word) : (s.setWord k v).bmem = s.bmem := rfl
@[simp] theorem State.setWord_hbm (s : State) (k : Nat) (v : Word) : (s.setWord k v).hbm = s.hbm := rfl
@[simp] theorem State.setWord_hbmCtl (s : State) (k : Nat) (v : Word) : (s.setWord k v).hbmCtl = s.hbmCtl := rfl
@[simp] theorem State.setWord_d2d (s : State) (k : Nat) (v : Word) : (s.setWord k v).d2d = s.d2d := rfl
@[simp] theorem State.setWord_wide (s : State) (k : Nat) (v : Word) : (s.setWord k v).wide = s.wide := rfl
@[simp] theorem State.setWord_time (s : State) (k : Nat) (v : Word) : (s.setWord k v).time = s.time := rfl
@[simp] theorem State.setWord_beat (s : State) (k : Nat) (v : Word) : (s.setWord k v).beat = s.beat := rfl
@[simp] theorem State.setWord_vlog (s : State) (k : Nat) (v : Word) : (s.setWord k v).vlog = s.vlog := rfl
@[simp] theorem State.setWord_reports (s : State) (k : Nat) (v : Word) : (s.setWord k v).reports = s.reports := rfl
@[simp] theorem State.setWord_stopped (s : State) (k : Nat) (v : Word) : (s.setWord k v).stopped = s.stopped := rfl
@[simp] theorem State.setWord_out (s : State) (k : Nat) (v : Word) : (s.setWord k v).out = s.out := rfl
@[simp] theorem State.setWord_fresh (s : State) (k : Nat) (v : Word) : (s.setWord k v).fresh = s.fresh := rfl
@[simp] theorem State.setWord_quota (s : State) (k : Nat) (v : Word) : (s.setWord k v).quota = s.quota := rfl
@[simp] theorem State.setWord_rings (s : State) (k : Nat) (v : Word) : (s.setWord k v).rings = s.rings := rfl
@[simp] theorem State.setWord_deferred (s : State) (k : Nat) (v : Word) : (s.setWord k v).deferred = s.deferred := rfl
@[simp] theorem State.setWord_wins (s : State) (k : Nat) (v : Word) : (s.setWord k v).wins = s.wins := rfl
@[simp] theorem State.setWord_twin (s : State) (k : Nat) (v : Word) : (s.setWord k v).twin = s.twin := rfl
@[simp] theorem State.setWord_coll (s : State) (k : Nat) (v : Word) : (s.setWord k v).coll = s.coll := rfl
@[simp] theorem State.setWord_ckpt (s : State) (k : Nat) (v : Word) : (s.setWord k v).ckpt = s.ckpt := rfl
@[simp] theorem State.setWord_health (s : State) (k : Nat) (v : Word) : (s.setWord k v).health = s.health := rfl
@[simp] theorem State.setWord_net (s : State) (k : Nat) (v : Word) : (s.setWord k v).net = s.net := rfl
@[simp] theorem State.setWord_cls (s : State) (k : Nat) (v : Word) : (s.setWord k v).cls = s.cls := rfl
@[simp] theorem State.setWord_keys (s : State) (k : Nat) (v : Word) : (s.setWord k v).keys = s.keys := rfl
@[simp] theorem State.setWord_lft (s : State) (k : Nat) (v : Word) : (s.setWord k v).lft = s.lft := rfl
@[simp] theorem State.setWord_blk (s : State) (k : Nat) (v : Word) : (s.setWord k v).blk = s.blk := rfl
@[simp] theorem State.setWord_dec (s : State) (k : Nat) (v : Word) : (s.setWord k v).dec = s.dec := rfl
@[simp] theorem State.setWord_inst (s : State) (k : Nat) (v : Word) : (s.setWord k v).inst = s.inst := rfl
@[simp] theorem State.setWord_fw (s : State) (k : Nat) (v : Word) : (s.setWord k v).fw = s.fw := rfl
@[simp] theorem State.setWord_boot (s : State) (k : Nat) (v : Word) : (s.setWord k v).boot = s.boot := rfl
@[simp] theorem State.setWord_spdm (s : State) (k : Nat) (v : Word) : (s.setWord k v).spdm = s.spdm := rfl
@[simp] theorem State.setWord_pins (s : State) (k : Nat) (v : Word) : (s.setWord k v).pins = s.pins := rfl
@[simp] theorem State.setWord_power (s : State) (k : Nat) (v : Word) : (s.setWord k v).power = s.power := rfl
@[simp] theorem State.setWord_tele (s : State) (k : Nat) (v : Word) : (s.setWord k v).tele = s.tele := rfl
@[simp] theorem State.setWord_cxl (s : State) (k : Nat) (v : Word) : (s.setWord k v).cxl = s.cxl := rfl

/-! ## setWord64 -/

@[simp] theorem State.setWord64_pending (s : State) (k v : Nat) : (s.setWord64 k v).pending = s.pending := rfl
@[simp] theorem State.setWord64_cores (s : State) (k v : Nat) : (s.setWord64 k v).cores = s.cores := rfl
@[simp] theorem State.setWord64_imem (s : State) (k v : Nat) : (s.setWord64 k v).imem = s.imem := rfl
@[simp] theorem State.setWord64_lmem (s : State) (k v : Nat) : (s.setWord64 k v).lmem = s.lmem := rfl
@[simp] theorem State.setWord64_bmem (s : State) (k v : Nat) : (s.setWord64 k v).bmem = s.bmem := rfl
@[simp] theorem State.setWord64_hbm (s : State) (k v : Nat) : (s.setWord64 k v).hbm = s.hbm := rfl
@[simp] theorem State.setWord64_hbmCtl (s : State) (k v : Nat) : (s.setWord64 k v).hbmCtl = s.hbmCtl := rfl
@[simp] theorem State.setWord64_d2d (s : State) (k v : Nat) : (s.setWord64 k v).d2d = s.d2d := rfl
@[simp] theorem State.setWord64_wide (s : State) (k v : Nat) : (s.setWord64 k v).wide = s.wide := rfl
@[simp] theorem State.setWord64_time (s : State) (k v : Nat) : (s.setWord64 k v).time = s.time := rfl
@[simp] theorem State.setWord64_beat (s : State) (k v : Nat) : (s.setWord64 k v).beat = s.beat := rfl
@[simp] theorem State.setWord64_vlog (s : State) (k v : Nat) : (s.setWord64 k v).vlog = s.vlog := rfl
@[simp] theorem State.setWord64_reports (s : State) (k v : Nat) : (s.setWord64 k v).reports = s.reports := rfl
@[simp] theorem State.setWord64_stopped (s : State) (k v : Nat) : (s.setWord64 k v).stopped = s.stopped := rfl
@[simp] theorem State.setWord64_out (s : State) (k v : Nat) : (s.setWord64 k v).out = s.out := rfl
@[simp] theorem State.setWord64_fresh (s : State) (k v : Nat) : (s.setWord64 k v).fresh = s.fresh := rfl
@[simp] theorem State.setWord64_quota (s : State) (k v : Nat) : (s.setWord64 k v).quota = s.quota := rfl
@[simp] theorem State.setWord64_rings (s : State) (k v : Nat) : (s.setWord64 k v).rings = s.rings := rfl
@[simp] theorem State.setWord64_deferred (s : State) (k v : Nat) : (s.setWord64 k v).deferred = s.deferred := rfl
@[simp] theorem State.setWord64_wins (s : State) (k v : Nat) : (s.setWord64 k v).wins = s.wins := rfl
@[simp] theorem State.setWord64_twin (s : State) (k v : Nat) : (s.setWord64 k v).twin = s.twin := rfl
@[simp] theorem State.setWord64_coll (s : State) (k v : Nat) : (s.setWord64 k v).coll = s.coll := rfl
@[simp] theorem State.setWord64_ckpt (s : State) (k v : Nat) : (s.setWord64 k v).ckpt = s.ckpt := rfl
@[simp] theorem State.setWord64_health (s : State) (k v : Nat) : (s.setWord64 k v).health = s.health := rfl
@[simp] theorem State.setWord64_net (s : State) (k v : Nat) : (s.setWord64 k v).net = s.net := rfl
@[simp] theorem State.setWord64_cls (s : State) (k v : Nat) : (s.setWord64 k v).cls = s.cls := rfl
@[simp] theorem State.setWord64_keys (s : State) (k v : Nat) : (s.setWord64 k v).keys = s.keys := rfl
@[simp] theorem State.setWord64_lft (s : State) (k v : Nat) : (s.setWord64 k v).lft = s.lft := rfl
@[simp] theorem State.setWord64_blk (s : State) (k v : Nat) : (s.setWord64 k v).blk = s.blk := rfl
@[simp] theorem State.setWord64_dec (s : State) (k v : Nat) : (s.setWord64 k v).dec = s.dec := rfl
@[simp] theorem State.setWord64_inst (s : State) (k v : Nat) : (s.setWord64 k v).inst = s.inst := rfl
@[simp] theorem State.setWord64_fw (s : State) (k v : Nat) : (s.setWord64 k v).fw = s.fw := rfl
@[simp] theorem State.setWord64_boot (s : State) (k v : Nat) : (s.setWord64 k v).boot = s.boot := rfl
@[simp] theorem State.setWord64_spdm (s : State) (k v : Nat) : (s.setWord64 k v).spdm = s.spdm := rfl
@[simp] theorem State.setWord64_pins (s : State) (k v : Nat) : (s.setWord64 k v).pins = s.pins := rfl
@[simp] theorem State.setWord64_power (s : State) (k v : Nat) : (s.setWord64 k v).power = s.power := rfl
@[simp] theorem State.setWord64_tele (s : State) (k v : Nat) : (s.setWord64 k v).tele = s.tele := rfl
@[simp] theorem State.setWord64_cxl (s : State) (k v : Nat) : (s.setWord64 k v).cxl = s.cxl := rfl

/-! ## emit -/

@[simp] theorem State.emit_pending (s : State) (e : Emit) : (s.emit e).pending = s.pending := rfl
@[simp] theorem State.emit_cores (s : State) (e : Emit) : (s.emit e).cores = s.cores := rfl
@[simp] theorem State.emit_imem (s : State) (e : Emit) : (s.emit e).imem = s.imem := rfl
@[simp] theorem State.emit_lmem (s : State) (e : Emit) : (s.emit e).lmem = s.lmem := rfl
@[simp] theorem State.emit_bmem (s : State) (e : Emit) : (s.emit e).bmem = s.bmem := rfl
@[simp] theorem State.emit_hbm (s : State) (e : Emit) : (s.emit e).hbm = s.hbm := rfl
@[simp] theorem State.emit_hbmCtl (s : State) (e : Emit) : (s.emit e).hbmCtl = s.hbmCtl := rfl
@[simp] theorem State.emit_d2d (s : State) (e : Emit) : (s.emit e).d2d = s.d2d := rfl
@[simp] theorem State.emit_csr (s : State) (e : Emit) : (s.emit e).csr = s.csr := rfl
@[simp] theorem State.emit_wide (s : State) (e : Emit) : (s.emit e).wide = s.wide := rfl
@[simp] theorem State.emit_time (s : State) (e : Emit) : (s.emit e).time = s.time := rfl
@[simp] theorem State.emit_beat (s : State) (e : Emit) : (s.emit e).beat = s.beat := rfl
@[simp] theorem State.emit_vlog (s : State) (e : Emit) : (s.emit e).vlog = s.vlog := rfl
@[simp] theorem State.emit_reports (s : State) (e : Emit) : (s.emit e).reports = s.reports := rfl
@[simp] theorem State.emit_stopped (s : State) (e : Emit) : (s.emit e).stopped = s.stopped := rfl
@[simp] theorem State.emit_fresh (s : State) (e : Emit) : (s.emit e).fresh = s.fresh := rfl
@[simp] theorem State.emit_quota (s : State) (e : Emit) : (s.emit e).quota = s.quota := rfl
@[simp] theorem State.emit_rings (s : State) (e : Emit) : (s.emit e).rings = s.rings := rfl
@[simp] theorem State.emit_deferred (s : State) (e : Emit) : (s.emit e).deferred = s.deferred := rfl
@[simp] theorem State.emit_wins (s : State) (e : Emit) : (s.emit e).wins = s.wins := rfl
@[simp] theorem State.emit_twin (s : State) (e : Emit) : (s.emit e).twin = s.twin := rfl
@[simp] theorem State.emit_coll (s : State) (e : Emit) : (s.emit e).coll = s.coll := rfl
@[simp] theorem State.emit_ckpt (s : State) (e : Emit) : (s.emit e).ckpt = s.ckpt := rfl
@[simp] theorem State.emit_health (s : State) (e : Emit) : (s.emit e).health = s.health := rfl
@[simp] theorem State.emit_net (s : State) (e : Emit) : (s.emit e).net = s.net := rfl
@[simp] theorem State.emit_cls (s : State) (e : Emit) : (s.emit e).cls = s.cls := rfl
@[simp] theorem State.emit_keys (s : State) (e : Emit) : (s.emit e).keys = s.keys := rfl
@[simp] theorem State.emit_lft (s : State) (e : Emit) : (s.emit e).lft = s.lft := rfl
@[simp] theorem State.emit_blk (s : State) (e : Emit) : (s.emit e).blk = s.blk := rfl
@[simp] theorem State.emit_dec (s : State) (e : Emit) : (s.emit e).dec = s.dec := rfl
@[simp] theorem State.emit_inst (s : State) (e : Emit) : (s.emit e).inst = s.inst := rfl
@[simp] theorem State.emit_fw (s : State) (e : Emit) : (s.emit e).fw = s.fw := rfl
@[simp] theorem State.emit_boot (s : State) (e : Emit) : (s.emit e).boot = s.boot := rfl
@[simp] theorem State.emit_spdm (s : State) (e : Emit) : (s.emit e).spdm = s.spdm := rfl
@[simp] theorem State.emit_pins (s : State) (e : Emit) : (s.emit e).pins = s.pins := rfl
@[simp] theorem State.emit_power (s : State) (e : Emit) : (s.emit e).power = s.power := rfl
@[simp] theorem State.emit_tele (s : State) (e : Emit) : (s.emit e).tele = s.tele := rfl
@[simp] theorem State.emit_cxl (s : State) (e : Emit) : (s.emit e).cxl = s.cxl := rfl

/-! ## emits -/

@[simp] theorem State.emits_pending (s : State) (es : List Emit) : (s.emits es).pending = s.pending := rfl
@[simp] theorem State.emits_cores (s : State) (es : List Emit) : (s.emits es).cores = s.cores := rfl
@[simp] theorem State.emits_imem (s : State) (es : List Emit) : (s.emits es).imem = s.imem := rfl
@[simp] theorem State.emits_lmem (s : State) (es : List Emit) : (s.emits es).lmem = s.lmem := rfl
@[simp] theorem State.emits_bmem (s : State) (es : List Emit) : (s.emits es).bmem = s.bmem := rfl
@[simp] theorem State.emits_hbm (s : State) (es : List Emit) : (s.emits es).hbm = s.hbm := rfl
@[simp] theorem State.emits_hbmCtl (s : State) (es : List Emit) : (s.emits es).hbmCtl = s.hbmCtl := rfl
@[simp] theorem State.emits_d2d (s : State) (es : List Emit) : (s.emits es).d2d = s.d2d := rfl
@[simp] theorem State.emits_csr (s : State) (es : List Emit) : (s.emits es).csr = s.csr := rfl
@[simp] theorem State.emits_wide (s : State) (es : List Emit) : (s.emits es).wide = s.wide := rfl
@[simp] theorem State.emits_time (s : State) (es : List Emit) : (s.emits es).time = s.time := rfl
@[simp] theorem State.emits_beat (s : State) (es : List Emit) : (s.emits es).beat = s.beat := rfl
@[simp] theorem State.emits_vlog (s : State) (es : List Emit) : (s.emits es).vlog = s.vlog := rfl
@[simp] theorem State.emits_reports (s : State) (es : List Emit) : (s.emits es).reports = s.reports := rfl
@[simp] theorem State.emits_stopped (s : State) (es : List Emit) : (s.emits es).stopped = s.stopped := rfl
@[simp] theorem State.emits_fresh (s : State) (es : List Emit) : (s.emits es).fresh = s.fresh := rfl
@[simp] theorem State.emits_quota (s : State) (es : List Emit) : (s.emits es).quota = s.quota := rfl
@[simp] theorem State.emits_rings (s : State) (es : List Emit) : (s.emits es).rings = s.rings := rfl
@[simp] theorem State.emits_deferred (s : State) (es : List Emit) : (s.emits es).deferred = s.deferred := rfl
@[simp] theorem State.emits_wins (s : State) (es : List Emit) : (s.emits es).wins = s.wins := rfl
@[simp] theorem State.emits_twin (s : State) (es : List Emit) : (s.emits es).twin = s.twin := rfl
@[simp] theorem State.emits_coll (s : State) (es : List Emit) : (s.emits es).coll = s.coll := rfl
@[simp] theorem State.emits_ckpt (s : State) (es : List Emit) : (s.emits es).ckpt = s.ckpt := rfl
@[simp] theorem State.emits_health (s : State) (es : List Emit) : (s.emits es).health = s.health := rfl
@[simp] theorem State.emits_net (s : State) (es : List Emit) : (s.emits es).net = s.net := rfl
@[simp] theorem State.emits_cls (s : State) (es : List Emit) : (s.emits es).cls = s.cls := rfl
@[simp] theorem State.emits_keys (s : State) (es : List Emit) : (s.emits es).keys = s.keys := rfl
@[simp] theorem State.emits_lft (s : State) (es : List Emit) : (s.emits es).lft = s.lft := rfl
@[simp] theorem State.emits_blk (s : State) (es : List Emit) : (s.emits es).blk = s.blk := rfl
@[simp] theorem State.emits_dec (s : State) (es : List Emit) : (s.emits es).dec = s.dec := rfl
@[simp] theorem State.emits_inst (s : State) (es : List Emit) : (s.emits es).inst = s.inst := rfl
@[simp] theorem State.emits_fw (s : State) (es : List Emit) : (s.emits es).fw = s.fw := rfl
@[simp] theorem State.emits_boot (s : State) (es : List Emit) : (s.emits es).boot = s.boot := rfl
@[simp] theorem State.emits_spdm (s : State) (es : List Emit) : (s.emits es).spdm = s.spdm := rfl
@[simp] theorem State.emits_pins (s : State) (es : List Emit) : (s.emits es).pins = s.pins := rfl
@[simp] theorem State.emits_power (s : State) (es : List Emit) : (s.emits es).power = s.power := rfl
@[simp] theorem State.emits_tele (s : State) (es : List Emit) : (s.emits es).tele = s.tele := rfl
@[simp] theorem State.emits_cxl (s : State) (es : List Emit) : (s.emits es).cxl = s.cxl := rfl

/-! ## advance -/

@[simp] theorem State.advance_pending (s : State) (t : Nat) : (s.advance t).pending = s.pending := rfl
@[simp] theorem State.advance_cores (s : State) (t : Nat) : (s.advance t).cores = s.cores := rfl
@[simp] theorem State.advance_imem (s : State) (t : Nat) : (s.advance t).imem = s.imem := rfl
@[simp] theorem State.advance_lmem (s : State) (t : Nat) : (s.advance t).lmem = s.lmem := rfl
@[simp] theorem State.advance_bmem (s : State) (t : Nat) : (s.advance t).bmem = s.bmem := rfl
@[simp] theorem State.advance_hbm (s : State) (t : Nat) : (s.advance t).hbm = s.hbm := rfl
@[simp] theorem State.advance_hbmCtl (s : State) (t : Nat) : (s.advance t).hbmCtl = s.hbmCtl := rfl
@[simp] theorem State.advance_d2d (s : State) (t : Nat) : (s.advance t).d2d = s.d2d := rfl
@[simp] theorem State.advance_csr (s : State) (t : Nat) : (s.advance t).csr = s.csr := rfl
@[simp] theorem State.advance_wide (s : State) (t : Nat) : (s.advance t).wide = s.wide := rfl
@[simp] theorem State.advance_beat (s : State) (t : Nat) : (s.advance t).beat = s.beat := rfl
@[simp] theorem State.advance_vlog (s : State) (t : Nat) : (s.advance t).vlog = s.vlog := rfl
@[simp] theorem State.advance_reports (s : State) (t : Nat) : (s.advance t).reports = s.reports := rfl
@[simp] theorem State.advance_stopped (s : State) (t : Nat) : (s.advance t).stopped = s.stopped := rfl
@[simp] theorem State.advance_out (s : State) (t : Nat) : (s.advance t).out = s.out := rfl
@[simp] theorem State.advance_fresh (s : State) (t : Nat) : (s.advance t).fresh = s.fresh := rfl
@[simp] theorem State.advance_quota (s : State) (t : Nat) : (s.advance t).quota = s.quota := rfl
@[simp] theorem State.advance_rings (s : State) (t : Nat) : (s.advance t).rings = s.rings := rfl
@[simp] theorem State.advance_deferred (s : State) (t : Nat) : (s.advance t).deferred = s.deferred := rfl
@[simp] theorem State.advance_wins (s : State) (t : Nat) : (s.advance t).wins = s.wins := rfl
@[simp] theorem State.advance_twin (s : State) (t : Nat) : (s.advance t).twin = s.twin := rfl
@[simp] theorem State.advance_coll (s : State) (t : Nat) : (s.advance t).coll = s.coll := rfl
@[simp] theorem State.advance_ckpt (s : State) (t : Nat) : (s.advance t).ckpt = s.ckpt := rfl
@[simp] theorem State.advance_health (s : State) (t : Nat) : (s.advance t).health = s.health := rfl
@[simp] theorem State.advance_net (s : State) (t : Nat) : (s.advance t).net = s.net := rfl
@[simp] theorem State.advance_cls (s : State) (t : Nat) : (s.advance t).cls = s.cls := rfl
@[simp] theorem State.advance_keys (s : State) (t : Nat) : (s.advance t).keys = s.keys := rfl
@[simp] theorem State.advance_lft (s : State) (t : Nat) : (s.advance t).lft = s.lft := rfl
@[simp] theorem State.advance_blk (s : State) (t : Nat) : (s.advance t).blk = s.blk := rfl
@[simp] theorem State.advance_dec (s : State) (t : Nat) : (s.advance t).dec = s.dec := rfl
@[simp] theorem State.advance_inst (s : State) (t : Nat) : (s.advance t).inst = s.inst := rfl
@[simp] theorem State.advance_fw (s : State) (t : Nat) : (s.advance t).fw = s.fw := rfl
@[simp] theorem State.advance_boot (s : State) (t : Nat) : (s.advance t).boot = s.boot := rfl
@[simp] theorem State.advance_spdm (s : State) (t : Nat) : (s.advance t).spdm = s.spdm := rfl
@[simp] theorem State.advance_pins (s : State) (t : Nat) : (s.advance t).pins = s.pins := rfl
@[simp] theorem State.advance_power (s : State) (t : Nat) : (s.advance t).power = s.power := rfl
@[simp] theorem State.advance_tele (s : State) (t : Nat) : (s.advance t).tele = s.tele := rfl
@[simp] theorem State.advance_cxl (s : State) (t : Nat) : (s.advance t).cxl = s.cxl := rfl

/-! ## tick -/

@[simp] theorem State.tick_pending (s : State) : (s.tick).pending = s.pending := rfl
@[simp] theorem State.tick_cores (s : State) : (s.tick).cores = s.cores := rfl
@[simp] theorem State.tick_imem (s : State) : (s.tick).imem = s.imem := rfl
@[simp] theorem State.tick_lmem (s : State) : (s.tick).lmem = s.lmem := rfl
@[simp] theorem State.tick_bmem (s : State) : (s.tick).bmem = s.bmem := rfl
@[simp] theorem State.tick_hbm (s : State) : (s.tick).hbm = s.hbm := rfl
@[simp] theorem State.tick_hbmCtl (s : State) : (s.tick).hbmCtl = s.hbmCtl := rfl
@[simp] theorem State.tick_d2d (s : State) : (s.tick).d2d = s.d2d := rfl
@[simp] theorem State.tick_csr (s : State) : (s.tick).csr = s.csr := rfl
@[simp] theorem State.tick_wide (s : State) : (s.tick).wide = s.wide := rfl
@[simp] theorem State.tick_time (s : State) : (s.tick).time = s.time := rfl
@[simp] theorem State.tick_beat (s : State) : (s.tick).beat = s.beat := rfl
@[simp] theorem State.tick_vlog (s : State) : (s.tick).vlog = s.vlog := rfl
@[simp] theorem State.tick_reports (s : State) : (s.tick).reports = s.reports := rfl
@[simp] theorem State.tick_stopped (s : State) : (s.tick).stopped = s.stopped := rfl
@[simp] theorem State.tick_out (s : State) : (s.tick).out = s.out := rfl
@[simp] theorem State.tick_quota (s : State) : (s.tick).quota = s.quota := rfl
@[simp] theorem State.tick_rings (s : State) : (s.tick).rings = s.rings := rfl
@[simp] theorem State.tick_deferred (s : State) : (s.tick).deferred = s.deferred := rfl
@[simp] theorem State.tick_wins (s : State) : (s.tick).wins = s.wins := rfl
@[simp] theorem State.tick_twin (s : State) : (s.tick).twin = s.twin := rfl
@[simp] theorem State.tick_coll (s : State) : (s.tick).coll = s.coll := rfl
@[simp] theorem State.tick_ckpt (s : State) : (s.tick).ckpt = s.ckpt := rfl
@[simp] theorem State.tick_health (s : State) : (s.tick).health = s.health := rfl
@[simp] theorem State.tick_net (s : State) : (s.tick).net = s.net := rfl
@[simp] theorem State.tick_cls (s : State) : (s.tick).cls = s.cls := rfl
@[simp] theorem State.tick_keys (s : State) : (s.tick).keys = s.keys := rfl
@[simp] theorem State.tick_lft (s : State) : (s.tick).lft = s.lft := rfl
@[simp] theorem State.tick_blk (s : State) : (s.tick).blk = s.blk := rfl
@[simp] theorem State.tick_dec (s : State) : (s.tick).dec = s.dec := rfl
@[simp] theorem State.tick_inst (s : State) : (s.tick).inst = s.inst := rfl
@[simp] theorem State.tick_fw (s : State) : (s.tick).fw = s.fw := rfl
@[simp] theorem State.tick_boot (s : State) : (s.tick).boot = s.boot := rfl
@[simp] theorem State.tick_spdm (s : State) : (s.tick).spdm = s.spdm := rfl
@[simp] theorem State.tick_pins (s : State) : (s.tick).pins = s.pins := rfl
@[simp] theorem State.tick_power (s : State) : (s.tick).power = s.power := rfl
@[simp] theorem State.tick_tele (s : State) : (s.tick).tele = s.tele := rfl
@[simp] theorem State.tick_cxl (s : State) : (s.tick).cxl = s.cxl := rfl

/-! ## violate -/

@[simp] theorem State.violate_pending (s : State) (a b c d e f g : Nat) : (s.violate a b c d e f g).pending = s.pending := rfl
@[simp] theorem State.violate_cores (s : State) (a b c d e f g : Nat) : (s.violate a b c d e f g).cores = s.cores := rfl
@[simp] theorem State.violate_imem (s : State) (a b c d e f g : Nat) : (s.violate a b c d e f g).imem = s.imem := rfl
@[simp] theorem State.violate_lmem (s : State) (a b c d e f g : Nat) : (s.violate a b c d e f g).lmem = s.lmem := rfl
@[simp] theorem State.violate_bmem (s : State) (a b c d e f g : Nat) : (s.violate a b c d e f g).bmem = s.bmem := rfl
@[simp] theorem State.violate_hbm (s : State) (a b c d e f g : Nat) : (s.violate a b c d e f g).hbm = s.hbm := rfl
@[simp] theorem State.violate_hbmCtl (s : State) (a b c d e f g : Nat) : (s.violate a b c d e f g).hbmCtl = s.hbmCtl := rfl
@[simp] theorem State.violate_d2d (s : State) (a b c d e f g : Nat) : (s.violate a b c d e f g).d2d = s.d2d := rfl
@[simp] theorem State.violate_csr (s : State) (a b c d e f g : Nat) : (s.violate a b c d e f g).csr = s.csr := rfl
@[simp] theorem State.violate_wide (s : State) (a b c d e f g : Nat) : (s.violate a b c d e f g).wide = s.wide := rfl
@[simp] theorem State.violate_time (s : State) (a b c d e f g : Nat) : (s.violate a b c d e f g).time = s.time := rfl
@[simp] theorem State.violate_beat (s : State) (a b c d e f g : Nat) : (s.violate a b c d e f g).beat = s.beat := rfl
@[simp] theorem State.violate_reports (s : State) (a b c d e f g : Nat) : (s.violate a b c d e f g).reports = s.reports := rfl
@[simp] theorem State.violate_stopped (s : State) (a b c d e f g : Nat) : (s.violate a b c d e f g).stopped = s.stopped := rfl
@[simp] theorem State.violate_out (s : State) (a b c d e f g : Nat) : (s.violate a b c d e f g).out = s.out := rfl
@[simp] theorem State.violate_fresh (s : State) (a b c d e f g : Nat) : (s.violate a b c d e f g).fresh = s.fresh := rfl
@[simp] theorem State.violate_quota (s : State) (a b c d e f g : Nat) : (s.violate a b c d e f g).quota = s.quota := rfl
@[simp] theorem State.violate_rings (s : State) (a b c d e f g : Nat) : (s.violate a b c d e f g).rings = s.rings := rfl
@[simp] theorem State.violate_deferred (s : State) (a b c d e f g : Nat) : (s.violate a b c d e f g).deferred = s.deferred := rfl
@[simp] theorem State.violate_wins (s : State) (a b c d e f g : Nat) : (s.violate a b c d e f g).wins = s.wins := rfl
@[simp] theorem State.violate_twin (s : State) (a b c d e f g : Nat) : (s.violate a b c d e f g).twin = s.twin := rfl
@[simp] theorem State.violate_coll (s : State) (a b c d e f g : Nat) : (s.violate a b c d e f g).coll = s.coll := rfl
@[simp] theorem State.violate_ckpt (s : State) (a b c d e f g : Nat) : (s.violate a b c d e f g).ckpt = s.ckpt := rfl
@[simp] theorem State.violate_health (s : State) (a b c d e f g : Nat) : (s.violate a b c d e f g).health = s.health := rfl
@[simp] theorem State.violate_net (s : State) (a b c d e f g : Nat) : (s.violate a b c d e f g).net = s.net := rfl
@[simp] theorem State.violate_cls (s : State) (a b c d e f g : Nat) : (s.violate a b c d e f g).cls = s.cls := rfl
@[simp] theorem State.violate_keys (s : State) (a b c d e f g : Nat) : (s.violate a b c d e f g).keys = s.keys := rfl
@[simp] theorem State.violate_lft (s : State) (a b c d e f g : Nat) : (s.violate a b c d e f g).lft = s.lft := rfl
@[simp] theorem State.violate_blk (s : State) (a b c d e f g : Nat) : (s.violate a b c d e f g).blk = s.blk := rfl
@[simp] theorem State.violate_dec (s : State) (a b c d e f g : Nat) : (s.violate a b c d e f g).dec = s.dec := rfl
@[simp] theorem State.violate_inst (s : State) (a b c d e f g : Nat) : (s.violate a b c d e f g).inst = s.inst := rfl
@[simp] theorem State.violate_fw (s : State) (a b c d e f g : Nat) : (s.violate a b c d e f g).fw = s.fw := rfl
@[simp] theorem State.violate_boot (s : State) (a b c d e f g : Nat) : (s.violate a b c d e f g).boot = s.boot := rfl
@[simp] theorem State.violate_spdm (s : State) (a b c d e f g : Nat) : (s.violate a b c d e f g).spdm = s.spdm := rfl
@[simp] theorem State.violate_pins (s : State) (a b c d e f g : Nat) : (s.violate a b c d e f g).pins = s.pins := rfl
@[simp] theorem State.violate_power (s : State) (a b c d e f g : Nat) : (s.violate a b c d e f g).power = s.power := rfl
@[simp] theorem State.violate_cxl (s : State) (a b c d e f g : Nat) : (s.violate a b c d e f g).cxl = s.cxl := rfl

/-! ## report -/

@[simp] theorem State.report_pending (s : State) (a b c : Nat) : (s.report a b c).pending = s.pending := rfl
@[simp] theorem State.report_cores (s : State) (a b c : Nat) : (s.report a b c).cores = s.cores := rfl
@[simp] theorem State.report_imem (s : State) (a b c : Nat) : (s.report a b c).imem = s.imem := rfl
@[simp] theorem State.report_lmem (s : State) (a b c : Nat) : (s.report a b c).lmem = s.lmem := rfl
@[simp] theorem State.report_bmem (s : State) (a b c : Nat) : (s.report a b c).bmem = s.bmem := rfl
@[simp] theorem State.report_hbm (s : State) (a b c : Nat) : (s.report a b c).hbm = s.hbm := rfl
@[simp] theorem State.report_hbmCtl (s : State) (a b c : Nat) : (s.report a b c).hbmCtl = s.hbmCtl := rfl
@[simp] theorem State.report_d2d (s : State) (a b c : Nat) : (s.report a b c).d2d = s.d2d := rfl
@[simp] theorem State.report_csr (s : State) (a b c : Nat) : (s.report a b c).csr = s.csr := rfl
@[simp] theorem State.report_wide (s : State) (a b c : Nat) : (s.report a b c).wide = s.wide := rfl
@[simp] theorem State.report_time (s : State) (a b c : Nat) : (s.report a b c).time = s.time := rfl
@[simp] theorem State.report_beat (s : State) (a b c : Nat) : (s.report a b c).beat = s.beat := rfl
@[simp] theorem State.report_vlog (s : State) (a b c : Nat) : (s.report a b c).vlog = s.vlog := rfl
@[simp] theorem State.report_stopped (s : State) (a b c : Nat) : (s.report a b c).stopped = s.stopped := rfl
@[simp] theorem State.report_out (s : State) (a b c : Nat) : (s.report a b c).out = s.out := rfl
@[simp] theorem State.report_fresh (s : State) (a b c : Nat) : (s.report a b c).fresh = s.fresh := rfl
@[simp] theorem State.report_quota (s : State) (a b c : Nat) : (s.report a b c).quota = s.quota := rfl
@[simp] theorem State.report_rings (s : State) (a b c : Nat) : (s.report a b c).rings = s.rings := rfl
@[simp] theorem State.report_deferred (s : State) (a b c : Nat) : (s.report a b c).deferred = s.deferred := rfl
@[simp] theorem State.report_wins (s : State) (a b c : Nat) : (s.report a b c).wins = s.wins := rfl
@[simp] theorem State.report_twin (s : State) (a b c : Nat) : (s.report a b c).twin = s.twin := rfl
@[simp] theorem State.report_coll (s : State) (a b c : Nat) : (s.report a b c).coll = s.coll := rfl
@[simp] theorem State.report_ckpt (s : State) (a b c : Nat) : (s.report a b c).ckpt = s.ckpt := rfl
@[simp] theorem State.report_health (s : State) (a b c : Nat) : (s.report a b c).health = s.health := rfl
@[simp] theorem State.report_net (s : State) (a b c : Nat) : (s.report a b c).net = s.net := rfl
@[simp] theorem State.report_cls (s : State) (a b c : Nat) : (s.report a b c).cls = s.cls := rfl
@[simp] theorem State.report_keys (s : State) (a b c : Nat) : (s.report a b c).keys = s.keys := rfl
@[simp] theorem State.report_lft (s : State) (a b c : Nat) : (s.report a b c).lft = s.lft := rfl
@[simp] theorem State.report_blk (s : State) (a b c : Nat) : (s.report a b c).blk = s.blk := rfl
@[simp] theorem State.report_dec (s : State) (a b c : Nat) : (s.report a b c).dec = s.dec := rfl
@[simp] theorem State.report_inst (s : State) (a b c : Nat) : (s.report a b c).inst = s.inst := rfl
@[simp] theorem State.report_fw (s : State) (a b c : Nat) : (s.report a b c).fw = s.fw := rfl
@[simp] theorem State.report_boot (s : State) (a b c : Nat) : (s.report a b c).boot = s.boot := rfl
@[simp] theorem State.report_spdm (s : State) (a b c : Nat) : (s.report a b c).spdm = s.spdm := rfl
@[simp] theorem State.report_pins (s : State) (a b c : Nat) : (s.report a b c).pins = s.pins := rfl
@[simp] theorem State.report_power (s : State) (a b c : Nat) : (s.report a b c).power = s.power := rfl
@[simp] theorem State.report_tele (s : State) (a b c : Nat) : (s.report a b c).tele = s.tele := rfl
@[simp] theorem State.report_cxl (s : State) (a b c : Nat) : (s.report a b c).cxl = s.cxl := rfl

/-! ## wantRecord -/

@[simp] theorem State.wantRecord_pending (s : State) : (s.wantRecord).pending = s.pending := rfl
@[simp] theorem State.wantRecord_cores (s : State) : (s.wantRecord).cores = s.cores := rfl
@[simp] theorem State.wantRecord_imem (s : State) : (s.wantRecord).imem = s.imem := rfl
@[simp] theorem State.wantRecord_lmem (s : State) : (s.wantRecord).lmem = s.lmem := rfl
@[simp] theorem State.wantRecord_bmem (s : State) : (s.wantRecord).bmem = s.bmem := rfl
@[simp] theorem State.wantRecord_hbm (s : State) : (s.wantRecord).hbm = s.hbm := rfl
@[simp] theorem State.wantRecord_hbmCtl (s : State) : (s.wantRecord).hbmCtl = s.hbmCtl := rfl
@[simp] theorem State.wantRecord_d2d (s : State) : (s.wantRecord).d2d = s.d2d := rfl
@[simp] theorem State.wantRecord_csr (s : State) : (s.wantRecord).csr = s.csr := rfl
@[simp] theorem State.wantRecord_wide (s : State) : (s.wantRecord).wide = s.wide := rfl
@[simp] theorem State.wantRecord_time (s : State) : (s.wantRecord).time = s.time := rfl
@[simp] theorem State.wantRecord_beat (s : State) : (s.wantRecord).beat = s.beat := rfl
@[simp] theorem State.wantRecord_vlog (s : State) : (s.wantRecord).vlog = s.vlog := rfl
@[simp] theorem State.wantRecord_reports (s : State) : (s.wantRecord).reports = s.reports := rfl
@[simp] theorem State.wantRecord_stopped (s : State) : (s.wantRecord).stopped = s.stopped := rfl
@[simp] theorem State.wantRecord_out (s : State) : (s.wantRecord).out = s.out := rfl
@[simp] theorem State.wantRecord_fresh (s : State) : (s.wantRecord).fresh = s.fresh := rfl
@[simp] theorem State.wantRecord_quota (s : State) : (s.wantRecord).quota = s.quota := rfl
@[simp] theorem State.wantRecord_rings (s : State) : (s.wantRecord).rings = s.rings := rfl
@[simp] theorem State.wantRecord_deferred (s : State) : (s.wantRecord).deferred = s.deferred := rfl
@[simp] theorem State.wantRecord_wins (s : State) : (s.wantRecord).wins = s.wins := rfl
@[simp] theorem State.wantRecord_twin (s : State) : (s.wantRecord).twin = s.twin := rfl
@[simp] theorem State.wantRecord_coll (s : State) : (s.wantRecord).coll = s.coll := rfl
@[simp] theorem State.wantRecord_ckpt (s : State) : (s.wantRecord).ckpt = s.ckpt := rfl
@[simp] theorem State.wantRecord_health (s : State) : (s.wantRecord).health = s.health := rfl
@[simp] theorem State.wantRecord_net (s : State) : (s.wantRecord).net = s.net := rfl
@[simp] theorem State.wantRecord_cls (s : State) : (s.wantRecord).cls = s.cls := rfl
@[simp] theorem State.wantRecord_keys (s : State) : (s.wantRecord).keys = s.keys := rfl
@[simp] theorem State.wantRecord_lft (s : State) : (s.wantRecord).lft = s.lft := rfl
@[simp] theorem State.wantRecord_blk (s : State) : (s.wantRecord).blk = s.blk := rfl
@[simp] theorem State.wantRecord_dec (s : State) : (s.wantRecord).dec = s.dec := rfl
@[simp] theorem State.wantRecord_inst (s : State) : (s.wantRecord).inst = s.inst := rfl
@[simp] theorem State.wantRecord_fw (s : State) : (s.wantRecord).fw = s.fw := rfl
@[simp] theorem State.wantRecord_spdm (s : State) : (s.wantRecord).spdm = s.spdm := rfl
@[simp] theorem State.wantRecord_pins (s : State) : (s.wantRecord).pins = s.pins := rfl
@[simp] theorem State.wantRecord_power (s : State) : (s.wantRecord).power = s.power := rfl
@[simp] theorem State.wantRecord_tele (s : State) : (s.wantRecord).tele = s.tele := rfl
@[simp] theorem State.wantRecord_cxl (s : State) : (s.wantRecord).cxl = s.cxl := rfl

/-! ## portBytesAdd -/

@[simp] theorem State.portBytesAdd_pending (s : State) (i n : Nat) : (s.portBytesAdd i n).pending = s.pending := rfl
@[simp] theorem State.portBytesAdd_cores (s : State) (i n : Nat) : (s.portBytesAdd i n).cores = s.cores := rfl
@[simp] theorem State.portBytesAdd_imem (s : State) (i n : Nat) : (s.portBytesAdd i n).imem = s.imem := rfl
@[simp] theorem State.portBytesAdd_lmem (s : State) (i n : Nat) : (s.portBytesAdd i n).lmem = s.lmem := rfl
@[simp] theorem State.portBytesAdd_bmem (s : State) (i n : Nat) : (s.portBytesAdd i n).bmem = s.bmem := rfl
@[simp] theorem State.portBytesAdd_hbm (s : State) (i n : Nat) : (s.portBytesAdd i n).hbm = s.hbm := rfl
@[simp] theorem State.portBytesAdd_hbmCtl (s : State) (i n : Nat) : (s.portBytesAdd i n).hbmCtl = s.hbmCtl := rfl
@[simp] theorem State.portBytesAdd_d2d (s : State) (i n : Nat) : (s.portBytesAdd i n).d2d = s.d2d := rfl
@[simp] theorem State.portBytesAdd_csr (s : State) (i n : Nat) : (s.portBytesAdd i n).csr = s.csr := rfl
@[simp] theorem State.portBytesAdd_wide (s : State) (i n : Nat) : (s.portBytesAdd i n).wide = s.wide := rfl
@[simp] theorem State.portBytesAdd_time (s : State) (i n : Nat) : (s.portBytesAdd i n).time = s.time := rfl
@[simp] theorem State.portBytesAdd_beat (s : State) (i n : Nat) : (s.portBytesAdd i n).beat = s.beat := rfl
@[simp] theorem State.portBytesAdd_vlog (s : State) (i n : Nat) : (s.portBytesAdd i n).vlog = s.vlog := rfl
@[simp] theorem State.portBytesAdd_reports (s : State) (i n : Nat) : (s.portBytesAdd i n).reports = s.reports := rfl
@[simp] theorem State.portBytesAdd_stopped (s : State) (i n : Nat) : (s.portBytesAdd i n).stopped = s.stopped := rfl
@[simp] theorem State.portBytesAdd_out (s : State) (i n : Nat) : (s.portBytesAdd i n).out = s.out := rfl
@[simp] theorem State.portBytesAdd_fresh (s : State) (i n : Nat) : (s.portBytesAdd i n).fresh = s.fresh := rfl
@[simp] theorem State.portBytesAdd_quota (s : State) (i n : Nat) : (s.portBytesAdd i n).quota = s.quota := rfl
@[simp] theorem State.portBytesAdd_rings (s : State) (i n : Nat) : (s.portBytesAdd i n).rings = s.rings := rfl
@[simp] theorem State.portBytesAdd_deferred (s : State) (i n : Nat) : (s.portBytesAdd i n).deferred = s.deferred := rfl
@[simp] theorem State.portBytesAdd_wins (s : State) (i n : Nat) : (s.portBytesAdd i n).wins = s.wins := rfl
@[simp] theorem State.portBytesAdd_twin (s : State) (i n : Nat) : (s.portBytesAdd i n).twin = s.twin := rfl
@[simp] theorem State.portBytesAdd_coll (s : State) (i n : Nat) : (s.portBytesAdd i n).coll = s.coll := rfl
@[simp] theorem State.portBytesAdd_ckpt (s : State) (i n : Nat) : (s.portBytesAdd i n).ckpt = s.ckpt := rfl
@[simp] theorem State.portBytesAdd_health (s : State) (i n : Nat) : (s.portBytesAdd i n).health = s.health := rfl
@[simp] theorem State.portBytesAdd_net (s : State) (i n : Nat) : (s.portBytesAdd i n).net = s.net := rfl
@[simp] theorem State.portBytesAdd_cls (s : State) (i n : Nat) : (s.portBytesAdd i n).cls = s.cls := rfl
@[simp] theorem State.portBytesAdd_keys (s : State) (i n : Nat) : (s.portBytesAdd i n).keys = s.keys := rfl
@[simp] theorem State.portBytesAdd_lft (s : State) (i n : Nat) : (s.portBytesAdd i n).lft = s.lft := rfl
@[simp] theorem State.portBytesAdd_blk (s : State) (i n : Nat) : (s.portBytesAdd i n).blk = s.blk := rfl
@[simp] theorem State.portBytesAdd_dec (s : State) (i n : Nat) : (s.portBytesAdd i n).dec = s.dec := rfl
@[simp] theorem State.portBytesAdd_inst (s : State) (i n : Nat) : (s.portBytesAdd i n).inst = s.inst := rfl
@[simp] theorem State.portBytesAdd_fw (s : State) (i n : Nat) : (s.portBytesAdd i n).fw = s.fw := rfl
@[simp] theorem State.portBytesAdd_boot (s : State) (i n : Nat) : (s.portBytesAdd i n).boot = s.boot := rfl
@[simp] theorem State.portBytesAdd_spdm (s : State) (i n : Nat) : (s.portBytesAdd i n).spdm = s.spdm := rfl
@[simp] theorem State.portBytesAdd_pins (s : State) (i n : Nat) : (s.portBytesAdd i n).pins = s.pins := rfl
@[simp] theorem State.portBytesAdd_power (s : State) (i n : Nat) : (s.portBytesAdd i n).power = s.power := rfl
@[simp] theorem State.portBytesAdd_cxl (s : State) (i n : Nat) : (s.portBytesAdd i n).cxl = s.cxl := rfl

/-! ## Reads over updates -/

@[simp] theorem State.core_setCore_same (s : State) (u : UnitId) (c : Core) : (s.setCore u c).core u = c := by
  simp [State.core, State.setCore]

theorem State.core_setCore_other (s : State) (u v : UnitId) (c : Core) (h : v ≠ u) : (s.setCore u c).core v = s.core v := by
  have hv : u.val ≠ v.val := fun e => h (Fin.ext e.symm)
  simp [State.core, State.setCore, Vector.getElem_set, hv]

@[simp] theorem State.core_modCore_same (s : State) (u : UnitId) (f : Core → Core) : (s.modCore u f).core u = f (s.core u) := by
  simp [State.modCore]

theorem State.core_modCore_other (s : State) (u v : UnitId) (f : Core → Core) (h : v ≠ u) : (s.modCore u f).core v = s.core v :=
  State.core_setCore_other s u v _ h

@[simp] theorem State.setCore_setCore (s : State) (u : UnitId) (c d : Core) : (s.setCore u c).setCore u d = s.setCore u d := by
  simp [State.setCore]

@[simp] theorem State.setCore_core (s : State) (u : UnitId) : s.setCore u (s.core u) = s := by
  simp [State.setCore, State.core]

/-- Two changes of one unit are one change. -/
@[simp] theorem State.modCore_modCore (s : State) (u : UnitId) (f g : Core → Core) : (s.modCore u f).modCore u g = s.modCore u (g ∘ f) := by
  simp [State.modCore]

theorem State.modCore_id (s : State) (u : UnitId) (f : Core → Core) (h : f (s.core u) = s.core u) : s.modCore u f = s := by
  simp [State.modCore, h]


@[simp] theorem State.setFld_core (s : State) (f : Fld) (v : Nat) (w : UnitId) : (s.setFld f v).core w = s.core w := rfl
@[simp] theorem State.incFld_core (s : State) (f : Fld) (n : Nat) (w : UnitId) : (s.incFld f n).core w = s.core w := rfl
@[simp] theorem State.setWord_core (s : State) (k : Nat) (v : Word) (w : UnitId) : (s.setWord k v).core w = s.core w := rfl
@[simp] theorem State.setWord64_core (s : State) (k v : Nat) (w : UnitId) : (s.setWord64 k v).core w = s.core w := rfl
@[simp] theorem State.emit_core (s : State) (e : Emit) (w : UnitId) : (s.emit e).core w = s.core w := rfl
@[simp] theorem State.emits_core (s : State) (es : List Emit) (w : UnitId) : (s.emits es).core w = s.core w := rfl
@[simp] theorem State.advance_core (s : State) (t : Nat) (w : UnitId) : (s.advance t).core w = s.core w := rfl
@[simp] theorem State.tick_core (s : State) (w : UnitId) : (s.tick).core w = s.core w := rfl
@[simp] theorem State.violate_core (s : State) (a b c d e f g : Nat) (w : UnitId) : (s.violate a b c d e f g).core w = s.core w := rfl
@[simp] theorem State.report_core (s : State) (a b c : Nat) (w : UnitId) : (s.report a b c).core w = s.core w := rfl
@[simp] theorem State.wantRecord_core (s : State) (w : UnitId) : (s.wantRecord).core w = s.core w := rfl
@[simp] theorem State.portBytesAdd_core (s : State) (i n : Nat) (w : UnitId) : (s.portBytesAdd i n).core w = s.core w := rfl
@[simp] theorem State.setCore_fld (s : State) (u : UnitId) (c : Core) (w : Fld) : (s.setCore u c).fld w = s.fld w := rfl
@[simp] theorem State.modCore_fld (s : State) (u : UnitId) (f : Core → Core) (w : Fld) : (s.modCore u f).fld w = s.fld w := rfl
@[simp] theorem State.emit_fld (s : State) (e : Emit) (w : Fld) : (s.emit e).fld w = s.fld w := rfl
@[simp] theorem State.emits_fld (s : State) (es : List Emit) (w : Fld) : (s.emits es).fld w = s.fld w := rfl
@[simp] theorem State.advance_fld (s : State) (t : Nat) (w : Fld) : (s.advance t).fld w = s.fld w := rfl
@[simp] theorem State.tick_fld (s : State) (w : Fld) : (s.tick).fld w = s.fld w := rfl
@[simp] theorem State.violate_fld (s : State) (a b c d e f g : Nat) (w : Fld) : (s.violate a b c d e f g).fld w = s.fld w := rfl
@[simp] theorem State.report_fld (s : State) (a b c : Nat) (w : Fld) : (s.report a b c).fld w = s.fld w := rfl
@[simp] theorem State.wantRecord_fld (s : State) (w : Fld) : (s.wantRecord).fld w = s.fld w := rfl
@[simp] theorem State.portBytesAdd_fld (s : State) (i n : Nat) (w : Fld) : (s.portBytesAdd i n).fld w = s.fld w := rfl

/-! ## Register fields -/

/-- The field of a word into which it was just put. -/
theorem bits_putBits_same (x lo w v : Nat) (hv : v < 2 ^ w) : bits (putBits x lo w v) lo w = v := by
  have h1 : x % 2 ^ lo < 2 ^ lo := Nat.mod_lt _ (Nat.two_pow_pos lo)
  unfold bits putBits
  rw [Nat.mod_eq_of_lt hv, Nat.pow_add]
  have e : x % 2 ^ lo + v * 2 ^ lo + x / (2 ^ lo * 2 ^ w) * (2 ^ lo * 2 ^ w) =
      x % 2 ^ lo + 2 ^ lo * (v + 2 ^ w * (x / (2 ^ lo * 2 ^ w))) := by ring
  rw [e, Nat.add_mul_div_left _ _ (Nat.two_pow_pos lo), Nat.div_eq_of_lt h1, Nat.zero_add, Nat.add_mul_mod_self_left,
    Nat.mod_eq_of_lt hv]

theorem putBits_lt (x lo w v n : Nat) (hn : lo + w ≤ n) (hx : x < 2 ^ n) : putBits x lo w v < 2 ^ n := by
  have h1 : x % 2 ^ lo < 2 ^ lo := Nat.mod_lt _ (Nat.two_pow_pos lo)
  have h2 : v % 2 ^ w < 2 ^ w := Nat.mod_lt _ (Nat.two_pow_pos w)
  obtain ⟨k, rfl⟩ := Nat.exists_eq_add_of_le hn
  have h3 : x / 2 ^ (lo + w) < 2 ^ k := by
    rw [Nat.div_lt_iff_lt_mul (Nat.two_pow_pos _), ← Nat.pow_add, Nat.add_comm k]; exact hx
  have h4 : x % 2 ^ lo + v % 2 ^ w * 2 ^ lo < 2 ^ (lo + w) := by
    calc x % 2 ^ lo + v % 2 ^ w * 2 ^ lo < 2 ^ lo + v % 2 ^ w * 2 ^ lo := by omega
      _ = (v % 2 ^ w + 1) * 2 ^ lo := by ring
      _ ≤ 2 ^ w * 2 ^ lo := Nat.mul_le_mul_right _ h2
      _ = 2 ^ (lo + w) := by rw [Nat.pow_add]; ring
  unfold putBits
  calc x % 2 ^ lo + v % 2 ^ w * 2 ^ lo + x / 2 ^ (lo + w) * 2 ^ (lo + w)
      < 2 ^ (lo + w) + x / 2 ^ (lo + w) * 2 ^ (lo + w) := by omega
    _ = (x / 2 ^ (lo + w) + 1) * 2 ^ (lo + w) := by ring
    _ ≤ 2 ^ k * 2 ^ (lo + w) := Nat.mul_le_mul_right _ h3
    _ = 2 ^ (lo + w + k) := by rw [Nat.pow_add 2 (lo + w) k]; ring

/-- A register word just set reads as set. -/
@[simp] theorem Csr.get_set_same (c : Csr) (k : Nat) (v : Word) : (c.set k v).get k = v := SMap.get_set_same resetVal c k v

theorem Csr.get_set_other (c : Csr) (k j : Nat) (v : Word) (h : j ≠ k) : (c.set k v).get j = c.get j :=
  SMap.get_set_other resetVal c k j v h

/-- A field just set reads as set. -/
theorem Csr.fld_setFld_same (c : Csr) (f : Fld) (v : Nat) (hf : f.lo + f.w ≤ 32) (hv : v < 2 ^ f.w) : (c.setFld f v).fld f = v := by
  have h := putBits_lt (c.get f.key).toNat f.lo f.w v 32 hf (c.get f.key).isLt
  simp only [Csr.fld, Csr.setFld, Csr.get_set_same, BitVec.toNat_ofNat, Nat.mod_eq_of_lt h]
  exact bits_putBits_same _ _ _ _ hv

/-- Setting a field leaves the fields of other words as they were. -/
theorem Csr.fld_setFld_other (c : Csr) (f g : Fld) (v : Nat) (h : g.key ≠ f.key) : (c.setFld f v).fld g = c.fld g := by
  simp only [Csr.fld, Csr.setFld, Csr.get_set_other _ _ _ _ h]

/-- Setting a field leaves a field of the same word that shares no bit with it as it was. -/
theorem bits_putBits_other (x lo w v lo' w' : Nat) (h : lo' + w' ≤ lo ∨ lo + w ≤ lo') : bits (putBits x lo w v) lo' w' = bits x lo' w' := by
  have e : putBits x lo w v = x % 2 ^ lo + 2 ^ lo * (v % 2 ^ w + 2 ^ w * (x / 2 ^ (lo + w))) := by
    unfold putBits; rw [Nat.pow_add]; ring
  have e0 : x = x % 2 ^ lo + 2 ^ lo * (x / 2 ^ lo) := (Nat.mod_add_div x (2 ^ lo)).symm
  have hm : x % 2 ^ lo < 2 ^ lo := Nat.mod_lt _ (Nat.two_pow_pos lo)
  rcases h with h | h
  · obtain ⟨k, rfl⟩ := Nat.exists_eq_add_of_le h
    have key : ∀ y : Nat, bits (x % 2 ^ (lo' + w' + k) + 2 ^ (lo' + w' + k) * y) lo' w' = bits (x % 2 ^ (lo' + w' + k)) lo' w' := by
      intro y
      unfold bits
      rw [show 2 ^ (lo' + w' + k) * y = 2 ^ lo' * (2 ^ w' * (2 ^ k * y)) by rw [Nat.pow_add, Nat.pow_add]; ring,
        Nat.add_mul_div_left _ _ (Nat.two_pow_pos lo'), Nat.add_mul_mod_self_left]
    rw [e, key]
    conv_rhs => rw [e0, key]
  · obtain ⟨k, rfl⟩ := Nat.exists_eq_add_of_le h
    unfold bits
    have h1 : putBits x lo w v / 2 ^ (lo + w + k) = x / 2 ^ (lo + w + k) := by
      rw [Nat.pow_add 2 (lo + w) k, ← Nat.div_div_eq_div_mul, ← Nat.div_div_eq_div_mul]
      congr 1
      rw [e, Nat.pow_add 2 lo w, ← Nat.div_div_eq_div_mul, Nat.add_mul_div_left _ _ (Nat.two_pow_pos lo), Nat.div_eq_of_lt hm,
        Nat.zero_add, Nat.add_mul_div_left _ _ (Nat.two_pow_pos w), Nat.div_eq_of_lt (Nat.mod_lt _ (Nat.two_pow_pos w)), Nat.zero_add]
    rw [h1]

/-- Setting a field leaves every field that shares no bit with it as it was. -/
theorem Csr.fld_setFld_apart (c : Csr) (f g : Fld) (v : Nat) (hf : f.lo + f.w ≤ 32)
    (h : g.key ≠ f.key ∨ g.lo + g.w ≤ f.lo ∨ f.lo + f.w ≤ g.lo) : (c.setFld f v).fld g = c.fld g := by
  by_cases hk : g.key = f.key
  · have h' := h.resolve_left (fun n => n hk)
    have hl := putBits_lt (c.get f.key).toNat f.lo f.w v 32 hf (c.get f.key).isLt
    simp only [Csr.fld, Csr.setFld, hk, Csr.get_set_same, BitVec.toNat_ofNat, Nat.mod_eq_of_lt hl]
    exact bits_putBits_other _ _ _ _ _ _ h'
  · exact Csr.fld_setFld_other c f g v hk

theorem State.fld_setFld_same (s : State) (f : Fld) (v : Nat) (hf : f.lo + f.w ≤ 32) (hv : v < 2 ^ f.w) : (s.setFld f v).fld f = v :=
  Csr.fld_setFld_same s.csr f v hf hv

theorem State.fld_setFld_apart (s : State) (f g : Fld) (v : Nat) (hf : f.lo + f.w ≤ 32)
    (h : g.key ≠ f.key ∨ g.lo + g.w ≤ f.lo ∨ f.lo + f.w ≤ g.lo) : (s.setFld f v).fld g = s.fld g :=
  Csr.fld_setFld_apart s.csr f g v hf h

/-- Every register update keeps the canonical form of the register file. -/
theorem Csr.wf_set (c : Csr) (k : Nat) (v : Word) (h : SMap.wf resetVal c = true) : SMap.wf resetVal (c.set k v) = true :=
  SMap.wf_set resetVal c k v h

end Sys2Proof.Machine
end

