-- ==== Sys2Proof/Laws/Core.lean ====
section
/-! SUPPORT. What the operations on one core leave as it was, and what reads over writes of its registers give. -/

namespace Sys2Proof.Machine

/-! ## Registers -/

theorem Core.getG_setG (c : Core) (i j : BitVec 5) (v : Word) : (c.setG i v).getG j = if j = i then v else c.getG j := by
  by_cases h : j = i
  · subst h; simp [Core.getG, Core.setG]
  · have hn : i.toNat ≠ j.toNat := fun e => h (BitVec.eq_of_toNat_eq e.symm)
    simp [Core.getG, Core.setG, Vector.getElem_set, hn, h]

@[simp] theorem Core.getG_setG_same (c : Core) (i : BitVec 5) (v : Word) : (c.setG i v).getG i = v := by
  simp [Core.getG_setG]

theorem Core.getAcc_setAcc (c : Core) (i j : BitVec 3) (v : BitVec 40) : (c.setAcc i v).getAcc j = if j = i then v else c.getAcc j := by
  by_cases h : j = i
  · subst h; simp [Core.getAcc, Core.setAcc]
  · have hn : i.toNat ≠ j.toNat := fun e => h (BitVec.eq_of_toNat_eq e.symm)
    simp [Core.getAcc, Core.setAcc, Vector.getElem_set, hn, h]

/-- A predicate write, p0 discarding it (R74). -/
theorem Core.getP_setP (c : Core) (i j : BitVec 3) (v : Bool) :
    (c.setP i v).getP j = if j = 0 then true else if j = i then v else c.getP j := by
  by_cases hj : j = 0
  · simp only [Core.getP, hj, if_true]
  · by_cases hi : i = 0
    · have hji : j ≠ i := fun e => hj (e.trans hi)
      rw [if_neg hj, if_neg hji, Core.setP, if_pos hi]
    · by_cases h : j = i
      · subst h; simp only [Core.getP, Core.setP, if_neg hj, if_true, Vector.getElem_set_self]
      · have hn : i.toNat ≠ j.toNat := fun e => h (BitVec.eq_of_toNat_eq e.symm)
        simp only [Core.getP, Core.setP, if_neg hj, if_neg hi, if_neg h, Vector.getElem_set, if_neg hn]

/-! ## Small operations, field by field -/

@[simp] theorem Core.setG_acc (c : Core) (i : BitVec 5) (v : Word) : (c.setG i v).regs.acc = c.regs.acc := rfl
@[simp] theorem Core.setG_p (c : Core) (i : BitVec 5) (v : Word) : (c.setG i v).regs.p = c.regs.p := rfl
@[simp] theorem Core.setG_pc (c : Core) (i : BitVec 5) (v : Word) : (c.setG i v).regs.pc = c.regs.pc := rfl
@[simp] theorem Core.setG_past (c : Core) (i : BitVec 5) (v : Word) : (c.setG i v).regs.past = c.regs.past := rfl
@[simp] theorem Core.setG_loops (c : Core) (i : BitVec 5) (v : Word) : (c.setG i v).loops = c.loops := rfl
@[simp] theorem Core.setG_ctl (c : Core) (i : BitVec 5) (v : Word) : (c.setG i v).ctl = c.ctl := rfl
@[simp] theorem Core.setG_run (c : Core) (i : BitVec 5) (v : Word) : (c.setG i v).run = c.run := rfl
@[simp] theorem Core.setG_cnt (c : Core) (i : BitVec 5) (v : Word) : (c.setG i v).cnt = c.cnt := rfl
@[simp] theorem Core.setG_ports (c : Core) (i : BitVec 5) (v : Word) : (c.setG i v).ports = c.ports := rfl

@[simp] theorem Core.setAcc_g (c : Core) (i : BitVec 3) (v : BitVec 40) : (c.setAcc i v).regs.g = c.regs.g := rfl
@[simp] theorem Core.setAcc_p (c : Core) (i : BitVec 3) (v : BitVec 40) : (c.setAcc i v).regs.p = c.regs.p := rfl
@[simp] theorem Core.setAcc_pc (c : Core) (i : BitVec 3) (v : BitVec 40) : (c.setAcc i v).regs.pc = c.regs.pc := rfl
@[simp] theorem Core.setAcc_loops (c : Core) (i : BitVec 3) (v : BitVec 40) : (c.setAcc i v).loops = c.loops := rfl
@[simp] theorem Core.setAcc_ctl (c : Core) (i : BitVec 3) (v : BitVec 40) : (c.setAcc i v).ctl = c.ctl := rfl
@[simp] theorem Core.setAcc_run (c : Core) (i : BitVec 3) (v : BitVec 40) : (c.setAcc i v).run = c.run := rfl
@[simp] theorem Core.setAcc_ports (c : Core) (i : BitVec 3) (v : BitVec 40) : (c.setAcc i v).ports = c.ports := rfl
@[simp] theorem Core.getG_setAcc (c : Core) (i : BitVec 3) (v : BitVec 40) (j : BitVec 5) : (c.setAcc i v).getG j = c.getG j := rfl
@[simp] theorem Core.getAcc_setG (c : Core) (i : BitVec 5) (v : Word) (j : BitVec 3) : (c.setG i v).getAcc j = c.getAcc j := rfl
@[simp] theorem Core.getP_setG (c : Core) (i : BitVec 5) (v : Word) (j : BitVec 3) : (c.setG i v).getP j = c.getP j := rfl

@[simp] theorem Core.setP_g (c : Core) (i : BitVec 3) (v : Bool) : (c.setP i v).regs.g = c.regs.g := by unfold Core.setP; split <;> rfl
@[simp] theorem Core.setP_acc (c : Core) (i : BitVec 3) (v : Bool) : (c.setP i v).regs.acc = c.regs.acc := by unfold Core.setP; split <;> rfl
@[simp] theorem Core.setP_pc (c : Core) (i : BitVec 3) (v : Bool) : (c.setP i v).regs.pc = c.regs.pc := by unfold Core.setP; split <;> rfl
@[simp] theorem Core.setP_loops (c : Core) (i : BitVec 3) (v : Bool) : (c.setP i v).loops = c.loops := by unfold Core.setP; split <;> rfl
@[simp] theorem Core.setP_ctl (c : Core) (i : BitVec 3) (v : Bool) : (c.setP i v).ctl = c.ctl := by unfold Core.setP; split <;> rfl
@[simp] theorem Core.setP_run (c : Core) (i : BitVec 3) (v : Bool) : (c.setP i v).run = c.run := by unfold Core.setP; split <;> rfl
@[simp] theorem Core.setP_ports (c : Core) (i : BitVec 3) (v : Bool) : (c.setP i v).ports = c.ports := by unfold Core.setP; split <;> rfl
@[simp] theorem Core.getG_setP (c : Core) (i : BitVec 3) (v : Bool) (j : BitVec 5) : (c.setP i v).getG j = c.getG j := by
  unfold Core.setP; split <;> rfl

/-- Counting changes the counters alone. -/
@[simp] theorem Core.count_regs (c : Core) (e n : Nat) : (c.count e n).regs = c.regs := rfl
@[simp] theorem Core.count_loops (c : Core) (e n : Nat) : (c.count e n).loops = c.loops := rfl
@[simp] theorem Core.count_ctl (c : Core) (e n : Nat) : (c.count e n).ctl = c.ctl := rfl
@[simp] theorem Core.count_run (c : Core) (e n : Nat) : (c.count e n).run = c.run := rfl
@[simp] theorem Core.count_ports (c : Core) (e n : Nat) : (c.count e n).ports = c.ports := rfl
@[simp] theorem Core.getG_count (c : Core) (e n : Nat) (i : BitVec 5) : (c.count e n).getG i = c.getG i := rfl
@[simp] theorem Core.getAcc_count (c : Core) (e n : Nat) (i : BitVec 3) : (c.count e n).getAcc i = c.getAcc i := rfl
@[simp] theorem Core.getP_count (c : Core) (e n : Nat) (i : BitVec 3) : (c.count e n).getP i = c.getP i := rfl

/-- Charging changes the counters alone. -/
@[simp] theorem Core.charge_regs (c : Core) (a b m : Nat) (sl : Slots) : (c.charge a b m sl).regs = c.regs := by
  unfold Core.charge; dsimp only; split <;> simp only [Core.count_regs]
@[simp] theorem Core.charge_loops (c : Core) (a b m : Nat) (sl : Slots) : (c.charge a b m sl).loops = c.loops := by
  unfold Core.charge; dsimp only; split <;> simp only [Core.count_loops]
@[simp] theorem Core.charge_ctl (c : Core) (a b m : Nat) (sl : Slots) : (c.charge a b m sl).ctl = c.ctl := by
  unfold Core.charge; dsimp only; split <;> simp only [Core.count_ctl]
@[simp] theorem Core.charge_run (c : Core) (a b m : Nat) (sl : Slots) : (c.charge a b m sl).run = c.run := by
  unfold Core.charge; dsimp only; split <;> simp only [Core.count_run]
@[simp] theorem Core.charge_ports (c : Core) (a b m : Nat) (sl : Slots) : (c.charge a b m sl).ports = c.ports := by
  unfold Core.charge; dsimp only; split <;> simp only [Core.count_ports]
@[simp] theorem Core.chargeExc_regs (c : Core) : c.chargeExc.regs = c.regs := by simp only [Core.chargeExc, Core.count_regs]
@[simp] theorem Core.chargeExc_loops (c : Core) : c.chargeExc.loops = c.loops := by simp only [Core.chargeExc, Core.count_loops]
@[simp] theorem Core.chargeExc_ctl (c : Core) : c.chargeExc.ctl = c.ctl := by simp only [Core.chargeExc, Core.count_ctl]
@[simp] theorem Core.chargeExc_run (c : Core) : c.chargeExc.run = c.run := by simp only [Core.chargeExc, Core.count_run]
@[simp] theorem Core.chargeExc_ports (c : Core) : c.chargeExc.ports = c.ports := by simp only [Core.chargeExc, Core.count_ports]
@[simp] theorem Core.chargeIo_regs (c : Core) (n : Nat) : (c.chargeIo n).regs = c.regs := by simp only [Core.chargeIo, Core.count_regs]
@[simp] theorem Core.chargeIo_loops (c : Core) (n : Nat) : (c.chargeIo n).loops = c.loops := by simp only [Core.chargeIo, Core.count_loops]
@[simp] theorem Core.chargeIo_ctl (c : Core) (n : Nat) : (c.chargeIo n).ctl = c.ctl := by simp only [Core.chargeIo, Core.count_ctl]
@[simp] theorem Core.chargeIo_run (c : Core) (n : Nat) : (c.chargeIo n).run = c.run := by simp only [Core.chargeIo, Core.count_run]
@[simp] theorem Core.chargeIo_ports (c : Core) (n : Nat) : (c.chargeIo n).ports = c.ports := by simp only [Core.chargeIo, Core.count_ports]

/-! ## Flags -/

@[simp] theorem Core.setFlag_regs (c : Core) (i : Nat) : (c.setFlag i).regs = c.regs := rfl
@[simp] theorem Core.setFlag_loops (c : Core) (i : Nat) : (c.setFlag i).loops = c.loops := rfl
@[simp] theorem Core.setFlag_ctl (c : Core) (i : Nat) :
    (c.setFlag i).ctl = { c.ctl with status := c.ctl.status ||| BitVec.ofNat 32 (2 ^ i) } := rfl
@[simp] theorem Core.setFlag_run (c : Core) (i : Nat) : (c.setFlag i).run = c.run := rfl
@[simp] theorem Core.setFlag_ports (c : Core) (i : Nat) : (c.setFlag i).ports = c.ports := rfl
@[simp] theorem Core.flagIf_regs (c : Core) (i : Nat) (b : Bool) : (c.flagIf i b).regs = c.regs := by unfold Core.flagIf; split <;> rfl
@[simp] theorem Core.flagIf_loops (c : Core) (i : Nat) (b : Bool) : (c.flagIf i b).loops = c.loops := by unfold Core.flagIf; split <;> rfl
@[simp] theorem Core.flagIf_run (c : Core) (i : Nat) (b : Bool) : (c.flagIf i b).run = c.run := by unfold Core.flagIf; split <;> rfl
@[simp] theorem Core.flagIf_ports (c : Core) (i : Nat) (b : Bool) : (c.flagIf i b).ports = c.ports := by unfold Core.flagIf; split <;> rfl
theorem Core.flagIf_ctl (c : Core) (i : Nat) (b : Bool) :
    (c.flagIf i b).ctl = { c.ctl with status := c.ctl.status ||| if b then BitVec.ofNat 32 (2 ^ i) else 0 } := by
  unfold Core.flagIf; split <;> simp_all

/-- The sticky bits a signed result sets (R79 to R81). -/
def satBits (w : Nat) (sat : Bool) (v : Int) : Word := if fits w v then 0 else if sat then 1#32 else 2#32

@[simp] theorem Core.satFlag_regs (c : Core) (w : Nat) (b : Bool) (v : Int) : (c.satFlag w b v).regs = c.regs := by
  unfold Core.satFlag; split <;> (try split) <;> rfl
@[simp] theorem Core.satFlag_loops (c : Core) (w : Nat) (b : Bool) (v : Int) : (c.satFlag w b v).loops = c.loops := by
  unfold Core.satFlag; split <;> (try split) <;> rfl
@[simp] theorem Core.satFlag_run (c : Core) (w : Nat) (b : Bool) (v : Int) : (c.satFlag w b v).run = c.run := by
  unfold Core.satFlag; split <;> (try split) <;> rfl
@[simp] theorem Core.satFlag_ports (c : Core) (w : Nat) (b : Bool) (v : Int) : (c.satFlag w b v).ports = c.ports := by
  unfold Core.satFlag; split <;> (try split) <;> rfl
theorem Core.satFlag_ctl (c : Core) (w : Nat) (b : Bool) (v : Int) :
    (c.satFlag w b v).ctl = { c.ctl with status := c.ctl.status ||| satBits w b v } := by
  unfold Core.satFlag satBits; split <;> (try split) <;> simp [*]

/-- Drawing advances KS_CTR alone, and only under RKS (R85, R86). -/
@[simp] theorem Core.drawn_regs (c : Core) (rm : Nat) : (c.drawn rm).regs = c.regs := by unfold Core.drawn; split <;> rfl
@[simp] theorem Core.drawn_loops (c : Core) (rm : Nat) : (c.drawn rm).loops = c.loops := by unfold Core.drawn; split <;> rfl
@[simp] theorem Core.drawn_run (c : Core) (rm : Nat) : (c.drawn rm).run = c.run := by unfold Core.drawn; split <;> rfl
@[simp] theorem Core.drawn_ports (c : Core) (rm : Nat) : (c.drawn rm).ports = c.ports := by unfold Core.drawn; split <;> rfl
theorem Core.drawn_ctl (c : Core) (rm : Nat) :
    (c.drawn rm).ctl = { c.ctl with ksCtr := c.ctl.ksCtr + if rm = 4 then 1 else 0 } := by
  unfold Core.drawn; split <;> simp_all

/-! ## Going on -/

@[simp] theorem Core.endCheck_g (c : Core) (l : List (BitVec 16)) : (c.endCheck l).1.regs = c.regs := by
  unfold Core.endCheck; dsimp only; split <;> rfl
@[simp] theorem Core.endCheck_ctl (c : Core) (l : List (BitVec 16)) : (c.endCheck l).1.ctl = c.ctl := by
  unfold Core.endCheck; dsimp only; split <;> rfl
@[simp] theorem Core.endCheck_run (c : Core) (l : List (BitVec 16)) : (c.endCheck l).1.run = c.run := by
  unfold Core.endCheck; dsimp only; split <;> rfl
@[simp] theorem Core.endCheck_ports (c : Core) (l : List (BitVec 16)) : (c.endCheck l).1.ports = c.ports := by
  unfold Core.endCheck; dsimp only; split <;> rfl
@[simp] theorem Core.endCheck_ls (c : Core) (l : List (BitVec 16)) : (c.endCheck l).1.loops.ls = c.loops.ls := by
  unfold Core.endCheck; dsimp only; split <;> rfl
@[simp] theorem Core.endCheck_le (c : Core) (l : List (BitVec 16)) : (c.endCheck l).1.loops.le = c.loops.le := by
  unfold Core.endCheck; dsimp only; split <;> rfl
@[simp] theorem Core.endCheck_lc (c : Core) (l : List (BitVec 16)) : (c.endCheck l).1.loops.lc = c.loops.lc := by
  unfold Core.endCheck; dsimp only; split <;> rfl

/-- The end check only removes levels, or counts the innermost one down. -/
theorem endCheck_active_length (l : List (BitVec 16)) (x : Bool) (a : List LoopLevel) :
    (endCheck l x a).active.length ≤ a.length := by
  induction a with
  | nil => simp [endCheck]
  | cons q t ih =>
    unfold endCheck
    split
    · exact le_refl _
    · split
      · simp
      · exact ih.trans (Nat.le_succ _)

/-- Falling through or following a loop-back changes PC alone. -/
theorem Core.follow_eq (p : Core × Option (BitVec 16)) (a : BitVec 16) :
    Core.follow p a = { p.1 with regs.pc := (Core.follow p a).regs.pc, regs.past := (Core.follow p a).regs.past } := by
  unfold Core.follow; split <;> rfl
@[simp] theorem Core.follow_g (p : Core × Option (BitVec 16)) (a : BitVec 16) : (Core.follow p a).regs.g = p.1.regs.g := by rw [Core.follow_eq]
@[simp] theorem Core.follow_acc (p : Core × Option (BitVec 16)) (a : BitVec 16) : (Core.follow p a).regs.acc = p.1.regs.acc := by rw [Core.follow_eq]
@[simp] theorem Core.follow_p (p : Core × Option (BitVec 16)) (a : BitVec 16) : (Core.follow p a).regs.p = p.1.regs.p := by rw [Core.follow_eq]
@[simp] theorem Core.follow_loops (p : Core × Option (BitVec 16)) (a : BitVec 16) : (Core.follow p a).loops = p.1.loops := by rw [Core.follow_eq]
@[simp] theorem Core.follow_ctl (p : Core × Option (BitVec 16)) (a : BitVec 16) : (Core.follow p a).ctl = p.1.ctl := by rw [Core.follow_eq]
@[simp] theorem Core.follow_run (p : Core × Option (BitVec 16)) (a : BitVec 16) : (Core.follow p a).run = p.1.run := by rw [Core.follow_eq]
@[simp] theorem Core.follow_ports (p : Core × Option (BitVec 16)) (a : BitVec 16) : (Core.follow p a).ports = p.1.ports := by rw [Core.follow_eq]

end Sys2Proof.Machine
end

