-- ==== Sys2Proof/Laws/Issue.lean ====
section
/-! SUPPORT. What the issue of an instruction does: the cases of `State.issueWith`, and all that an instruction whose body changes only its
core can change. -/

namespace Sys2Proof.Machine

theorem CoresOnly.refl (s : State) : CoresOnly s s := rfl
theorem CoresOnly.trans {s t r : State} (h : CoresOnly s t) (k : CoresOnly t r) : CoresOnly s r := by
  unfold CoresOnly at *; rw [k, h]
theorem CoresOnly.modCore (s : State) (u : UnitId) (f : Core → Core) : CoresOnly s (s.modCore u f) := rfl
theorem CoresOnly.tick (s : State) : CoresOnly s s.tick := rfl

theorem UnitOnly.refl (u : UnitId) (s : State) : UnitOnly u s s := ⟨rfl, fun _ _ => rfl⟩
theorem UnitOnly.trans {u : UnitId} {s t r : State} (h : UnitOnly u s t) (k : UnitOnly u t r) : UnitOnly u s r :=
  ⟨h.1.trans k.1, fun v hv => (k.2 v hv).trans (h.2 v hv)⟩
theorem UnitOnly.modCore (s : State) (u : UnitId) (f : Core → Core) : UnitOnly u s (s.modCore u f) :=
  ⟨rfl, fun v hv => State.core_modCore_other s u v f hv⟩
theorem UnitOnly.tick (u : UnitId) (s : State) : UnitOnly u s s.tick := ⟨rfl, fun _ _ => rfl⟩

/-! ## The cases of an issue -/

theorem State.fetchAt_ready {s : State} {u : UnitId} (h : s.Ready u) : s.fetchAt u (s.core u).regs.pc = (s, false) := by
  obtain ⟨-, -, h1, h2⟩ := h
  simp only [State.fetchAt, h1, h2, Bool.false_eq_true, if_false]

theorem decodeFault_legal {pc : BitVec 16} {op : CoreOp} (h : opLegal pc op = true) : decodeFault pc op = none := by
  simp only [decodeFault, h, if_true]

/-- A ready unit issues a legal operation: what it does is what `attempt` settles. -/
theorem State.issueWith_ready {s : State} {u : UnitId} (x : Issue) {op : CoreOp} (body : State → BodyOut) (h : s.Ready u)
    (hl : opLegal (s.core u).regs.pc op = true) : s.issueWith u x op body = s.settle u x op (s.attempt u x op body) := by
  have hr : ¬(s.core u).run.state ≠ .running := not_not.mpr h.1
  simp only [State.issueWith, if_neg hr, h.2.1, State.fetchAt_ready h, Bool.false_eq_true, if_false, decodeFault_legal hl]

/-- An operation that executes and has acted. -/
theorem State.issueWith_ok {s t : State} {u : UnitId} {x : Issue} {op : CoreOp} {body : State → BodyOut} {f : Flow} (h : s.Ready u)
    (hl : opLegal (s.core u).regs.pc op = true) (hg : (s.core u).guard x = true) (hb : body s = .ok t f) :
    s.issueWith u x op body = (t.retire u x.residue op f).finish u (s.core u).regs.pc f := by
  rw [State.issueWith_ready x body h hl]
  simp only [State.attempt, hg, if_true, hb, State.settle]

/-- An operation that raises an exception. -/
theorem State.issueWith_exc {s : State} {u : UnitId} {x : Issue} {op : CoreOp} {body : State → BodyOut} {k : Cause} {bad : Option Word}
    {second : Bool} (h : s.Ready u) (hl : opLegal (s.core u).regs.pc op = true) (hg : (s.core u).guard x = true)
    (hb : body s = .exc k bad second) :
    s.issueWith u x op body = s.raise u k (s.core u).regs.pc bad ⟨opIsPair op, second, false⟩ (opWidth op) := by
  rw [State.issueWith_ready x body h hl]
  simp only [State.attempt, hg, if_true, hb, State.settle]

/-- An operation on a port that is not ready. -/
theorem State.issueWith_wait {s : State} {u : UnitId} {x : Issue} {op : CoreOp} {body : State → BodyOut} (h : s.Ready u)
    (hl : opLegal (s.core u).regs.pc op = true) (hg : (s.core u).guard x = true) (hb : body s = .wait) :
    s.issueWith u x op body = s.waitOn u x op none := by
  rw [State.issueWith_ready x body h hl]
  simp only [State.attempt, hg, if_true, hb, State.settle]

/-- An operation whose guard does not hold (R89, R130). -/
theorem State.issueWith_skip {s : State} {u : UnitId} {x : Issue} {op : CoreOp} {body : State → BodyOut} (h : s.Ready u)
    (hl : opLegal (s.core u).regs.pc op = true) (hg : (s.core u).guard x = false) :
    s.issueWith u x op body = (s.skip u).finish u (s.core u).regs.pc .seq := by
  rw [State.issueWith_ready x body h hl]
  simp only [State.attempt, hg, Bool.false_eq_true, if_false, State.settle]

/-- An operation that meets ILLEGAL raises it whether or not its guard holds (R91). -/
theorem State.issueWith_illegal {s : State} {u : UnitId} (x : Issue) {op : CoreOp} (body : State → BodyOut) {second : Bool} (h : s.Ready u)
    (hl : decodeFault (s.core u).regs.pc op = some second) :
    s.issueWith u x op body = s.raise u .illegal (s.core u).regs.pc none ⟨opIsPair op, second, false⟩ 4 := by
  have hr : ¬(s.core u).run.state ≠ .running := not_not.mpr h.1
  simp only [State.issueWith, if_neg hr, h.2.1, State.fetchAt_ready h, Bool.false_eq_true, if_false, hl]

/-! ## Completion -/

theorem State.stepEnd_unitOnly (s : State) (u : UnitId) : UnitOnly u s (s.stepEnd u) := by
  unfold State.stepEnd; dsimp only
  split
  · exact ⟨rfl, fun v hv => State.core_setCore_other s u v _ hv⟩
  · exact UnitOnly.refl u s

theorem State.stepEnd_core (s : State) (u : UnitId) :
    (s.stepEnd u).core u = if (s.core u).run.stepping && (s.core u).run.state == .running then (s.core u).halted .step else s.core u := by
  unfold State.stepEnd; dsimp only
  split
  · exact State.core_setCore_same _ _ _
  · rfl

@[simp] theorem State.stepEnd_regs (s : State) (u : UnitId) : ((s.stepEnd u).core u).regs = (s.core u).regs := by
  rw [State.stepEnd_core]; split <;> rfl
@[simp] theorem State.stepEnd_ctl (s : State) (u : UnitId) : ((s.stepEnd u).core u).ctl = (s.core u).ctl := by
  rw [State.stepEnd_core]; split <;> rfl
@[simp] theorem State.stepEnd_loops (s : State) (u : UnitId) : ((s.stepEnd u).core u).loops = (s.core u).loops := by
  rw [State.stepEnd_core]; split <;> rfl
@[simp] theorem State.stepEnd_ports (s : State) (u : UnitId) : ((s.stepEnd u).core u).ports = (s.core u).ports := by
  rw [State.stepEnd_core]; split <;> rfl
theorem State.stepEnd_run (s : State) (u : UnitId) (h : (s.core u).run.stepping = false) :
    ((s.stepEnd u).core u).run = (s.core u).run := by
  rw [State.stepEnd_core, h]; rfl

/-- Charging an instruction changes the unit's counters and takes a free value. -/
theorem State.chargeFree_unitOnly (s : State) (u : UnitId) (n : Nat) (sl : Slots) : UnitOnly u s (s.chargeFree u n sl) :=
  (UnitOnly.modCore s u _).trans (UnitOnly.tick u _)

@[simp] theorem State.chargeFree_core (s : State) (u : UnitId) (n : Nat) (sl : Slots) :
    (s.chargeFree u n sl).core u = (s.core u).charge n (Config.stallDep s.fresh) (Config.stallMem s.fresh) sl := by
  simp [State.chargeFree]

/-- The accounting of an executed instruction whose residue check passes. -/
theorem State.retire_passes {s : State} {u : UnitId} {r : Bool} {op : CoreOp} {f : Flow} (hs : s.gone u = false)
    (hr : (r && opArith op) = false) :
    s.retire u r op f = (s.modCore u fun c => (c.count 0x02 1).count 0x04 (livePips op)).chargeFree u (flowCost (jumpCost op) f) (opSlots op) := by
  simp only [State.retire, hs, hr, Bool.false_eq_true, if_false]

theorem State.retire_unitOnly {s : State} {u : UnitId} {r : Bool} {op : CoreOp} {f : Flow} (hs : s.gone u = false)
    (hr : (r && opArith op) = false) : UnitOnly u s (s.retire u r op f) := by
  rw [State.retire_passes hs hr]
  exact (UnitOnly.modCore s u _).trans (State.chargeFree_unitOnly _ u _ _)

/-- The accounting of an instruction changes its core's counters alone. -/
theorem State.retire_core {s : State} {u : UnitId} {r : Bool} {op : CoreOp} {f : Flow} (hs : s.gone u = false)
    (hr : (r && opArith op) = false) :
    ((s.retire u r op f).core u).regs = (s.core u).regs ∧ ((s.retire u r op f).core u).loops = (s.core u).loops ∧
    ((s.retire u r op f).core u).ctl = (s.core u).ctl ∧ ((s.retire u r op f).core u).run = (s.core u).run ∧
    ((s.retire u r op f).core u).ports = (s.core u).ports := by
  rw [State.retire_passes hs hr]; simp

/-- The completion of an instruction that falls through: the end check, then PC; a stepped unit halts. -/
theorem State.finish_seq {s : State} {u : UnitId} (pc : BitVec 16) (hs : s.gone u = false) :
    s.finish u pc .seq =
      (s.modCore u fun c => Core.follow (c.endCheck (c.checked pc)) pc).stepEnd u := by
  simp only [State.finish, hs, Bool.false_eq_true, if_false, reduceCtorEq, false_and, Core.complete]

/-- What an instruction whose body changes only its core leaves, and what its completion adds: the registers, accumulators, predicates and
control registers are those the body wrote; the loop registers and the queues stand; nothing outside the unit changes. -/
theorem State.complete_pure {s : State} {u : UnitId} {r : Bool} {op : CoreOp} (g : Core → Core) (hrun : (g (s.core u)).run = (s.core u).run)
    (hst : (s.core u).run.state = .running) (hr : (r && opArith op) = false) (pc : BitVec 16) :
    let t := ((s.modCore u g).retire u r op .seq).finish u pc .seq
    let c := g (s.core u)
    UnitOnly u s t ∧ (t.core u).regs.g = c.regs.g ∧ (t.core u).regs.acc = c.regs.acc ∧ (t.core u).regs.p = c.regs.p ∧
    (t.core u).ctl = c.ctl ∧ (t.core u).loops.ls = c.loops.ls ∧ (t.core u).loops.le = c.loops.le ∧ (t.core u).loops.lc = c.loops.lc ∧
    (t.core u).ports = c.ports ∧ ((s.core u).run.stepping = false → (t.core u).run = (s.core u).run) := by
  have hg : (s.modCore u g).gone u = false := by simp [State.gone, hrun, hst]
  obtain ⟨e1, e2, e3, e4, e5⟩ := State.retire_core (f := .seq) hg hr
  have hU := (UnitOnly.modCore s u g).trans (State.retire_unitOnly (f := .seq) hg hr)
  simp only [State.core_modCore_same] at e1 e2 e3 e4 e5
  have hg' : ((s.modCore u g).retire u r op .seq).gone u = false := by simp [State.gone, e4, hrun, hst]
  intro t c
  have ht : t = _ := State.finish_seq pc hg'
  rw [ht]
  refine ⟨hU.trans ((UnitOnly.modCore _ u _).trans (State.stepEnd_unitOnly _ u)), ?_⟩
  simp only [State.stepEnd_regs, State.stepEnd_ctl, State.stepEnd_loops, State.stepEnd_ports, State.core_modCore_same, Core.follow_g,
    Core.follow_acc, Core.follow_p, Core.follow_ctl, Core.follow_loops, Core.follow_ports, Core.endCheck_g, Core.endCheck_ctl,
    Core.endCheck_ls, Core.endCheck_le, Core.endCheck_lc, Core.endCheck_ports, e1, e2, e3, e5]
  refine ⟨rfl, rfl, rfl, rfl, rfl, rfl, rfl, rfl, fun hstep => ?_⟩
  have e6 : (((((s.modCore u g).retire u r op .seq).modCore u fun c => Core.follow (c.endCheck (c.checked pc)) pc)).core u).run =
      (s.core u).run := by
    simp only [State.core_modCore_same, Core.follow_run, Core.endCheck_run, e4, hrun]
  rw [State.stepEnd_run _ _ (by rw [e6]; exact hstep), e6]

/-- A ready unit executes an operation whose body changes only its core. -/
theorem State.issue_pure {s : State} {u : UnitId} {x : Issue} {op : CoreOp} (g : Core → Core) (h : s.Ready u)
    (hl : opLegal (s.core u).regs.pc op = true) (hg : (s.core u).guard x = true) (hr : (x.residue && opArith op) = false)
    (hrun : (g (s.core u)).run = (s.core u).run) :
    let t := s.issueWith u x op (pureBody u g)
    let c := g (s.core u)
    UnitOnly u s t ∧ (t.core u).regs.g = c.regs.g ∧ (t.core u).regs.acc = c.regs.acc ∧ (t.core u).regs.p = c.regs.p ∧
    (t.core u).ctl = c.ctl ∧ (t.core u).loops.ls = c.loops.ls ∧ (t.core u).loops.le = c.loops.le ∧ (t.core u).loops.lc = c.loops.lc ∧
    (t.core u).ports = c.ports ∧ ((s.core u).run.stepping = false → (t.core u).run = (s.core u).run) := by
  rw [State.issueWith_ok h hl hg (rfl : pureBody u g s = .ok (s.modCore u g) .seq)]
  exact State.complete_pure g hrun h.1 hr _

/-- With no loop active the end check does nothing, and the core falls through. -/
theorem Core.follow_endCheck_nil (c : Core) (l : List (BitVec 16)) (pc : BitVec 16) (h : c.loops.active = []) :
    (Core.follow (c.endCheck l) pc).loops.active = [] ∧ (Core.follow (c.endCheck l) pc).regs.pc = (pc + 4) &&& 0xFFFC#16 ∧
    (Core.follow (c.endCheck l) pc).regs.past = (pc == 0xFFFC#16) := by
  simp [Core.endCheck, h, Machine.endCheck, Core.follow, Core.fallThrough]

theorem Core.getG_of_g {c d : Core} (h : c.regs.g = d.regs.g) : c.getG = d.getG := by
  funext i; simp [Core.getG, h]
theorem Core.getAcc_of_acc {c d : Core} (h : c.regs.acc = d.regs.acc) : c.getAcc = d.getAcc := by
  funext i; simp [Core.getAcc, h]
theorem Core.getP_of_p {c d : Core} (h : c.regs.p = d.regs.p) : c.getP = d.getP := by
  funext i; simp [Core.getP, h]

/-- Where a completed operation that changed only its core leaves PC, with no loop active. -/
theorem State.complete_pc {s : State} {u : UnitId} {r : Bool} {op : CoreOp} (hst : (s.core u).run.state = .running)
    (hr : (r && opArith op) = false) (pc : BitVec 16) (ha : (s.core u).loops.active = []) :
    let t := (s.retire u r op .seq).finish u pc .seq
    (t.core u).loops.active = [] ∧ (t.core u).regs.pc = (pc + 4) &&& 0xFFFC#16 ∧ (t.core u).regs.past = (pc == 0xFFFC#16) := by
  have hg : s.gone u = false := by simp [State.gone, hst]
  obtain ⟨-, e2, -, e4, -⟩ := State.retire_core (f := .seq) hg hr
  have hg' : (s.retire u r op .seq).gone u = false := by simp [State.gone, e4, hst]
  intro t
  have ht : t = _ := State.finish_seq pc hg'
  rw [ht, State.stepEnd_loops, State.stepEnd_regs, State.core_modCore_same]
  exact Core.follow_endCheck_nil _ _ _ (by rw [e2]; exact ha)

/-- All that a ready unit does with an operation whose body changes only registers, predicates and control registers of its core. -/
theorem State.issue_now {s : State} {u : UnitId} {x : Issue} {op : CoreOp} (g : Core → Core) (h : s.Issues u x op)
    (hrun : (g (s.core u)).run = (s.core u).run) (hl : (g (s.core u)).loops = (s.core u).loops)
    (hp : (g (s.core u)).ports = (s.core u).ports) :
    let t := s.issueWith u x op (pureBody u g)
    let c := g (s.core u)
    UnitOnly u s t ∧ Core.Now (s.core u) (t.core u) c.getG c.getAcc c.getP c.ctl := by
  have hr : (x.residue && opArith op) = false := by simp [h.clean]
  obtain ⟨a1, a2, a3, a4, a5, a6, a7, a8, a9, a10⟩ := State.issue_pure g h.ready h.legal h.guard hr hrun
  refine ⟨a1, fun i => congrFun (Core.getG_of_g a2) i, fun i => congrFun (Core.getAcc_of_acc a3) i,
    fun i => congrFun (Core.getP_of_p a4) i, a5, a6.trans (by rw [hl]), a7.trans (by rw [hl]), a8.trans (by rw [hl]), a9.trans hp, a10, fun ha => ?_⟩
  rw [State.issueWith_ok h.ready h.legal h.guard (rfl : pureBody u g s = .ok (s.modCore u g) .seq)]
  have := State.complete_pc (s := s.modCore u g) (u := u) (r := x.residue) (op := op)
    (by simp [hrun, h.ready.1]) hr (s.core u).regs.pc (by simp [hl, ha])
  exact this

/-- All that follows the body of an operation that has acted and falls through: beside its accounting, only PC and the active loops. -/
theorem State.issue_seq {s : State} {u : UnitId} {x : Issue} {op : CoreOp} {t : State} (body : State → BodyOut) (h : s.Issues u x op) (hb : body s = .ok t .seq)
   (hl : (t.core u).loops = (s.core u).loops) (hrun : (t.core u).run = (s.core u).run) (hp : (t.core u).ports = (s.core u).ports) :
   let r := s.issueWith u x op body
   UnitOnly u t r ∧ Core.Now (s.core u) (r.core u) (t.core u).getG (t.core u).getAcc (t.core u).getP (t.core u).ctl := by
  have hr : (x.residue && opArith op) = false := by simp [h.clean]
  rw [State.issueWith_ok h.ready h.legal h.guard hb]
  have e := State.complete_pure (s := t) (u := u) (r := x.residue) (op := op) id rfl (by rw [hrun, h.ready.1]) hr (s.core u).regs.pc
  have hid : t.modCore u id = t := by unfold State.modCore State.setCore State.core; simp
  rw [hid] at e
  obtain ⟨a1, a2, a3, a4, a5, a6, a7, a8, a9, a10⟩ := e
  refine ⟨a1, fun i => congrFun (Core.getG_of_g a2) i, fun i => congrFun (Core.getAcc_of_acc a3) i,
    fun i => congrFun (Core.getP_of_p a4) i, a5, a6.trans (by simp [hl]), a7.trans (by simp [hl]), a8.trans (by simp [hl]), a9.trans (by simp [hp]), fun hh => (a10 (by rw [hrun]; exact hh)).trans hrun, fun ha => ?_⟩
  have := State.complete_pc (s := t) (u := u) (r := x.residue) (op := op) (by rw [hrun, h.ready.1]) hr (s.core u).regs.pc (by rw [hl, ha])
  exact this

end Sys2Proof.Machine
end

