-- ==== Sys2Proof/Laws/Access.lean ====
section
/-! SUPPORT. Loads of memory whose protection words hold no error. -/

namespace Sys2Proof.Machine

theorem Mem.bytes_eq (m : Mem) (a n : Nat) : m.bytes a n = (List.range n).map fun i => m.get (a + i) := by
  induction n generalizing a with
  | zero => rfl
  | succ n ih => rw [Mem.bytes, ih, List.range_succ_eq_map]; simp; intro i _; congr 1; omega

/-- A clean extent meets no erroneous protection word. -/
theorem State.eccMarks_clean {s : State} {u : UnitId} {p : Place} {w : Nat} (h : s.Clean u p w) : s.eccMarks u (p, w) = [] := by
  unfold State.Clean at h; unfold State.eccMarks
  split at h
  · rename_i r pw o hr
    simp only [hr]
    obtain ⟨h1, h2⟩ := h
    simp only [Ram.anyBad, Ram.anySoft, List.any_eq_false] at h1 h2
    simp only [List.append_eq_nil_iff, List.map_eq_nil_iff, List.filter_eq_nil_iff]
    exact ⟨h2, h1⟩
  · exact h.elim

/-- A read of a clean extent reports nothing. -/
theorem State.eccReads_clean {s : State} {u : UnitId} {p : Place} {w : Nat} (h : s.Clean u p w) : s.eccReads u [(p, w)] = s := by
  simp [State.eccReads, State.eccMarks_clean h]

/-- A load of a clean place of a memory answers its bytes and changes nothing. -/
theorem State.load_clean {s : State} {u : UnitId} {p : Place} {m : MemSel} {o w : Nat} {a : Word} (hm : memCell u p = some (m, o))
    (hp : s.place u a w false = .ok p) (hc : s.Clean u p w) :
    s.load u a w = .ok (s, (List.range w).map fun i => s.peek m (o + i)) := by
  have hcc := hc
  unfold State.Clean at hc
  cases p <;> simp only [memCell, Option.some.injEq, Prod.mk.injEq, reduceCtorEq] at hm <;> obtain ⟨rfl, rfl⟩ := hm <;>
    simp only [State.ramAt] at hc <;>
    simp only [State.load, hp, State.ramAt, hc.1, Bool.false_eq_true, if_false, State.eccReads_clean hcc, Mem.bytes_eq] <;> rfl

end Sys2Proof.Machine
end

