-- ==== Sys2Proof/Laws/Arith.lean ====
section
/-! SUPPORT. What the arithmetic of cores computes: narrowing to a width and rounding meet their specifications in Safety.lean. -/

namespace Sys2Proof.Machine

theorem fits_iff (w : Nat) (v : Int) : fits w v = true ↔ -(2 ^ (w - 1)) ≤ v ∧ v < 2 ^ (w - 1) := by
  simp only [fits, smin, smax, Bool.and_eq_true]
  constructor
  · rintro ⟨a, b⟩; exact ⟨of_decide_eq_true a, by have := of_decide_eq_true b; omega⟩
  · rintro ⟨a, b⟩; exact ⟨decide_eq_true a, by apply decide_eq_true; omega⟩

theorem two_pow_pred (w : Nat) (hw : 0 < w) : (2 : Int) ^ w = 2 * 2 ^ (w - 1) := by
  obtain ⟨n, rfl⟩ : ∃ n, w = n + 1 := ⟨w - 1, by omega⟩
  simp [pow_succ]; ring

/-- Wrapping changes nothing modulo 2^w. -/
theorem ofInt_wrapTo (w : Nat) (v : Int) : BitVec.ofInt w (wrapTo w v) = BitVec.ofInt w v := by
  have h : ((v % 2 ^ w).toNat : Int) = v % 2 ^ w := Int.toNat_of_nonneg (Int.emod_nonneg _ (by positivity))
  have hn : ((v % 2 ^ w).toNat % 2 ^ w : Nat) = (v % 2 ^ w).toNat :=
    Nat.mod_eq_of_lt (by have := Int.emod_lt_of_pos v (show (0 : Int) < 2 ^ w by positivity); zify; rw [h]; exact_mod_cast this)
  have e : (2 : Int) ^ w = ((2 ^ w : Nat) : Int) := by push_cast; rfl
  apply BitVec.eq_of_toInt_eq
  simp only [BitVec.toInt_ofInt, wrapTo, signed]
  split
  · rw [h, e, Int.emod_emod_of_dvd _ (dvd_refl _)]; exact Int.emod_bmod _ _
  · rw [h, e, Int.emod_emod_of_dvd _ (dvd_refl _), ← Int.emod_bmod, Int.sub_emod_right, Int.emod_bmod, Int.emod_bmod]

theorem toInt_ofInt_of_fits (w : Nat) (hw : 0 < w) (v : Int) (h1 : -(2 ^ (w - 1)) ≤ v) (h2 : v < 2 ^ (w - 1)) :
    (BitVec.ofInt w v).toInt = v := by
  rw [BitVec.toInt_ofInt]
  have := two_pow_pred w hw
  apply Int.bmod_eq_of_le
  · push_cast; rw [this]; omega
  · push_cast; rw [this]; omega

/-- A saturating or wrapping result of the model is narrowed as the spec says. -/
theorem narrowed_sat (w : Nat) (hw : 0 < w) (sat : Bool) (v : Int) :
    Narrowed w sat v (BitVec.ofInt w (satValue w sat v)) (satBits w sat v) := by
  have hp : (0 : Int) < 2 ^ (w - 1) := by positivity
  unfold Narrowed satBits satValue
  by_cases hf : -(2 ^ (w - 1)) ≤ v ∧ v < 2 ^ (w - 1)
  · have hb := (fits_iff w v).mpr hf
    rw [if_pos hf, if_pos hb]
    refine ⟨?_, rfl⟩
    cases sat
    · rw [if_neg (by simp), ofInt_wrapTo]; exact toInt_ofInt_of_fits w hw v hf.1 hf.2
    · rw [if_pos rfl, show clamp w v = v by unfold clamp smin smax; rw [if_neg (by omega), if_neg (by omega)]]
      exact toInt_ofInt_of_fits w hw v hf.1 hf.2
  · have hb : ¬fits w v = true := fun h => hf ((fits_iff w v).mp h)
    rw [if_neg hf, if_neg hb]
    cases sat
    · simp [ofInt_wrapTo]
    · simp only [if_true]
      refine ⟨?_, trivial⟩
      unfold clamp smin smax
      split
      · rw [if_pos (by omega)]; exact toInt_ofInt_of_fits w hw _ (by omega) (by omega)
      · rw [if_pos (by omega), if_neg (by omega)]; exact toInt_ofInt_of_fits w hw _ (by omega) (by omega)

/-- Rounding meets Table 2.4. -/
theorem roundShift_roundsTo (rm r : Nat) (n : Int) (k : Nat) : RoundsTo rm r n k (roundShift rm r n k) := by
  have hp : (0 : Int) < 2 ^ k := by positivity
  have hd := Int.mul_ediv_add_emod n (2 ^ k)
  have hm0 := Int.emod_nonneg n hp.ne'
  have hm1 := Int.emod_lt_of_pos n hp
  generalize hP : (2 : Int) ^ k = P at *
  generalize hq : n / P = q at *
  generalize hmm : n % P = m at *
  have e0 : n - q * P = m := by linarith
  have e1 : n - (q + 1) * P = m - P := by linarith
  unfold RoundsTo roundShift
  rw [hP, hq, hmm]
  match rm with
  | 0 =>
    simp only [if_true]
    split
    · rw [e0, abs_of_nonneg hm0]; exact ⟨by omega, by omega⟩
    · split
      · rw [e1, abs_of_neg (by omega)]; exact ⟨by omega, by omega⟩
      · split
        · rw [e0, abs_of_nonneg hm0]; exact ⟨by omega, fun _ => by assumption⟩
        · rw [e1, abs_of_neg (by omega)]; exact ⟨by omega, by omega⟩
  | 1 =>
    simp only [one_ne_zero, if_false, if_true]
    split
    · rw [e0, abs_of_nonneg hm0]; exact ⟨by omega, by omega⟩
    · split
      · rw [e1, abs_of_neg (by omega)]; exact ⟨by omega, by omega⟩
      · split
        · rename_i hn
          rw [e0, abs_of_nonneg hm0]; refine ⟨by omega, fun _ => ?_⟩
          have : q < 0 := by by_contra hq0; nlinarith
          rw [abs_of_neg hn, abs_of_neg this]; nlinarith
        · rename_i hn
          rw [e1, abs_of_neg (by omega)]; refine ⟨by omega, fun _ => ?_⟩
          have : 0 ≤ q := by by_contra hq0; nlinarith
          rw [abs_of_nonneg (by omega), abs_of_nonneg (by omega)]; nlinarith
  | 2 =>
    simp only [OfNat.ofNat_ne_zero, if_false, OfNat.ofNat_ne_one, if_true]
    split
    · rename_i hn
      have : q + 1 ≤ 0 := by by_contra hq0; nlinarith [hn.1]
      rw [abs_of_neg hn.1, abs_of_nonpos this]
      refine ⟨by nlinarith, by nlinarith [hn.2, lt_of_le_of_ne hm0 (Ne.symm hn.2)], by nlinarith [hn.1]⟩
    · rename_i hn
      by_cases h0 : n < 0
      · have hm : m = 0 := by by_contra hc; exact hn ⟨h0, hc⟩
        have : q < 0 := by by_contra hq0; nlinarith
        rw [abs_of_neg h0, abs_of_neg this]
        refine ⟨by nlinarith, by nlinarith, by nlinarith⟩
      · have : 0 ≤ q := by by_contra hq0; nlinarith
        rw [abs_of_nonneg this, abs_of_nonneg (show 0 ≤ n by omega)]
        refine ⟨by nlinarith, by nlinarith, mul_nonneg (by omega) this⟩
  | 3 =>
    simp only [OfNat.ofNat_ne_zero, if_false, OfNat.ofNat_ne_one, if_true, Nat.reduceEqDiff]
    exact ⟨by nlinarith, by nlinarith⟩
  | j + 4 =>
    refine ⟨q, by nlinarith, by nlinarith, ?_⟩
    simp [e0]

end Sys2Proof.Machine
end

