-- ==== Sys2Proof/Laws/Except.lean ====
section
/-! SUPPORT. What raising an exception leaves, and what the halt of a unit on its own account leaves of it and of the memories. -/

namespace Sys2Proof.Machine

theorem SameMem.refl (s : State) : SameMem s s := fun _ _ => rfl
theorem SameMem.trans {s t r : State} (h : SameMem s t) (k : SameMem t r) : SameMem s r := fun m a => (k m a).trans (h m a)
/-- A state that shares its memories with another reads the same. -/
theorem SameMem.of_eq {s t : State} (h1 : t.imem = s.imem) (h2 : t.lmem = s.lmem) (h3 : t.bmem = s.bmem) (h4 : t.hbm = s.hbm) :
    SameMem s t := by
  intro m a; cases m <;> simp [State.peek, h1, h2, h3, h4]

/-- The four memories of a state. -/
abbrev State.mems (s : State) := (s.imem, s.lmem, s.bmem, s.hbm)
theorem SameMem.of_mems {s t : State} (h : t.mems = s.mems) : SameMem s t := by
  simp only [State.mems, Prod.mk.injEq] at h; exact SameMem.of_eq h.1 h.2.1 h.2.2.1 h.2.2.2

theorem stewardUnit_ne (u : UnitId) (n : Nat) (h : n % 8 ≠ u.val - 256) : stewardUnit n ≠ u := by
  intro e; rw [← e] at h; simp [stewardUnit] at h

/-- The queue of a Steward takes a core message without touching any other unit. -/
theorem State.postCmsg_keeps {s t : State} {o u : UnitId} {h w : Word} (hp : s.postCmsg o h w = some t) (hu : u ≠ o) :
    t.core u = s.core u ∧ t.mems = s.mems := by
  unfold State.postCmsg at hp; dsimp only at hp
  split at hp
  · cases hp; exact ⟨State.core_setCore_other _ _ _ _ hu, rfl⟩
  · cases hp

theorem Core.ownerUnit_ne (c : Core) (u : UnitId) (h : u.val < 256) : u ≠ c.ownerUnit := by
  intro e; rw [e] at h; simp [Core.ownerUnit] at h

/-- Draining MB_TX changes nothing of the core but that queue, and no memory. -/
theorem State.drainMbTx_keeps (u : UnitId) (hu : u.val < 256) (n : Nat) (s : State) :
    (∃ q, (s.drainMbTx u n).core u = { s.core u with ports.mbTx := q }) ∧ (s.drainMbTx u n).mems = s.mems := by
  induction n generalizing s with
  | zero => exact ⟨⟨_, rfl⟩, rfl⟩
  | succ n ih =>
    unfold State.drainMbTx; dsimp only
    split
    · split
      · rename_i s' hp
        obtain ⟨h1, h2⟩ := State.postCmsg_keeps hp (Core.ownerUnit_ne (s.core u) u hu)
        obtain ⟨⟨q, h3⟩, h4⟩ := ih (s'.modCore u fun c => { c with ports.mbTx := _ })
        refine ⟨⟨q, ?_⟩, h4.trans h2⟩
        rw [h3, State.core_modCore_same, h1]
      · exact ⟨⟨_, rfl⟩, rfl⟩
    · exact ⟨⟨_, rfl⟩, rfl⟩

/-- Releasing a halt message changes nothing of the core but its latch and MB_TX, and no memory. -/
theorem State.releaseHaltMsg_keeps (u : UnitId) (hu : u.val < 256) (s : State) :
    (∃ m q, (s.releaseHaltMsg u).core u = { s.core u with run.haltMsg := m, ports.mbTx := q }) ∧ (s.releaseHaltMsg u).mems = s.mems := by
  unfold State.releaseHaltMsg
  split
  · exact ⟨⟨_, _, rfl⟩, rfl⟩
  · split
    · rename_i s' hp
      obtain ⟨h1, h2⟩ := State.postCmsg_keeps hp (Core.ownerUnit_ne (s.core u) u hu)
      obtain ⟨⟨q, h3⟩, h4⟩ := State.drainMbTx_keeps u hu 8 (s'.modCore u fun c => { c with run.haltMsg := none })
      refine ⟨⟨none, q, ?_⟩, h4.trans h2⟩
      rw [h3, State.core_modCore_same, h1]
    · exact ⟨⟨_, _, rfl⟩, rfl⟩

/-- A Graft's end changes no unit and no memory. -/
theorem State.graftEnd_keeps (s : State) (n : Nat) : (s.graftEnd n).cores = s.cores ∧ (s.graftEnd n).mems = s.mems := by
  have h : (s.graftEnd n).cores = s.cores ∧ (s.graftEnd n).imem = s.imem ∧ (s.graftEnd n).lmem = s.lmem ∧ (s.graftEnd n).bmem = s.bmem ∧
      (s.graftEnd n).hbm = s.hbm := by
    unfold State.graftEnd
    cases hg : s.fw.graft with
    | none => exact ⟨rfl, rfl, rfl, rfl, rfl⟩
    | some g => cases ht : g.targets <;> simp only [ht] <;> exact ⟨rfl, rfl, rfl, rfl, rfl⟩
  exact ⟨h.1, by simp [State.mems, h.2]⟩

/-- What the stop of a Steward does to a Graft leaves its own core and every memory as they are. -/
theorem State.graftStop_keeps (s : State) (u : UnitId) : (s.graftStop (u.val - 256)).core u = s.core u ∧
    (s.graftStop (u.val - 256)).mems = s.mems := by
  have e : ∀ (x : State) n, (x.markStopped n).core u = x.core u := fun _ _ => rfl
  have hk : ∀ k, (s.graftEnd k).core u = s.core u := fun k => by simp [State.core, (State.graftEnd_keeps s k).1]
  unfold State.graftStop
  cases hg : s.fw.graft with
  | none => exact ⟨rfl, rfl⟩
  | some g =>
    cases ht : g.targets with
    | nil => simp [ht]
    | cons m' ms =>
      simp only [ht]
      by_cases hm : m' % 8 = u.val - 256
      · rw [if_pos hm]; split
        · exact ⟨hk _, (State.graftEnd_keeps s _).2⟩
        · exact ⟨rfl, rfl⟩
      · rw [if_neg hm]
        by_cases hl : stewardLoader (m' % 8) = u.val - 256
        · rw [if_pos hl]
          cases hr : g.recLen with
          | none => exact ⟨hk _, (State.graftEnd_keeps s _).2⟩
          | some k =>
            simp only
            refine ⟨?_, (State.graftEnd_keeps s 0xA).2⟩
            simp only [e]
            exact (State.core_modCore_other _ _ _ _ (Ne.symm (stewardUnit_ne u (m' % 8) (by omega)))).trans (hk 0xA)
        · rw [if_neg hl]; exact ⟨rfl, rfl⟩

/-- The stop of a Steward leaves its own core and every memory as they are. -/
theorem State.stewardStop_keeps (s : State) (u : UnitId) : (s.stewardStop (u.val - 256)).core u = s.core u ∧
    (s.stewardStop (u.val - 256)).mems = s.mems := by
  unfold State.stewardStop
  exact State.graftStop_keeps _ u

/-- What the halt of a unit on its own account leaves: beside its latch and MB_TX, its core halted; and every memory. -/
theorem State.haltOwn_keeps (s : State) (u : UnitId) (r : HaltReason) :
    (∃ m q, (s.haltOwn u r).core u = { (s.core u).halted r with run.haltMsg := m, ports.mbTx := q }) ∧ (s.haltOwn u r).mems = s.mems := by
  unfold State.haltOwn; dsimp only
  split
  · split
    · exact ⟨⟨_, _, State.core_modCore_same _ _ _⟩, rfl⟩
    · obtain ⟨h1, h2⟩ := State.stewardStop_keeps (s.modCore u fun c => c.halted r) u
      exact ⟨⟨_, _, h1.trans (State.core_modCore_same _ _ _)⟩, h2⟩
  · rename_i hs
    have hu : u.val < 256 := by simpa [isSteward] using hs
    obtain ⟨⟨m, q, h1⟩, h2⟩ := State.releaseHaltMsg_keeps u hu ((s.modCore u fun c => c.halted r).modCore u fun c => { c with run.haltMsg := _ })
    refine ⟨⟨m, q, ?_⟩, h2⟩
    rw [h1, State.core_modCore_same, State.core_modCore_same]

/-- PAIR, PIP and REP of CAUSE. -/
def ExcInfo.tag (i : ExcInfo) : Nat := b2n i.pair + 2 * b2n i.second + 4 * b2n i.rep

/-- All that taking an exception leaves of its core; and it changes no memory. -/
theorem State.takeExc_took (s : State) (u : UnitId) (k : Cause) (epc : BitVec 16) (bad : Option Word) (i : ExcInfo) :
    Core.Took (s.core u) ((s.takeExc u k epc bad i).core u) k epc bad i.tag ∧ SameMem s (s.takeExc u k epc bad i) := by
  have hc : causeWord k i = BitVec.ofNat 32 (k.code + 256 * i.tag) := by
    unfold causeWord ExcInfo.tag; congr 1; omega
  have he : ((s.core u).saveExc k epc bad i).exl = (s.core u).exl := rfl
  have hv : ((s.core u).saveExc k epc bad i).evecEn = (s.core u).evecEn := rfl
  unfold State.takeExc; dsimp only; rw [he, hv]
  split
  · rename_i hx
    obtain ⟨⟨m, q, h1⟩, h2⟩ := State.haltOwn_keeps (s.setCore u ((s.core u).saveExc k epc bad i)) u .double
    rw [State.core_setCore_same] at h1
    refine ⟨?_, SameMem.of_mems h2⟩
    rw [h1]; simp [Core.Took, Core.halted, Core.saveExc, hx, hc]
  · rename_i hx
    split
    · rename_i hy
      obtain ⟨⟨m, q, h1⟩, h2⟩ := State.haltOwn_keeps (s.setCore u ((s.core u).saveExc k epc bad i)) u .exception
      rw [State.core_setCore_same] at h1
      refine ⟨?_, SameMem.of_mems h2⟩
      rw [h1]; simp [Core.Took, Core.halted, Core.saveExc, hx, hy, hc]
    · rename_i hy
      refine ⟨?_, SameMem.of_mems rfl⟩
      rw [State.core_setCore_same]; simp at hx hy; simp [Core.Took, Core.setExl, Core.saveExc, hx, hy, hc]

/-- What a core took after its counters were charged is what it took before. -/
theorem Core.Took.of_charge {c d : Core} {k : Cause} {e : BitVec 16} {b : Option Word} {n : Nat} (h : Core.Took c.chargeExc d k e b n) :
    Core.Took c d k e b n := by
  simpa [Core.Took, Core.exl, Core.evecEn] using h

/-- All that raising an exception leaves of its core, where no erroneous word is reported with it; and it changes no memory. -/
theorem State.raise_took (s : State) (u : UnitId) (k : Cause) (epc : BitVec 16) (bad : Option Word) (i : ExcInfo) (w : Nat)
    (hk : k ≠ .dataEcc) : Core.Took (s.core u) ((s.raise u k epc bad i w).core u) k epc bad i.tag ∧ SameMem s (s.raise u k epc bad i w) := by
  have e : s.raise u k epc bad i w = (if (s.core u).exl || !(s.core u).evecEn then s else s.modCore u Core.chargeExc).takeExc u k epc bad i := by
    unfold State.raise; cases k <;> first | rfl | exact absurd rfl hk
  rw [e]; split
  · exact State.takeExc_took s u k epc bad i
  · obtain ⟨h1, h2⟩ := State.takeExc_took (s.modCore u Core.chargeExc) u k epc bad i
    rw [State.core_modCore_same] at h1
    exact ⟨h1.of_charge, fun m a => (h2 m a).trans (by cases m <;> rfl)⟩

end Sys2Proof.Machine
end

