-- ==== Sys2Proof/Laws/Exec.lean ====
section
/-! SUPPORT. What the command of a core operation runs. -/

namespace Sys2Proof.Machine

/-- The command of an operation other than REP issues that operation with its body. -/
theorem exec_opOf {i : Instr} {u : UnitId} {x : Issue} {op : CoreOp} (h : opOf i = some (u, x, op)) (hr : opIsRep op = false) (s : State) :
    exec i s = .next (s.issueWith u x op (bodyOf u op)) := by
  cases i <;> simp only [opOf, Option.some.injEq, Prod.mk.injEq, reduceCtorEq] at h <;>
    (first | (obtain ⟨rfl, rfl, rfl⟩ := h) | skip) <;> (first | rfl | (simp [opIsRep] at hr; done) | skip)
  rename_i u' x' o f
  cases o <;> rfl

end Sys2Proof.Machine
end

