-- ==== Sys2Proof/WellFormed.lean ====
section
/-! DEFINITION. Well-formedness of commands: their operands fit the fields the spec gives them, and name what the device has. A command that
is not well formed is none that a sender of the spec can give; exec still gives it a meaning. -/

namespace Sys2Proof

/-- A value fits a field of a number of bits. -/
def fitsIn (w n : Nat) : Bool := decide (n < 2 ^ w)

/-- An offset lies in what the agent addresses: BAR0, a VF BAR0, or the CSR window and the private region of a Steward (R541, R646). -/
def RegAgent.wf (a : RegAgent) (off : Nat) : Bool :=
  match a with
  | .pf => decide (off < 0x10000000)
  | .vf _ => decide (off < 0x10000)
  | .steward _ => decide (off < 0x10000000 ∨ 0x20000000 ≤ off ∧ off < 0x30000000)
/-- A PTP message's fields: domainNumber, sequenceId, clockClass and messageType. -/
def PtpMsg.wf (m : PtpMsg) : Bool := fitsIn 8 m.domain && fitsIn 16 m.seq && fitsIn 8 m.clockClass && fitsIn 4 m.msgType
/-- Table 7.2. -/
def Beacon.wf (b : Beacon) : Bool :=
  fitsIn 8 b.verMajor && fitsIn 8 b.verMinor && fitsIn 8 b.type && fitsIn 8 b.flags && fitsIn 16 b.orchardId && fitsIn 16 b.rank && fitsIn 32 b.seq &&
  fitsIn 64 b.tTx && fitsIn 16 b.tTxFrac && fitsIn 32 b.echoSeq && fitsIn 64 b.tRxEcho && fitsIn 16 b.tRxEchoFrac && fitsIn 8 b.hops && fitsIn 64 b.imageId
/-- Table 7.10. -/
def Notice.wf (n : Notice) : Bool :=
  fitsIn 8 n.verMajor && fitsIn 8 n.verMinor && fitsIn 8 n.type && fitsIn 16 n.orchardId && fitsIn 16 n.originRank && fitsIn 32 n.noticeSeq &&
  fitsIn 64 n.imageId && fitsIn 8 n.variant && fitsIn 8 n.reason && fitsIn 8 n.hopCount && fitsIn 32 n.switchSeason
/-- Table 8.10. -/
def Cell.wf (c : Cell) : Bool :=
  fitsIn 8 c.verMajor && fitsIn 8 c.verMinor && fitsIn 8 c.kind && fitsIn 8 c.flags && fitsIn 16 c.group && fitsIn 16 c.leg && fitsIn 32 c.step &&
  fitsIn 16 c.gen && fitsIn 8 c.orchardId && fitsIn 8 c.attempt && fitsIn 16 c.srcRank && fitsIn 16 c.fragSeq && fitsIn 16 c.round && fitsIn 8 c.fmt &&
  fitsIn 32 c.firstBlock && fitsIn 16 c.nblocks && fitsIn 16 c.payloadLen
/-- Table 9.3, with the addresses of the IPv6 header. -/
def LftPkt.wf (p : LftPkt) : Bool :=
  fitsIn 128 p.src && fitsIn 128 p.dst && fitsIn 8 p.tclass && fitsIn 16 p.sport && fitsIn 8 p.verMajor && fitsIn 8 p.verMinor && fitsIn 8 p.opcode &&
  fitsIn 8 p.flags && fitsIn 16 p.destQpn && fitsIn 16 p.srcQpn && fitsIn 32 p.psn && fitsIn 32 p.msgPsn && fitsIn 64 p.txTime && fitsIn 32 p.msgLen &&
  fitsIn 32 p.msgOffset && fitsIn 64 p.raddr && fitsIn 32 p.rkey && fitsIn 16 p.payloadLen && fitsIn 16 p.epoch && decide (p.tag.length ≤ 16)
/-- Table 9.1: as many paths as an attribute block can hold, each with a port code and two addresses. -/
def QpAttr.wf (a : QpAttr) : Bool :=
  fitsIn 16 a.peerQpn && fitsIn 8 a.mtu && fitsIn 8 a.retryLimit && fitsIn 8 a.trafficClass && fitsIn 16 a.txSlot && fitsIn 16 a.rxSlot &&
  decide (a.paths.length < 2 ^ 16) && a.paths.all fun p => fitsIn 6 p.port && fitsIn 128 p.addr && fitsIn 128 p.peer
/-- Table 9.6. -/
def LftBody.wf (b : LftBody) : Bool :=
  fitsIn 16 b.qpn && fitsIn 32 b.len && fitsIn 64 b.laddr && fitsIn 64 b.raddr && fitsIn 32 b.rkey && fitsIn 16 b.tag && fitsIn 16 b.waitQpn &&
  fitsIn 32 b.waitCount
/-- Table 12.1. -/
def CipherReq.wf (q : CipherReq) : Bool :=
  fitsIn 16 q.slot && fitsIn 32 q.len && fitsIn 16 q.aadLen && fitsIn 16 q.tag && fitsIn 8 q.inst && decide (q.iv.length = 16) && fitsIn 64 q.src &&
  fitsIn 64 q.dst
/-- Table 13.5. -/
def BlkBody.wf (b : BlkBody) : Bool :=
  fitsIn 16 b.tag && fitsIn 16 b.vol && fitsIn 16 b.abortTag && fitsIn 64 b.lba && fitsIn 32 b.nlb && fitsIn 32 b.bufLen && fitsIn 64 b.bufAddr &&
  fitsIn 8 b.action && fitsIn 8 b.port
/-- Table 13.1. -/
def VolAttr.wf (v : VolAttr) : Bool :=
  fitsIn 16 v.vol && fitsIn 32 v.bs && fitsIn 8 v.layout && fitsIn 32 v.stripe && fitsIn 8 v.home && fitsIn 8 v.writeThrough && fitsIn 8 v.enc &&
  fitsIn 16 v.slot
/-- Table 18.7. -/
def CtlHdr.wf (h : CtlHdr) : Bool := fitsIn 64 h.paramAddr && fitsIn 32 h.paramLen && fitsIn 64 h.outAddr && fitsIn 32 h.outLen
/-- A control operation of a host is well formed when its descriptor is. -/
def CtlSrc.wf : CtlSrc → Bool
  | .host _ _ h => h.wf
  | .steward _ => true
/-- RING_CREATE of Table 18.8. -/
def RingDef.wf (p : RingDef) : Bool :=
  fitsIn 8 p.ring && fitsIn 8 p.typ && fitsIn 16 p.vec && fitsIn 32 p.sqN && fitsIn 32 p.cqN && fitsIn 64 p.sqBase && fitsIn 64 p.cqBase &&
  fitsIn 32 p.coalCount && fitsIn 32 p.coalUs
/-- POOL_DEFINE of Table 18.8. -/
def PoolDef.wf : PoolDef → Bool
  | .t0 l => l.all fun r => fitsIn 8 r.1 && fitsIn 64 r.2.1 && fitsIn 32 r.2.2
  | .t1 b n | .t2 b n => fitsIn 64 b && fitsIn 64 n
  | .t3 v => fitsIn 16 v
  | .reserved _ => true
/-- Table 14.3. -/
def SeqAttr.wf (a : SeqAttr) : Bool :=
  fitsIn 64 a.tag && fitsIn 64 a.seed && fitsIn 8 a.mask && fitsIn 8 a.home && fitsIn 8 a.shift && fitsIn 64 a.initLen && fitsIn 64 a.maxLen &&
  fitsIn 32 a.eos && fitsIn 32 a.invT && fitsIn 16 a.topk && fitsIn 32 a.topp && fitsIn 16 a.w0 && fitsIn 16 a.stream && fitsIn 64 a.slotmap &&
  fitsIn 8 a.durable
/-- Table 15.1: each shard's identity, stack and extent fit their fields. -/
def RsDef.wf (d : RsDef) : Bool :=
  fitsIn 16 d.orchardId && fitsIn 16 d.rank && d.shards.all fun x => fitsIn 32 x.id && fitsIn 8 x.stack && fitsIn 64 x.off && fitsIn 64 x.len
/-- R470: a digest record holds a digest of 48 bytes. -/
def WitRec.wf (x : WitRec) : Bool := fitsIn 8 x.w && fitsIn 8 x.replica && fitsIn 32 x.season && fitsIn 16 x.rank && decide (x.digest.length = 48)
/-- Table 17.1. -/
def TwinRec.wf (r : TwinRec) : Bool :=
  fitsIn 8 r.verMajor && fitsIn 8 r.verMinor && fitsIn 8 r.kind && fitsIn 8 r.cls && fitsIn 32 r.seq && fitsIn 32 r.confirmed && fitsIn 8 r.side &&
  fitsIn 8 r.state && fitsIn 64 r.serial && fitsIn 32 r.len
/-- Table 18.10: CLASS has three bits. -/
def TxDesc.wf (d : TxDesc) : Bool := fitsIn 8 d.port && fitsIn 3 d.cls && fitsIn 16 d.tag && fitsIn 16 d.len && fitsIn 64 d.addr
/-- A drive names each of its namespaces once. -/
def DriveInfo.wf (d : DriveInfo) : Bool := decide (d.ns.map (·.nsid)).Nodup
/-- Bytes written into a window of an accelerator port: the windows lie 1 MiB apart (R523). -/
def writesWf (ws : WinWrites) : Bool := ws.all fun w => fitsIn 20 w.1
/-- Entries of a classification table (Table 10.5). -/
def clsEntries (t : Nat) : Nat := match t with | 0 => 64 | 1 => 1024 | 2 => 8192 | _ => 4096

/-- A command is well formed. -/
def Instr.wf : Instr → Bool
  | .registerWrite a off _ _ _ => a.wf off
  | .rcFieldRead a off _ _ => a.wf off
  | .qpContextLoaded qpn _ => fitsIn 16 qpn
  | .registerWindowWrite _ off _ => decide (off.toNat % 4 = 0)
  | .convFwd u _ _ => decide (u.val < 256)
  | .convRev u _ _ => decide (u.val < 256)
  | .convEs u _ _ => decide (u.val < 256)
  | .esaddV u _ _ => decide (u.val < 256)
  | .scout u _ _ => decide (u.val < 256)
  | .smax u _ _ => decide (u.val < 256)
  | .macV u _ _ => decide (u.val < 256)
  | .hbmTempReadout t0 t1 t2 t3 => fitsIn 8 t0 && fitsIn 8 t1 && fitsIn 8 t2 && fitsIn 8 t3
  | .hbmCopyTimeout _ progress => fitsIn 18 progress.mib
  | .ptpSync _ m _ => m.wf
  | .ptpFollowUp _ m _ => m.wf
  | .ptpPdelayReq _ m _ => m.wf
  | .ptpPdelayResp _ m _ => m.wf
  | .ptpPdelayRespFollowUp _ m _ => m.wf
  | .ptpAnnounce _ m _ => m.wf
  | .ptpUnusedMessage _ m _ => m.wf
  | .linkBeaconReceive _ b _ => b.wf
  | .switchNoticeReceive _ n _ => n.wf
  | .windowHelloOpen _ _ ws => writesWf ws
  | .windowSqDoorbell _ _ _ ws _ => writesWf ws
  | .feedWindowBadWrite _ off _ => fitsIn 20 off
  | .cellDataReceive _ c _ _ => c.wf
  | .cellScoutReceive _ c _ => c.wf
  | .cellVerdictReceive _ c _ => c.wf
  | .cellSettleReceive _ c _ => c.wf
  | .receiveWindowClose leg _ => fitsIn 16 leg
  | .verdictSend leg _ => fitsIn 16 leg
  | .verdictWindowClose leg _ => fitsIn 16 leg
  | .qpCreate c notifyRing a => c.wf && fitsIn 6 notifyRing && a.wf
  | .qpQuarantineEnd qpn _ => fitsIn 16 qpn
  | .qpModify c qpn _ a => c.wf && fitsIn 16 qpn && a.wf
  | .qpConnect c qpn _ => c.wf && fitsIn 16 qpn
  | .qpReset c qpn => c.wf && fitsIn 16 qpn
  | .qpDestroy c qpn _ => c.wf && fitsIn 16 qpn
  | .regionRegister c base len access => c.wf && fitsIn 64 base && fitsIn 64 len && fitsIn 2 access
  | .regionDeregister c rkey => c.wf && fitsIn 32 rkey
  | .lftWrite _ b _ => b.wf
  | .lftRead _ b _ => b.wf
  | .lftWait _ b _ => b.wf
  | .waitMet qpn _ => fitsIn 16 qpn
  | .lftWritePacket _ p _ => p.wf
  | .lftReadReqPacket _ p _ => p.wf
  | .lftReadRespPacket _ p _ => p.wf
  | .lftAckPacket _ p _ => p.wf
  | .lftNakPacket _ p _ => p.wf
  | .lftHelloPacket _ p _ => p.wf
  | .lftHelloAckPacket _ p _ => p.wf
  | .lftRetryTimeout qpn _ => fitsIn 16 qpn
  | .ackDelayTimer qpn _ => fitsIn 16 qpn
  | .clsWrite table index => decide (index.val < clsEntries table.val)
  | .clsRead table index => decide (index.val < clsEntries table.val)
  | .gcmEnc q => q.wf
  | .gcmDec q => q.wf
  | .xtsEnc q => q.wf
  | .xtsDec q => q.wf
  | .keyWrite q _ => q.wf
  | .keyErase q => q.wf
  | .blkRead _ b _ => b.wf
  | .blkWrite _ b _ => b.wf
  | .blkFlush _ b _ => b.wf
  | .blkWriteZeroes _ b _ => b.wf
  | .blkDeallocate _ b _ => b.wf
  | .blkAbort _ b _ => b.wf
  | .blkSanitize _ b _ => b.wf
  | .blkFormat _ b _ => b.wf
  | .destage vol lba nlb _ => fitsIn 12 vol && fitsIn 64 lba && fitsIn 32 nlb
  | .nvmeCompletion _ cid status _ _ => fitsIn 16 cid && fitsIn 15 status
  | .nvmeCommandTimeout _ cid _ => fitsIn 16 cid
  | .nvmeAbortTimeout _ cid _ _ => fitsIn 16 cid
  | .sanitizeProgress _ sixteenths _ => decide (sixteenths ≤ 16)
  | .chunkLoaded seq _ _ => fitsIn 16 seq
  | .tokenPost seq _ => fitsIn 16 seq
  | .tierDemotion _ tier _ => decide (tier < 4)
  | .pageMoveEnd seq _ _ _ => fitsIn 16 seq
  | .decodeHeldPost seq _ => fitsIn 16 seq
  | .witnessRecordReceive x _ => x.wf
  | .twinHello r _ => r.wf
  | .twinHeartbeat r _ => r.wf
  | .twinMirror r _ _ => r.wf
  | .twinConfirm r _ => r.wf
  | .twinAudit r _ _ => r.wf
  | .twinYield r _ => r.wf
  | .twinResyncDone r _ => r.wf
  | .arbitrationResult ok failed _ _ => decide (ok.val + failed.val ≤ 8)
  | .identify _ _ h => h.wf
  | .ringCreate _ _ h p => h.wf && p.wf
  | .ringDelete _ _ h ring => h.wf && fitsIn 8 ring
  | .logRead _ _ h _ first count => h.wf && fitsIn 32 first && fitsIn 32 count
  | .keyLoad _ _ h slot _ _ => h.wf && fitsIn 16 slot
  | .keyRelease _ _ h slot => h.wf && fitsIn 16 slot
  | .volCreate _ _ h v => h.wf && v.wf
  | .volDestroy _ _ h vol => h.wf && fitsIn 16 vol
  | .volAttach _ _ h vol kind _ _ => h.wf && fitsIn 16 vol && decide (kind ≤ 1)
  | .volDetach _ _ h vol kind _ => h.wf && fitsIn 16 vol && decide (kind ≤ 1)
  | .poolDefine _ _ h inst p => h.wf && fitsIn 8 inst && p.wf
  | .seqCreate _ _ h a => h.wf && a.wf
  | .seqDestroy _ _ h seq => h.wf && fitsIn 16 seq
  | .rsDefine _ _ h d => h.wf && d.wf
  | .shardLoad _ _ h shard src off len => h.wf && fitsIn 32 shard && fitsIn 64 src && fitsIn 64 off && fitsIn 64 len
  | .ckptArm _ _ h seq _ _ _ => h.wf && fitsIn 64 seq
  | .ckptRestore _ _ h _ keySlot _ _ => h.wf && decide (keySlot < 65536)
  | .ckptAbort _ _ h => h.wf
  | .witDefine _ _ h _ => h.wf
  | .txDescriptor _ _ d _ => d.wf
  | .rxDescriptor _ _ tag len addr _ => fitsIn 16 tag && fitsIn 32 len && fitsIn 64 addr
  | .telemetryDescriptor _ _ tag len addr _ _ => fitsIn 16 tag && fitsIn 32 len && fitsIn 64 addr
  | .vfEnable _ num _ => fitsIn 16 num
  | .spdmGetCertificate _ _ slot off len => fitsIn 16 off && fitsIn 16 len && fitsIn 4 slot
  | .spdmChallenge _ _ nonce => decide (nonce.length = 32)
  | .spdmGetMeasurements _ _ index _ nonce => fitsIn 8 index && decide (nonce.length = 32)
  | .cxlMemRead bar4 off len => bar4 || decide (len = 64 ∧ off % 64 = 0)
  | .cxlMemWrite bar4 off data => bar4 || decide (data.length = 64 ∧ off % 64 = 0)
  | .storageLinkUp _ d _ => d.wf
  | .sequenceContextLoaded seq _ => fitsIn 16 seq
  | .driveDma _ cid _ _ _ _ _ => fitsIn 16 cid
  | .instanceQuantumExpiry .. | .instanceContextLoaded .. | .nop .. | .add .. | .sub .. | .and .. | .or .. | .xor .. | .shl .. | .shr .. | .sar ..
  | .min .. | .max .. | .minu .. | .maxu .. | .mul .. | .mulh .. | .mulhu .. | .fmul .. | .esadd .. | .esaddD .. | .sel .. | .addi .. | .andi ..
  | .ori .. | .xori .. | .movi .. | .movhi .. | .cmp .. | .cmpi .. | .mac .. | .msu .. | .ext .. | .accset .. | .accclr .. | .accadd .. | .ld ..
  | .st .. | .lda .. | .sta .. | .fence .. | .mfc .. | .mtc .. | .br .. | .call .. | .jmp .. | .callr .. | .ret .. | .eret .. | .halt .. | .brk ..
  | .loop .. | .loopx .. | .lpop .. | .rep .. | .pipPair .. | .ecmdPush .. | .ecplPop .. | .ectlDiscard .. | .dcmdPush .. | .dcplPop ..
  | .dctlDiscard .. | .mbTx .. | .mbRx .. | .peerTx .. | .peerRx .. | .cntWrite .. | .cntSelWrite .. | .cntOvfClear .. | .cycLoRead ..
  | .btNowLoRead .. | .btArm .. | .btWait .. | .ioPortReady .. | .ioTimeout .. | .coreStart .. | .coreResume .. | .coreHaltReq .. | .coreStep ..
  | .coreReset .. | .haltMessageLatchRelease .. | .dmaCopy .. | .dmaFill .. | .dmaCopy2d .. | .loadI .. | .d2dFlitCrcFail .. | .hbmRefresh ..
  | .hbmCopyStart .. | .hbmCopyIssue .. | .hbmCopyEnd .. | .patrolScrub .. | .syncInterval .. | .pdelayReqInterval .. | .announceInterval ..
  | .announceReceiptTimeout .. | .linkBeaconTransmit .. | .upstreamLost .. | .timeLockAcquired .. | .holdoverLimit .. | .ppsEdge .. | .slotStart ..
  | .btStage .. | .stagingEnd .. | .btActivate .. | .activationStart .. | .btAbort | .btStop | .scheduleStop .. | .btVariant .. | .variantSwitch ..
  | .kernelReload .. | .imageMismatchStop .. | .windowHelloClose .. | .windowCqDoorbell .. | .accelLinkDown .. | .feedCollective .. | .feedNop ..
  | .feedCompletionPost .. | .staleHoldTimeout .. | .notifyCompletionPost .. | .portLinkUp .. | .portLinkDown .. | .anComplete .. | .octetModeWrite ..
  | .portEnable .. | .frameReceive .. | .reorderRelease .. | .clsCommit | .clsCommitDone | .slowPathReinject .. | .egressArbitration ..
  | .queueShaperWrite .. | .storageLinkDown .. | .decCandidates .. | .decPassDone .. | .rsRegionWrite .. | .harvestChunkDone ..
  | .manifestWriteDone .. | .restoreDone .. | .healthEvent .. | .katBudgetExpiry .. | .katJudge .. | .ageingRewrite .. | .witnessDigestDone ..
  | .witnessDeadline .. | .twinHelloTimer .. | .twinHeartbeatTimer .. | .backupWriteTimer .. | .mirrorRetransmitTimeout .. | .auditTimer ..
  | .twinLinkSilence .. | .backupSilence .. | .lhqiEnable .. | .lhqiDisable .. | .lhqiHeartbeat .. | .lhqiHbTimeout .. | .lhqiSqDoorbell ..
  | .lhqiCqDoorbell .. | .doorbellPageBadWrite .. | .ringDrained .. | .coalesceTimer .. | .accelUpstreamUr .. | .flr .. | .portHReset ..
  | .instanceRemoval .. | .instCommit .. | .smbTx .. | .smbRx .. | .cmsgPop .. | .ctxWrite .. | .rindLock | .stewardWatchdogExpiry ..
  | .watchdogKick .. | .stewardRestart .. | .graft .. | .graftRestartCmd .. | .handoverAnswer .. | .graftHandoverTimeout .. | .accept .. | .refuse ..
  | .graftStartTimeout .. | .powerOn | .railFault | .sysReset .. | .devReset | .boot .. | .drUpdate .. | .drWrite | .pkgUpload .. | .spdmGetVersion ..
  | .spdmGetCapabilities .. | .spdmNegotiateAlgorithms .. | .spdmGetDigests .. | .spdmKeyExchange .. | .spdmFinish .. | .spdmHeartbeat ..
  | .spdmKeyUpdate .. | .spdmEndSession .. | .getKek .. | .telemetryPeriodSample .. | .telemetryBufferTimeout .. | .telemSubscribe ..
  | .powerEvaluation .. | .thermalSample .. | .pwrSet .. | .refclkSysLoss | .refclkEthLoss .. | .refclkHLoss .. | .jtagBypass | .jtagIdcode
  | .jtagSamplePreload | .jtagExtest | .jtagExtestPulse | .jtagExtestTrain | .h2dSnoop .. | .uncataloguedPortAccess .. | .accelLinkUp .. | .twinLinkUp
  | .twinLinkDown | .twinLinkOtherFrame | .perstNDeassert .. | .portHLinkUp | .ref10mValidityChange .. | .tokenBucketRefilled .. | .flashWriteDone ..
  | .globalPersistentFlush | .storageAerCorrectable .. | .backInvalidateResponse .. => true

end Sys2Proof
end

