-- ==== Sys2Proof/Tests/Slice0.lean ====
section
/-! SUPPORT. Tests: ill-formed commands are refused, instruction words read as the spec writes them, single commands do what the spec's tables say, and
the premises of the statements can be met. -/

namespace Sys2Proof.Tests
open Sys2Proof Sys2Proof.Machine

set_option maxRecDepth 8000

/-! ## Helpers -/

/-- The guard that always holds. -/
def x0 : Issue := ⟨0, false, false, none⟩
/-- The state after reset with a unit running, and changed as given. -/
def cs (u : UnitId) (f : Core → Core) : State := State.reset.modCore u fun c => f { c with run.state := .running }
/-- A field set in the state after reset. -/
def fs (l : List (Fld × Nat)) (s : State) : State := l.foldl (fun s x => s.setFld x.1 x.2) s

/-! ## Ill-formed commands -/

def beacon0 : Beacon := ⟨1, 0, 0, 0, 0, 0, 0, 0, 0, 0, 0, 0, 0, 0⟩
def notice0 : Notice := ⟨1, 0, 1, 0, 0, 0, 0, 0, 0, 0, 0⟩
def cell0 : Cell := ⟨1, 0, 0, 0, 0, 0, 0, 0, 0, 0, 0, 0, 0, 0, 0, 0, 0, []⟩
def pkt0 : LftPkt := ⟨0, 0, 0, 0, true, 1, 0, 1, 0, 0, 0, 0, 0, 0, 0, 0, 0, 0, 0, 0, [], []⟩
def attr0 : QpAttr := ⟨0, 0, 0, 0, [], false, 0, 0⟩
def body0 : LftBody := ⟨false, false, false, false, 0, 0, 0, 0, 0, 0, 0, 0⟩
def req0 : CipherReq := ⟨false, false, 0, 0, 0, 0, 0, List.replicate 16 0, 0, 0, true, 0, 0, 0⟩
def blk0 : BlkBody := ⟨false, false, false, 0, 0, 0, 0, 0, 0, 0, 0, 0, none, true⟩
def vol0 : VolAttr := ⟨0, 512, 0, 8, [], 0, 0, 0, 0⟩
def hdr0 : CtlHdr := ⟨0, 0, 0, 0, 0, false, true, true⟩
def ring0 : RingDef := ⟨1, 1, 0, 2, 2, 0, 0, 0, 0⟩
def seq0 : SeqAttr := ⟨0, 0, 1, 0, 0, 1, 2, 0, 0, 0, 1, 2, 0, 0, 0⟩
def rs0 : RsDef := ⟨0, 0, 0, false, [], []⟩
def wrec0 : WitRec := ⟨1, 0, 0, 0, 0, 0, 0, false, List.replicate 48 0⟩
def trec0 : TwinRec := ⟨1, 0, 0, 0, 0, 0, 0, 0, 0, 0, false, false⟩
def tx0 : TxDesc := ⟨0, 0, false, 0, 64, 0, none⟩
def ptp0 : PtpMsg := ⟨0, 0, true, 0, 0, true, 0, 0⟩

theorem test_wf_beacon : (Instr.linkBeaconReceive 0 beacon0 0).wf = true ∧
  ([{ beacon0 with verMajor := 2 ^ 8 }, { beacon0 with verMinor := 2 ^ 8 }, { beacon0 with type := 2 ^ 8 }, { beacon0 with flags := 2 ^ 8 },
    { beacon0 with orchardId := 2 ^ 16 }, { beacon0 with rank := 2 ^ 16 }, { beacon0 with seq := 2 ^ 32 }, { beacon0 with tTx := 2 ^ 64 },
    { beacon0 with tTxFrac := 2 ^ 16 }, { beacon0 with echoSeq := 2 ^ 32 }, { beacon0 with tRxEcho := 2 ^ 64 },
    { beacon0 with tRxEchoFrac := 2 ^ 16 }, { beacon0 with hops := 2 ^ 8 }, { beacon0 with imageId := 2 ^ 64 }] : List Beacon).all (fun z => !(Instr.linkBeaconReceive 0 z 0).wf) = true := by decide

theorem test_wf_notice : (Instr.switchNoticeReceive 0 notice0 0).wf = true ∧
  ([{ notice0 with verMajor := 2 ^ 8 }, { notice0 with verMinor := 2 ^ 8 }, { notice0 with type := 2 ^ 8 }, { notice0 with orchardId := 2 ^ 16 },
    { notice0 with originRank := 2 ^ 16 }, { notice0 with noticeSeq := 2 ^ 32 }, { notice0 with imageId := 2 ^ 64 },
    { notice0 with variant := 2 ^ 8 }, { notice0 with reason := 2 ^ 8 }, { notice0 with hopCount := 2 ^ 8 }, { notice0 with switchSeason := 2 ^ 32 }] : List Notice).all (fun z => !(Instr.switchNoticeReceive 0 z 0).wf) = true := by decide

theorem test_wf_cell : (Instr.cellDataReceive 0 cell0 false 0).wf = true ∧
  ([{ cell0 with verMajor := 2 ^ 8 }, { cell0 with verMinor := 2 ^ 8 }, { cell0 with kind := 2 ^ 8 }, { cell0 with flags := 2 ^ 8 },
    { cell0 with group := 2 ^ 16 }, { cell0 with leg := 2 ^ 16 }, { cell0 with step := 2 ^ 32 }, { cell0 with gen := 2 ^ 16 },
    { cell0 with orchardId := 2 ^ 8 }, { cell0 with attempt := 2 ^ 8 }, { cell0 with srcRank := 2 ^ 16 }, { cell0 with fragSeq := 2 ^ 16 },
    { cell0 with round := 2 ^ 16 }, { cell0 with fmt := 2 ^ 8 }, { cell0 with firstBlock := 2 ^ 32 }, { cell0 with nblocks := 2 ^ 16 },
    { cell0 with payloadLen := 2 ^ 16 }] : List Cell).all (fun z => !(Instr.cellDataReceive 0 z false 0).wf) = true := by decide

theorem test_wf_packet : (Instr.lftWritePacket 0 pkt0 0).wf = true ∧
  ([{ pkt0 with src := 2 ^ 128 }, { pkt0 with dst := 2 ^ 128 }, { pkt0 with tclass := 2 ^ 8 }, { pkt0 with sport := 2 ^ 16 },
    { pkt0 with verMajor := 2 ^ 8 }, { pkt0 with verMinor := 2 ^ 8 }, { pkt0 with opcode := 2 ^ 8 }, { pkt0 with flags := 2 ^ 8 },
    { pkt0 with destQpn := 2 ^ 16 }, { pkt0 with srcQpn := 2 ^ 16 }, { pkt0 with psn := 2 ^ 32 }, { pkt0 with msgPsn := 2 ^ 32 },
    { pkt0 with txTime := 2 ^ 64 }, { pkt0 with msgLen := 2 ^ 32 }, { pkt0 with msgOffset := 2 ^ 32 }, { pkt0 with raddr := 2 ^ 64 },
    { pkt0 with rkey := 2 ^ 32 }, { pkt0 with payloadLen := 2 ^ 16 }, { pkt0 with epoch := 2 ^ 16 }, { pkt0 with tag := List.replicate 17 0 }] : List LftPkt).all (fun z => !(Instr.lftWritePacket 0 z 0).wf) = true := by decide

theorem test_wf_qp_attributes : (Instr.qpModify (.steward 0) 0 0 attr0).wf = true ∧
  ([{ attr0 with peerQpn := 2 ^ 16 }, { attr0 with mtu := 2 ^ 8 }, { attr0 with retryLimit := 2 ^ 8 }, { attr0 with trafficClass := 2 ^ 8 },
    { attr0 with txSlot := 2 ^ 16 }, { attr0 with rxSlot := 2 ^ 16 }, { attr0 with paths := [⟨64, 0, 0⟩] },
    { attr0 with paths := [⟨0, 2 ^ 128, 0⟩] }, { attr0 with paths := [⟨0, 0, 2 ^ 128⟩] }] : List QpAttr).all (fun z => !(Instr.qpModify (.steward 0) 0 0 z).wf) = true := by decide

theorem test_wf_work_request : (Instr.lftWrite (.steward 0) body0 0).wf = true ∧
  ([{ body0 with qpn := 2 ^ 16 }, { body0 with len := 2 ^ 32 }, { body0 with laddr := 2 ^ 64 }, { body0 with raddr := 2 ^ 64 },
    { body0 with rkey := 2 ^ 32 }, { body0 with tag := 2 ^ 16 }, { body0 with waitQpn := 2 ^ 16 }, { body0 with waitCount := 2 ^ 32 }] : List LftBody).all (fun z => !(Instr.lftWrite (.steward 0) z 0).wf) = true := by decide

theorem test_wf_cipher_request : (Instr.gcmEnc req0).wf = true ∧
  ([{ req0 with slot := 2 ^ 16 }, { req0 with len := 2 ^ 32 }, { req0 with aadLen := 2 ^ 16 }, { req0 with tag := 2 ^ 16 },
    { req0 with inst := 2 ^ 8 }, { req0 with src := 2 ^ 64 }, { req0 with dst := 2 ^ 64 }, { req0 with iv := [] }] : List CipherReq).all (fun z => !(Instr.gcmEnc z).wf) = true := by decide

theorem test_wf_block_body : (Instr.blkRead (.ring 0 1) blk0 0).wf = true ∧
  ([{ blk0 with tag := 2 ^ 16 }, { blk0 with vol := 2 ^ 16 }, { blk0 with abortTag := 2 ^ 16 }, { blk0 with lba := 2 ^ 64 },
    { blk0 with nlb := 2 ^ 32 }, { blk0 with bufLen := 2 ^ 32 }, { blk0 with bufAddr := 2 ^ 64 }, { blk0 with action := 2 ^ 8 },
    { blk0 with port := 2 ^ 8 }] : List BlkBody).all (fun z => !(Instr.blkRead (.ring 0 1) z 0).wf) = true := by decide

theorem test_wf_volume : (Instr.volCreate 0 0 hdr0 vol0).wf = true ∧
  ([{ vol0 with vol := 2 ^ 16 }, { vol0 with bs := 2 ^ 32 }, { vol0 with layout := 2 ^ 8 }, { vol0 with stripe := 2 ^ 32 },
    { vol0 with home := 2 ^ 8 }, { vol0 with writeThrough := 2 ^ 8 }, { vol0 with enc := 2 ^ 8 }, { vol0 with slot := 2 ^ 16 }] : List VolAttr).all (fun z => !(Instr.volCreate 0 0 hdr0 z).wf) = true := by decide

theorem test_wf_control_header : (Instr.ckptAbort 0 0 hdr0).wf = true ∧
  ([{ hdr0 with paramAddr := 2 ^ 64 }, { hdr0 with paramLen := 2 ^ 32 }, { hdr0 with outAddr := 2 ^ 64 }, { hdr0 with outLen := 2 ^ 32 }] : List CtlHdr).all (fun z => !(Instr.ckptAbort 0 0 z).wf) = true := by decide

theorem test_wf_ring : (Instr.ringCreate 0 0 hdr0 ring0).wf = true ∧
  ([{ ring0 with ring := 2 ^ 8 }, { ring0 with typ := 2 ^ 8 }, { ring0 with vec := 2 ^ 16 }, { ring0 with sqN := 2 ^ 32 },
    { ring0 with cqN := 2 ^ 32 }, { ring0 with sqBase := 2 ^ 64 }, { ring0 with cqBase := 2 ^ 64 }, { ring0 with coalCount := 2 ^ 32 },
    { ring0 with coalUs := 2 ^ 32 }] : List RingDef).all (fun z => !(Instr.ringCreate 0 0 hdr0 z).wf) = true := by decide

theorem test_wf_sequence : (Instr.seqCreate 0 0 hdr0 seq0).wf = true ∧
  ([{ seq0 with tag := 2 ^ 64 }, { seq0 with seed := 2 ^ 64 }, { seq0 with mask := 2 ^ 8 }, { seq0 with home := 2 ^ 8 },
    { seq0 with shift := 2 ^ 8 }, { seq0 with initLen := 2 ^ 64 }, { seq0 with maxLen := 2 ^ 64 }, { seq0 with eos := 2 ^ 32 },
    { seq0 with invT := 2 ^ 32 }, { seq0 with topk := 2 ^ 16 }, { seq0 with topp := 2 ^ 32 }, { seq0 with w0 := 2 ^ 16 },
    { seq0 with stream := 2 ^ 16 }, { seq0 with slotmap := 2 ^ 64 }, { seq0 with durable := 2 ^ 8 }] : List SeqAttr).all (fun z => !(Instr.seqCreate 0 0 hdr0 z).wf) = true := by decide

theorem test_wf_resident_state : (Instr.rsDefine 0 0 hdr0 rs0).wf = true ∧
  ([{ rs0 with orchardId := 2 ^ 16 }, { rs0 with rank := 2 ^ 16 }, { rs0 with shards := [⟨2 ^ 32, 0, 0, 0⟩] },
    { rs0 with shards := [⟨0, 2 ^ 8, 0, 0⟩] }, { rs0 with shards := [⟨0, 0, 2 ^ 64, 0⟩] }, { rs0 with shards := [⟨0, 0, 0, 2 ^ 64⟩] }] : List RsDef).all (fun z => !(Instr.rsDefine 0 0 hdr0 z).wf) = true := by decide

theorem test_wf_digest_record : (Instr.witnessRecordReceive wrec0 0).wf = true ∧
  ([{ wrec0 with w := 2 ^ 8 }, { wrec0 with replica := 2 ^ 8 }, { wrec0 with season := 2 ^ 32 }, { wrec0 with rank := 2 ^ 16 },
    { wrec0 with digest := [] }] : List WitRec).all (fun z => !(Instr.witnessRecordReceive z 0).wf) = true := by decide

theorem test_wf_twin_record : (Instr.twinHello trec0 0).wf = true ∧
  ([{ trec0 with verMajor := 2 ^ 8 }, { trec0 with verMinor := 2 ^ 8 }, { trec0 with kind := 2 ^ 8 }, { trec0 with cls := 2 ^ 8 },
    { trec0 with seq := 2 ^ 32 }, { trec0 with confirmed := 2 ^ 32 }, { trec0 with side := 2 ^ 8 }, { trec0 with state := 2 ^ 8 },
    { trec0 with serial := 2 ^ 64 }, { trec0 with len := 2 ^ 32 }] : List TwinRec).all (fun z => !(Instr.twinHello z 0).wf) = true := by decide

theorem test_wf_tx_descriptor : (Instr.txDescriptor 0 1 tx0 0).wf = true ∧
  ([{ tx0 with port := 2 ^ 8 }, { tx0 with cls := 2 ^ 3 }, { tx0 with tag := 2 ^ 16 }, { tx0 with len := 2 ^ 16 }, { tx0 with addr := 2 ^ 64 }] : List TxDesc).all (fun z => !(Instr.txDescriptor 0 1 z 0).wf) = true := by decide

theorem test_wf_ptp_message : (Instr.ptpSync 0 ptp0 0).wf = true ∧
  ([{ ptp0 with domain := 2 ^ 8 }, { ptp0 with seq := 2 ^ 16 }, { ptp0 with clockClass := 2 ^ 8 }, { ptp0 with msgType := 2 ^ 4 }] : List PtpMsg).all (fun z => !(Instr.ptpSync 0 z 0).wf) = true := by decide

theorem test_wf_accepts1 :
  ([.registerWrite .pf 0 4 0 0, .rcFieldRead (.vf 1) 0xFFFC 4 0, .registerWrite (.steward 1) 0x20000000 4 0 0, .qpContextLoaded 65535 0,
    .qpQuarantineEnd 65535 0, .waitMet 65535 0, .lftRetryTimeout 65535 0, .ackDelayTimer 65535 0, .hbmTempReadout 255 255 255 255,
    .hbmCopyTimeout 0 ⟨0x3FFFF, 0⟩, .registerWindowWrite 0 0x404 0, .convFwd 255 0 false, .convRev 255 0 false, .convEs 255 0 false, .esaddV 255 0 false,
    .scout 255 0 false, .smax 255 0 false, .macV 255 0 false, .windowHelloOpen .feed 0 [(0, 0)], .windowSqDoorbell .feed 0 0 [] 0,
    .feedWindowBadWrite 0 0xFFFFF 0, .qpConnect (.host 0 0 hdr0) 0 0, .qpReset (.steward 0) 65535, .qpDestroy (.steward 0) 65535 0] : List Instr).all (fun i => i.wf) = true := by decide

theorem test_wf_accepts2 :
  ([.qpCreate (.steward 0) 63 attr0, .regionRegister (.steward 0) 0 1 3, .regionDeregister (.steward 0) 0, .receiveWindowClose 0 0, .verdictSend 0 0,
    .verdictWindowClose 0 0, .clsWrite 0 63, .clsRead 1 1023, .clsRead 3 4095, .destage 4095 0 1 0, .nvmeCompletion 0 0 0 true 0,
    .nvmeCommandTimeout 0 0 0, .nvmeAbortTimeout 0 0 true 0, .driveDma 0 0 0 0 true [] 0, .sanitizeProgress 0 16 0,
    .storageLinkUp 0 ⟨0, true, true, 0, [⟨1, 8, 512, true⟩], 0, 2⟩ 0, .chunkLoaded 0 [] 0, .tokenPost 0 0, .tierDemotion 0 3 0,
    .pageMoveEnd 0 0 [] 0, .decodeHeldPost 0 0, .sequenceContextLoaded 0 0, .arbitrationResult 8 0 false 0, .identify 0 0 hdr0] : List Instr).all (fun i => i.wf) = true := by decide

theorem test_wf_accepts3 :
  ([.ringDelete 0 0 hdr0 1, .logRead 0 0 hdr0 0 0 0, .keyLoad 0 0 hdr0 0 0 [], .keyRelease 0 0 hdr0 0, .volDestroy 0 0 hdr0 0,
    .volAttach 0 0 hdr0 0 1 0 false, .volDetach 0 0 hdr0 0 1 0, .poolDefine 0 0 hdr0 0 (.t0 [(0, 0, 0)]), .seqDestroy 0 0 hdr0 0,
    .shardLoad 0 0 hdr0 0 0 0 0, .ckptArm 0 0 hdr0 0 (.volume 0 0) 0 [], .ckptRestore 0 0 hdr0 (.volume 0 0) 0 0 [],
    .witDefine 0 0 hdr0 ⟨0, [], 2, 0, [], [], 100⟩, .rxDescriptor 0 1 0 64 0 false, .telemetryDescriptor 0 1 0 4096 0 false 0,
    .spdmGetCertificate true none 0 0 0, .spdmChallenge true 0 (List.replicate 32 0), .spdmGetMeasurements true none 255 true (List.replicate 32 0),
    .cxlMemRead false 64 64, .cxlMemWrite false 64 (List.replicate 64 0), .cxlMemWrite true 3 [0], .vfEnable true 63 0] : List Instr).all (fun i => i.wf) = true := by decide

theorem test_wf_refuses1 :
  ([.registerWrite .pf 0x10000000 4 0 0, .rcFieldRead (.vf 1) 0x10000 4 0, .registerWrite (.steward 1) 0x10000000 4 0 0, .qpContextLoaded 65536 0,
    .qpQuarantineEnd 65536 0, .waitMet 65536 0, .lftRetryTimeout 65536 0, .ackDelayTimer 65536 0, .hbmTempReadout 256 0 0 0,
    .hbmTempReadout 0 256 0 0, .hbmTempReadout 0 0 256 0, .hbmTempReadout 0 0 0 256, .hbmCopyTimeout 0 ⟨0x40000, 0⟩, .registerWindowWrite 0 0x402 0,
    .convFwd 256 0 false, .convRev 256 0 false, .convEs 256 0 false, .esaddV 256 0 false, .scout 256 0 false, .smax 256 0 false, .macV 256 0 false,
    .windowHelloOpen .feed 0 [(0x100000, 0)], .windowSqDoorbell .feed 0 0 [(0x100000, 0)] 0, .feedWindowBadWrite 0 0x100000 0] : List Instr).all (fun i => !i.wf) = true := by decide

theorem test_wf_refuses2 :
  ([.qpConnect (.host 0 0 { hdr0 with paramLen := 2 ^ 32 }) 0 0, .qpConnect (.steward 0) 65536 0, .qpReset (.steward 0) 65536,
    .qpDestroy (.steward 0) 65536 0, .qpCreate (.steward 0) 64 attr0, .regionRegister (.steward 0) 0 1 4, .regionRegister (.steward 0) (2 ^ 64) 1 3,
    .regionRegister (.steward 0) 0 (2 ^ 64) 3, .regionDeregister (.steward 0) (2 ^ 32), .receiveWindowClose 65536 0, .verdictSend 65536 0,
    .verdictWindowClose 65536 0, .clsWrite 0 64, .clsRead 1 1024, .clsRead 3 4096, .destage 4096 0 1 0, .destage 0 (2 ^ 64) 1 0,
    .destage 0 0 (2 ^ 32) 0, .nvmeCompletion 0 65536 0 true 0, .nvmeCompletion 0 0 32768 true 0, .nvmeCommandTimeout 0 65536 0,
    .nvmeAbortTimeout 0 65536 true 0, .driveDma 0 65536 0 0 true [] 0, .sanitizeProgress 0 17 0] : List Instr).all (fun i => !i.wf) = true := by decide

theorem test_wf_refuses3 :
  ([.storageLinkUp 0 ⟨0, true, true, 0, [⟨1, 8, 512, true⟩, ⟨1, 8, 512, true⟩], 0, 2⟩ 0, .chunkLoaded 65536 [] 0, .tokenPost 65536 0,
    .tierDemotion 0 4 0, .pageMoveEnd 65536 0 [] 0, .decodeHeldPost 65536 0, .sequenceContextLoaded 65536 0, .arbitrationResult 8 1 false 0,
    .identify 0 0 { hdr0 with outLen := 2 ^ 32 }, .ringDelete 0 0 hdr0 256, .logRead 0 0 hdr0 0 (2 ^ 32) 0, .logRead 0 0 hdr0 0 0 (2 ^ 32),
    .keyLoad 0 0 hdr0 65536 0 [], .keyRelease 0 0 hdr0 65536, .volDestroy 0 0 hdr0 65536, .volAttach 0 0 hdr0 0 2 0 false,
    .volDetach 0 0 hdr0 65536 1 0, .poolDefine 0 0 hdr0 0 (.t0 [(256, 0, 0)]), .poolDefine 0 0 hdr0 0 (.t1 (2 ^ 64) 0),
    .poolDefine 0 0 hdr0 0 (.t2 0 (2 ^ 64)), .poolDefine 0 0 hdr0 0 (.t3 65536), .poolDefine 0 0 hdr0 256 (.reserved 4), .seqDestroy 0 0 hdr0 65536,
    .shardLoad 0 0 hdr0 (2 ^ 32) 0 0 0] : List Instr).all (fun i => !i.wf) = true := by decide

theorem test_wf_refuses4 :
  ([.shardLoad 0 0 hdr0 0 (2 ^ 64) 0 0, .shardLoad 0 0 hdr0 0 0 (2 ^ 64) 0, .shardLoad 0 0 hdr0 0 0 0 (2 ^ 64),
    .ckptArm 0 0 hdr0 (2 ^ 64) (.volume 0 0) 0 [], .ckptRestore 0 0 hdr0 (.volume 0 0) 65536 0 [],
    .witDefine 0 0 { hdr0 with paramLen := 2 ^ 32 } ⟨0, [], 2, 0, [], [], 100⟩, .rxDescriptor 0 1 65536 64 0 false,
    .rxDescriptor 0 1 0 (2 ^ 32) 0 false, .rxDescriptor 0 1 0 64 (2 ^ 64) false, .telemetryDescriptor 0 1 65536 4096 0 false 0,
    .spdmGetCertificate true none 16 0 0, .spdmGetCertificate true none 0 65536 0, .spdmGetCertificate true none 0 0 65536, .spdmChallenge true 0 [],
    .spdmGetMeasurements true none 255 true [], .spdmGetMeasurements true none 256 true (List.replicate 32 0), .cxlMemRead false 64 32,
    .cxlMemRead false 32 64, .cxlMemWrite false 64 [], .cxlMemWrite false 32 (List.replicate 64 0), .vfEnable true 65536 0] : List Instr).all (fun i => !i.wf) = true := by decide

/-! ## Instruction words (spec/05, Tables 5.1 and 5.2) -/

theorem test_word_addi : decodeWord (0#1 ++ 0#3 ++ 0#1 ++ 0x14#6 ++ 1#5 ++ 2#5 ++ 1#1 ++ 0x3FF#10) = ⟨0, false, .addi ⟨1, 2, true, 0x3FF⟩⟩ := by decide
theorem test_word_sel : decodeWord (0#1 ++ 1#3 ++ 0#1 ++ 0x13#6 ++ 1#5 ++ 2#5 ++ 3#5 ++ 4#3 ++ 0#3) = ⟨1, false, .sel ⟨1, 2, 3, 4, 0⟩⟩ := by decide
theorem test_word_movhi : decodeWord (0#1 ++ 0#3 ++ 0#1 ++ 0x19#6 ++ 9#5 ++ 0xABCD#16) = ⟨0, false, .movhi ⟨9, 0xABCD⟩⟩ := by decide
theorem test_word_accadd : decodeWord (0#1 ++ 0#3 ++ 0#1 ++ 0x21#6 ++ 7#3 ++ 2#3 ++ 1#1 ++ 0#14) = ⟨0, false, .accadd ⟨7, 2, true, 0⟩⟩ := by decide
theorem test_word_ext : decodeWord (0#1 ++ 0#3 ++ 0#1 ++ 0x1E#6 ++ 3#5 ++ 5#3 ++ 8#4 ++ 4#3 ++ 1#1 ++ 0#5) = ⟨0, false, .ext ⟨3, 5, 8, 4, true, 0⟩⟩ := by decide
theorem test_word_lda : decodeWord (0#1 ++ 0#3 ++ 0#1 ++ 0x24#6 ++ 6#3 ++ 0#2 ++ 4#5 ++ 0#3 ++ 1#2 ++ 0x20#6) = ⟨0, false, .lda ⟨6, 0, 4, 0, 1, 0x20⟩⟩ := by decide

/-! ## Single instructions (spec/02, spec/03, spec/05) -/

/-- The state after a command. -/
def after (i : Instr) (s : State) : State := match exec i s with | .next t => t | _ => s
/-- A running unit with two general registers set. -/
def two (a b : Word) : State := cs 5 fun c => { c with regs.g := (c.regs.g.set 2 a).set 3 b }
/-- A register of unit 5, and its CORE_STATUS, after a command. -/
def reg (i : Instr) (s : State) (r : BitVec 5) : Word × Word := (((after i s).core 5).getG r, ((after i s).core 5).ctl.status)

theorem test_add_saturates : reg (.add 5 x0 ⟨1, 2, 3, 0, true, 0⟩) (two 0x7FFFFFFF 1) 1 = (0x7FFFFFFF, 1) := by decide
theorem test_add_wraps : reg (.add 5 x0 ⟨1, 2, 3, 0, false, 0⟩) (two 0x7FFFFFFF 1) 1 = (0x80000000, 2) := by decide
theorem test_sub_source_is_destination : reg (.sub 5 x0 ⟨3, 2, 3, 0, false, 0⟩) (two 1 3) 3 = (0xFFFFFFFE, 0) := by decide
theorem test_mul_saturates_low : reg (.mul 5 x0 ⟨1, 2, 3, 0, true, 0⟩) (two 0x80000000 2) 1 = (0x80000000, 1) := by decide
theorem test_mulh : reg (.mulh 5 x0 ⟨1, 2, 3, 0, false, 0⟩) (two 0xFFFFFFFF 2) 1 = (0xFFFFFFFF, 0) := by decide
theorem test_mulhu : reg (.mulhu 5 x0 ⟨1, 2, 3, 0, false, 0⟩) (two 0xFFFFFFFF 2) 1 = (1, 0) := by decide
theorem test_sar : reg (.sar 5 x0 ⟨1, 2, 3, 0, false, 0⟩) (two 0x80000000 33) 1 = (0xC0000000, 0) := by decide
theorem test_fmul_minus_one_squared : reg (.fmul 5 x0 ⟨1, 2, 3, 0, true, 0⟩) (two 0x80000000 0x80000000) 1 = (0x7FFFFFFF, 1) := by decide
theorem test_fmul_wraps : reg (.fmul 5 x0 ⟨1, 2, 3, 0, false, 0⟩) (two 0x80000000 0x80000000) 1 = (0x80000000, 2) := by decide
theorem test_esadd_ignores_sat : reg (.esadd 5 x0 ⟨1, 2, 3, 0, true, 0⟩) (two 0x7FFFFFFF 1) 1 = (0x80000000, 4) := by decide
theorem test_movhi_keeps_low : reg (.movhi 5 x0 ⟨2, 0xABCD⟩) (two 0x12345678 0) 2 = (0xABCD5678, 0) := by decide
theorem test_cmp_signed : ((after (.cmp 5 x0 ⟨1, 2, 2, 3, 0⟩) (two 0xFFFFFFFF 1)).core 5).getP 1 = true := by decide
theorem test_cmp_unsigned : ((after (.cmp 5 x0 ⟨1, 4, 2, 3, 0⟩) (two 0xFFFFFFFF 1)).core 5).getP 1 = false := by decide
theorem test_write_to_p0_discarded : ((after (.cmp 5 x0 ⟨0, 1, 2, 2, 0⟩) (two 7 7)).core 5).getP 0 = true := by decide
theorem test_store_is_little_endian :
    (after (.st 5 x0 ⟨2, 3, 2, false, 0, 1⟩) (two 0x11223344 0x100)).peek (.lmem 5) 0x104 = 0x44 ∧
    (after (.st 5 x0 ⟨2, 3, 2, false, 0, 1⟩) (two 0x11223344 0x100)).peek (.lmem 5) 0x107 = 0x11 := by decide
theorem test_store_past_local_memory_raises :
    ((after (.st 5 x0 ⟨2, 3, 2, false, 0, 0⟩) (two 0 0x40000)).core 5).ctl.cause = BitVec.ofNat 32 Cause.unmapped.code ∧
    ((after (.st 5 x0 ⟨2, 3, 2, false, 0, 0⟩) (two 0 0x40000)).core 5).ctl.badaddr = 0x40000 := by decide
theorem test_jump_ignores_low_bits : ((after (.jmp 5 x0 ⟨0, 2, 0⟩) (two 0xABCD1237 0)).core 5).regs.pc = 0x1234 := by decide
theorem test_callr_g31_reads_first :
    ((after (.callr 5 x0 ⟨0, 31, 0⟩) (cs 5 fun c => { c with regs.g := c.regs.g.set 31 0x400 })).core 5).regs.pc = 0x400 ∧
    ((after (.callr 5 x0 ⟨0, 31, 0⟩) (cs 5 fun c => { c with regs.g := c.regs.g.set 31 0x400 })).core 5).getG 31 = 4 := by decide
theorem test_pair_reads_before_writing :
    reg (.pipPair 5 0 false ⟨1, 2, 3⟩ ⟨1, 3, 2⟩) (two 7 9) 2 = (9, 0) ∧ reg (.pipPair 5 0 false ⟨1, 2, 3⟩ ⟨1, 3, 2⟩) (two 7 9) 3 = (7, 0) := by decide
theorem test_loop_of_zero_skips_its_body : ((after (.loop 5 x0 ⟨2, 0, 3⟩) (two 0 0)).core 5).regs.pc = 0x14 := by decide
theorem test_step_takes_the_front : ∃ t, step { two 1 2 with pending := [.add 5 x0 ⟨1, 2, 3, 0, false, 0⟩, .btAbort] } = .next t ∧ t.pending = [.btAbort] :=
  ⟨_, rfl, rfl⟩
theorem test_step_idles : step State.reset = .next State.reset := rfl

/-! ## Premises of the statements about core instructions -/

/-- A unit that runs after reset issues whatever meets no decode condition. -/
theorem issues (op : CoreOp) (h : opLegal 0 op = true) : (cs 5 id).Issues 5 x0 op := ⟨by unfold State.Ready; decide, h, by decide, rfl⟩
/-- The same of a Steward. -/
theorem issues_steward (op : CoreOp) (h : opLegal 0 op = true) : (cs 257 id).Issues 257 x0 op := ⟨by unfold State.Ready; decide, h, by decide, rfl⟩
/-- A unit with registers set issues too. -/
theorem issues_two (a b : Word) (op : CoreOp) (h : opLegal 0 op = true) (hr : (two a b).Ready 5 ∧ ((two a b).core 5).guard x0 = true ∧ ((two a b).core 5).regs.pc = 0) :
    (two a b).Issues 5 x0 op := ⟨hr.1, by rw [hr.2.2]; exact h, hr.2.1, rfl⟩

def rr : FRR := ⟨2, 4, 6, 0, true, 0⟩

theorem test_hyp_NarrowedResults : (cs 5 id).Issues 5 x0 (.add rr) ∧ (cs 5 id).Issues 5 x0 (.sub rr) ∧ (cs 5 id).Issues 5 x0 (.mul rr) ∧
    (cs 5 id).Issues 5 x0 (.shl rr) ∧ (cs 5 id).Issues 5 x0 (.addi ⟨1, 2, true, 0x200⟩) :=
  ⟨issues _ (by decide), issues _ (by decide), issues _ (by decide), issues _ (by decide), issues _ (by decide)⟩
theorem test_hyp_AccumulatorAndRoundedResults : (cs 5 id).Issues 5 x0 (.accset ⟨7, 31, 0⟩) ∧ (cs 5 id).Issues 5 x0 (.accclr ⟨7, 0, 0⟩) ∧
    (cs 5 id).Issues 5 x0 (.accadd ⟨7, 0, true, 0⟩) ∧ (cs 5 id).Issues 5 x0 (.fmul ⟨1, 2, 3, 4, true, 0⟩) ∧
    (cs 5 id).Issues 5 x0 (.ext ⟨1, 7, 8, 4, true, 0⟩) ∧ (cs 5 id).Issues 5 x0 (.mac ⟨7, 1, 2, 4, true, 0⟩) ∧
    (cs 5 id).Issues 5 x0 (.msu ⟨0, 1, 2, 0, false, 0⟩) :=
  ⟨issues _ (by decide), issues _ (by decide), issues _ (by decide), issues _ (by decide), issues _ (by decide), issues _ (by decide), issues _ (by decide)⟩
theorem test_hyp_ExactSumResults : (two 0x7FFFFFFF 0).Issues 5 x0 (.esadd ⟨1, 2, 3, 0, true, 0⟩) ∧ (two 0x7FFFFFFF 1).Issues 5 x0 (.esadd ⟨1, 2, 3, 0, true, 0⟩) ∧
    (cs 5 id).Issues 5 x0 (.esaddD rr) ∧ (two 0 0x80000000).Issues 5 x0 (.esaddD ⟨4, 2, 2, 0, false, 0⟩) ∧
    ((two 0 0x80000000).core 5).getG2 2 = 0x8000000000000000 :=
  ⟨issues_two _ _ _ (by decide) (by unfold State.Ready; decide), issues_two _ _ _ (by decide) (by unfold State.Ready; decide), issues _ (by decide),
    issues_two _ _ _ (by decide) (by unfold State.Ready; decide), by decide⟩
theorem test_hyp_PlainAndComparisonResults : (∀ op ∈ [CoreOp.and ⟨1, 2, 3, 0, false, 0⟩, .or ⟨1, 2, 3, 0, false, 0⟩, .xor ⟨1, 2, 3, 0, false, 0⟩, .shr ⟨1, 2, 3, 0, false, 0⟩,
      .sar ⟨1, 2, 3, 0, false, 0⟩, .min ⟨1, 2, 3, 0, false, 0⟩, .max ⟨1, 2, 3, 0, false, 0⟩, .minu ⟨1, 2, 3, 0, false, 0⟩, .maxu ⟨1, 2, 3, 0, false, 0⟩,
      .mulh ⟨1, 2, 3, 0, false, 0⟩, .mulhu ⟨1, 2, 3, 0, false, 0⟩, .sel ⟨1, 2, 3, 7, 0⟩, .andi ⟨1, 2, false, 0x200⟩, .ori ⟨1, 2, false, 0x1FF⟩, .xori ⟨1, 2, false, 1⟩,
      .movi ⟨31, 0x8000⟩, .movhi ⟨31, 0xFFFF⟩, .mfc ⟨1, 0, 1⟩, .cmp ⟨0, 7, 2, 3, 0⟩, .cmpi ⟨7, 0, 2, 0x3FF⟩], (cs 5 id).Issues 5 x0 op) := by
  intro op h
  exact issues op (by revert op; decide)
theorem test_hyp_MemoryAccesses : memCell 5 (.lmem 0x100) = some (.lmem 5, 0x100) ∧ memCell 5 (.bmem 0) = some (.bmem 0, 0) ∧
    (cs 5 id).place 5 0x3FFF8 8 true = .ok (.lmem 0x3FFF8) ∧ (cs 5 id).place 5 0x3FFFF 1 false = .ok (.lmem 0x3FFFF) ∧
    (cs 5 id).Clean 5 (.lmem 0x3FFF8) 8 ∧ (cs 5 id).Issues 5 x0 (.ld ⟨2, 4, 3, false, 1, 63⟩) ∧ (cs 5 id).Issues 5 x0 (.ld ⟨2, 3, 0, true, 0, 0⟩) ∧
    (cs 5 id).Issues 5 x0 (.lda ⟨7, 0, 3, 0, 1, 0⟩) ∧ (cs 5 id).Issues 5 x0 (.st ⟨2, 3, 3, false, 2, 1⟩) ∧ (cs 5 id).Issues 5 x0 (.sta ⟨7, 0, 3, 0, 0, 0⟩) :=
  ⟨by decide, by decide, by decide, by decide, ⟨by decide, by decide⟩, issues _ (by decide), issues _ (by decide), issues _ (by decide), issues _ (by decide), issues _ (by decide)⟩
/-- Aperture 0 enabled for loads, fences open over the first MiB. -/
def ap (ctl lo hi : Word) : State := cs 5 fun c => { c with ctl.apCtl := c.ctl.apCtl.set 0 ctl, ctl.fenceLo := lo, ctl.fenceHi := hi }
theorem test_hyp_DSpaceAccesses : ((ap 1 0 1).core 5).ctl.apCtl[(0 : Fin 4)] = 1 ∧ (ap 1 0 1).place 5 0x400FFFF8 8 false = .ok (.hbm ((ap 1 0 1).workKey 0xFFFF8)) ∧
    (ap 1 0 1).place 5 0x40100000 8 false = .error .apFence ∧ (ap 1 0 1).place 5 0x40000000 8 true = .error .apDisabled ∧
    (ap 0 0 1).place 5 0x40000000 8 false = .error .apDisabled ∧ (ap 1 1 2).place 5 0x400FFFFF 1 false = .error .apFence ∧
    (cs 5 id).place 5 0x3FFFF 2 false = .error .misaligned ∧ (cs 5 id).place 5 0x1400000 4 false = .error .unmapped ∧
    (cs 5 id).place 5 0x13FFFFF 1 false = .ok (.bmem 0x3FFFFF) := by decide
/-- A word of a core's own memory is uncorrectable. -/
def badLocal : State := { cs 5 id with lmem := State.reset.lmem.set 5 { State.reset.lmem[5] with bad := [0] } }
theorem test_hyp_DSpaceAccesses_uncorrectable : badLocal.place 5 0 4 false = .ok (.lmem 0) ∧
    (match badLocal.ramAt 5 (.lmem 0) with | some (r, pw, o) => r.anyBad pw o 4 && !r.anySoft pw o 4 | none => false) = true ∧
    opOf (.ld 5 x0 ⟨2, 3, 2, false, 0, 0⟩) = some (5, x0, .ld ⟨2, 3, 2, false, 0, 0⟩) ∧ badLocal.Ready 5 := by unfold State.Ready; decide
theorem test_hyp_ControlRegisterWrites : (two 5 0).Issues 5 x0 (.mtc ⟨2, 0, 1⟩) ∧ (two 4 0).Issues 5 x0 (.mtc ⟨2, 0, 1⟩) ∧ (two 5 0).Issues 5 x0 (.mtc ⟨2, 0, 39⟩) ∧
    crListed 39 = true ∧ crListed 1 = true :=
  ⟨issues_two _ _ _ (by decide) (by unfold State.Ready; decide), issues_two _ _ _ (by decide) (by unfold State.Ready; decide),
    issues_two _ _ _ (by decide) (by unfold State.Ready; decide), by decide, by decide⟩
theorem test_hyp_ControlTransfers : ∀ op ∈ [CoreOp.br ⟨0, 0xFFFF⟩, .call ⟨0, 1⟩, .jmp ⟨0, 31, 0⟩, .callr ⟨0, 31, 0⟩, .ret ⟨0⟩], (cs 5 id).Issues 5 x0 op := by
  intro op h
  exact issues op (by revert op; decide)
theorem test_hyp_StopsAndReturns : (cs 5 id).Issues 5 x0 (.halt ⟨0⟩) ∧ (cs 5 id).Issues 5 x0 (.brk ⟨0⟩) ∧ (cs 5 id).Issues 5 x0 (.eret ⟨0⟩) ∧
    ((cs 5 id).core 5).loops.active = [] ∧ ((cs 5 id).core 5).loops.repPend = false ∧
    ((cs 5 id).core ((cs 5 id).core 5).ownerUnit).ports.cmsg.length + 2 ≤ 256 :=
  ⟨issues _ (by decide), issues _ (by decide), issues _ (by decide), by decide, by decide, by decide⟩
/-- A unit with active loops. -/
def loops (l : List LoopLevel) : State := cs 5 fun c => { c with loops.active := l }
def lv (stop : BitVec 16) (n : Word) (e : Bool) : LoopLevel := ⟨0, stop, n, e⟩
theorem test_hyp_LoopsAndRepetition : (∀ l ∈ [[], [lv 8 2 false], [lv 8 2 false, lv 8 2 false, lv 8 2 false], [lv 8 2 false, lv 8 2 false, lv 8 2 false, lv 8 2 false],
      [lv 0 2 false], [lv 0 0 false], [lv 0 1 false], [lv 0 1 false, lv 8 2 false], [lv 0 1 true]], (loops l).Ready 5 ∧ ((loops l).core 5).guard x0 = true ∧
      ((loops l).core 5).regs.pc = 0 ∧ ((loops l).core 5).loops.repPend = false ∧ ((loops l).core 5).loops.active = l) ∧
    opLegal 0 (.loop ⟨2, 0, 0⟩) = true ∧ opLegal 0 (.loopx ⟨0⟩) = true ∧ opLegal 0 (.lpop ⟨0⟩) = true ∧ opLegal 0 (.nop ⟨0⟩) = true := by unfold State.Ready; decide
/-- I-space holds a word after the one at PC. -/
def repAt (n : Word) (w : Word) : State :=
  { two n 0 with imem := State.reset.imem.set 5 (State.reset.imem[5].put 4 4 (natLe 4 w.toNat)) }
theorem test_hyp_LoopsAndRepetition_rep : let s := repAt 1 (0#1 ++ 0#3 ++ 0#1 ++ 0x14#6 ++ 7#5 ++ 8#5 ++ 1#1 ++ 1#10)
    s.Ready 5 ∧ (s.core 5).guard x0 = true ∧ (s.core 5).guard ⟨0, true, false, none⟩ = false ∧ (s.core 5).getG 2 = 1 ∧ (s.core 5).getG 3 = 0 ∧
    (decodeWord (s.imemWord 5 4)).op = .addi ⟨7, 8, true, 1⟩ ∧ repTargetCause 0 2 (decodeWord (s.imemWord 5 4)).op = none ∧
    repTargetCause 0 3 (decodeWord (s.imemWord 5 4)).op = none ∧ (s.core 5).loops.active = [] ∧ (s.imem[5]).bad = [] := by unfold State.Ready; decide
theorem test_hyp_IssueAndDecode : (cs 5 id).Issues 5 x0 (.addi ⟨1, 2, true, 1⟩) ∧ (cs 5 id).Issues 5 x0 (.nop ⟨0⟩) ∧ (cs 5 id).Issues 5 x0 (.fence ⟨0⟩) ∧
    opOf (.addi 5 { x0 with residue := true } ⟨1, 2, true, 1⟩) = some (5, { x0 with residue := true }, .addi ⟨1, 2, true, 1⟩) ∧
    (xor (((cs 5 id).core 5).getP (⟨1, false, false, none⟩ : Issue).pred) false) = false ∧ (State.reset.core 5).run.state ≠ .running ∧
    ((cs 5 fun c => { c with regs.past := true }).core 5).regs.past = true ∧ opLegal 0 (.reserved 0x3F 0) = false ∧
    opLegal 0 (.pair ⟨1, 0, 0⟩ ⟨0, 1, 0⟩) = false ∧ opOf (.pipPair 5 0 false ⟨1, 0, 0⟩ ⟨0, 1, 0⟩) = some (5, x0, .pair ⟨1, 0, 0⟩ ⟨0, 1, 0⟩) :=
  ⟨issues _ (by decide), issues _ (by decide), issues _ (by decide), by decide, by decide, by decide, by decide, by decide, by decide, by decide⟩
theorem test_hyp_IssueAndDecode_fetch :
    (({ cs 5 id with imem := State.reset.imem.set 5 { State.reset.imem[5] with bad := [0] } } : State).imem[5]).anyBad 4 0 4 = true := by decide
theorem test_hyp_PipPairs : (cs 5 id).Issues 5 x0 (.pair ⟨1, 0, 0⟩ ⟨0xB, 0, 31⟩) ∧ (cs 5 id).Issues 5 x0 (.pair ⟨0xE, 2, 4⟩ ⟨0xF, 1, 2⟩) ∧
    (two 0x3FFFC 0x3FFFC).Clean 5 (.lmem 0x3FFFC) 4 ∧ ((two 0x3FFFC 0x3FFFC).core 5).getG 2 = ((two 0x3FFFC 0x3FFFC).core 5).getG 3 :=
  ⟨issues _ (by decide), issues _ (by decide), ⟨by decide, by decide⟩, by decide⟩
theorem test_hyp_MemoryAccesses_held : (cs 5 id).placeHeld (.lmem 0x100) = false ∧ State.reset.placeHeld (.hbm 0) = false ∧ State.reset.sideHeld 64 (.hbm 64) = false ∧
    (let s : State := { ap 1 0 1 with hbmCtl := State.reset.hbmCtl.set 0 { State.reset.hbmCtl[0] with phase := .draining } }
     s.place 5 0x40000000 8 false = .ok (.hbm (s.workKey 0)) ∧ s.placeHeld (.hbm (s.workKey 0)) = true ∧ s.keyHeld 0 = true ∧ s.sideHeld 1 (.hbm 0) = true) := by decide
theorem test_hyp_StopsAndReturns_stepped : (cs 5 fun c => { c with run.stepping := true }).Issues 5 x0 (.halt ⟨0⟩) ∧
    ((cs 5 fun c => { c with run.stepping := true }).core 5).loops.active = [] :=
  ⟨⟨by unfold State.Ready; decide, by decide, by decide, rfl⟩, by decide⟩
theorem test_hyp_LoopsAndRepetition_stopped : let s := repAt 2 (0#1 ++ 0#3 ++ 0#1 ++ 0x14#6 ++ 7#5 ++ 8#5 ++ 1#1 ++ 1#10)
    s.Ready 5 ∧ (s.core 5).guard ⟨0, false, false, some 1⟩ = true ∧ (⟨0, false, false, some 1⟩ : Issue).stop = some 1 ∧ (s.core 5).getG 2 = 2 ∧
    (s.core 5).run.stepping = false ∧ repTargetCause 0 2 (decodeWord (s.imemWord 5 4)).op = none ∧ (decodeWord (s.imemWord 5 4)).pred = 0 := by unfold State.Ready; decide

/-! ## Premises of the statements about ports, engines and movers -/

/-- Any state in which unit 5 is ready at PC 0 issues. -/
theorem issues_at (s : State) (op : CoreOp) (h : opLegal 0 op = true) (hr : s.Ready 5 ∧ (s.core 5).guard x0 = true ∧ (s.core 5).regs.pc = 0) :
    s.Issues 5 x0 op := ⟨hr.1, by rw [hr.2.2]; exact h, hr.2.1, rfl⟩
/-- Unit 5 with its queues set. -/
def ports (f : Ports → Ports) : State := cs 5 fun c => { c with ports := f c.ports }
def engQ (q : EngineQ) : State := ports fun p => { p with eng := p.eng.set 3 q }
def dmaQ (q : EngineQ) : State := ports fun p => { p with dma := q }
def eq0 (cmd cpl : List Word) (n : Nat) : EngineQ := { EngineQ.empty with cmd := cmd, cpl := cpl, committed := n }

theorem test_hyp_CommandQueues : (engQ (eq0 (List.replicate 63 0) [] 0)).Issues 5 x0 (.out ⟨2, 0x0300⟩) ∧ (engQ (eq0 [] [] 0)).Issues 5 x0 (.out ⟨2, 0x0303⟩) ∧
    (dmaQ (eq0 (List.replicate 31 0) [] 0)).Issues 5 x0 (.out ⟨2, 0x0400⟩) ∧ (dmaQ (eq0 [] [] 0)).Issues 5 x0 (.out ⟨2, 0x0403⟩) :=
  ⟨issues_at _ _ (by decide) (by unfold State.Ready; decide), issues_at _ _ (by decide) (by unfold State.Ready; decide),
    issues_at _ _ (by decide) (by unfold State.Ready; decide), issues_at _ _ (by decide) (by unfold State.Ready; decide)⟩
theorem test_hyp_TransmitPorts : (cs 5 id).Issues 5 x0 (.out ⟨2, 0x0517⟩) ∧ (cs 5 id).Issues 5 x0 (.out ⟨2, 0x0500⟩) ∧
    ((cs 5 id).peerQ (peerUnit 5 7) 5).length < 4 ∧ ((cs 5 id).core 5).run.haltMsg = none ∧ ((cs 5 id).core 5).ports.mbTx = [] ∧
    ((cs 5 id).core ((cs 5 id).core 5).ownerUnit).ports.cmsg.length + 2 ≤ 256 ∧
    ((cs 5 fun c => { c with run.haltMsg := some (0, 0), ports.mbTx := List.replicate 7 0 }).core 5).ports.mbTx.length < 8 ∧
    (257 : UnitId) = stewardUnit 1 ∧ (cs 257 id).Issues 257 x0 (.out ⟨2, 0x0507⟩) ∧ (cs 257 id).Issues 257 x0 (.out ⟨2, 0x0533⟩) ∧
    ((cs 257 id).smbQ 7 1).length < 16 ∧ ((cs 257 id).core 0).ports.mbRx.length < 8 ∧ ((cs 257 id).core 257).ports.ctxSel = 0 :=
  ⟨issues _ (by decide), issues _ (by decide), by decide, by decide, by decide, by decide, by decide, by decide, issues_steward _ (by decide),
    issues_steward _ (by decide), by decide, by decide, by decide⟩
theorem test_hyp_TransmitPorts_full_queue :
    let o := ((cs 5 id).core 5).ownerUnit
    256 < (((cs 5 id).modCore o fun c => { c with ports.cmsg := List.replicate 255 0 }).core o).ports.cmsg.length + 2 := by decide
theorem test_hyp_ReceivePorts : (engQ (eq0 [] [7] 0)).Issues 5 x0 (.inn ⟨2, 0x0301⟩) ∧ (dmaQ (eq0 [] [7] 0)).Issues 5 x0 (.inn ⟨2, 0x0401⟩) ∧
    (ports fun p => { p with mbRx := [7] }).Issues 5 x0 (.inn ⟨2, 0x0501⟩) ∧ (ports fun p => { p with peerRx := p.peerRx.set 7 [7] }).Issues 5 x0 (.inn ⟨2, 0x0527⟩) ∧
    (cs 257 id).Issues 257 x0 (.inn ⟨2, 0x0517⟩) ∧ (cs 257 id).Issues 257 x0 (.inn ⟨2, 0x0530⟩) ∧
    ((cs 257 fun c => { c with ports.smbRx := c.ports.smbRx.set 7 [7] }).core 257).ports.smbRx[(7 : Fin 8)] = [7] ∧
    ((cs 257 fun c => { c with ports.cmsg := [7] }).core 257).ports.cmsg = [7] :=
  ⟨issues_at _ _ (by decide) (by unfold State.Ready; decide), issues_at _ _ (by decide) (by unfold State.Ready; decide),
    issues_at _ _ (by decide) (by unfold State.Ready; decide), issues_at _ _ (by decide) (by unfold State.Ready; decide), issues_steward _ (by decide),
    issues_steward _ (by decide), by decide, by decide⟩
/-- A schedule image runs. -/
def image0 : Image := ⟨0, 10, 4, 0, 0, 0, 1, 0, 7, 0, [], [[], [], [], [], [], [], [], []], [], [], [], []⟩
theorem test_hyp_CounterPorts : ((cs 5 id).core 5).cnt.sel = Vector.replicate 8 0 ∧
    (∀ op ∈ [CoreOp.out ⟨2, 0x0607⟩, .out ⟨2, 0x0617⟩, .out ⟨2, 0x0620⟩, .inn ⟨2, 0x0621⟩, .inn ⟨2, 0x0700⟩, .out ⟨2, 0x0704⟩, .inn ⟨2, 0x0705⟩], (cs 5 id).Issues 5 x0 op) ∧
    (cs 5 id).time.now ≤ 0 ∧ (3#16).toNat < image0.slots := by
  refine ⟨by decide, fun op h => issues op (by revert op; decide), by decide, by decide⟩
theorem test_hyp_BlockingPorts : (ports fun p => { p with mbRx := [] }).Issues 5 x0 (.inn ⟨2, 0x0501⟩) ∧ (cs 257 id).Issues 257 x0 (.out ⟨2, 0x03FF⟩) ∧
    (cs 5 id).Issues 5 x0 (.inn ⟨2, 0x050F⟩) ∧ (cs 5 id).Issues 5 x0 (.out ⟨2, 0xFFFF⟩) ∧ (cs 5 id).Issues 5 x0 (.inn ⟨2, 0x0706⟩) ∧
    (let c := (State.reset.modCore 5 fun c => { c with run.state := .waiting, run.waitOp := some (.inn ⟨2, 0x0501⟩), ports.mbRx := [7] }).core 5;
      c.run.state = .waiting ∧ c.run.waitOp = some (.inn ⟨2, 0x0501⟩) ∧ c.run.waitRep = none ∧ c.run.stepping = false ∧ c.loops.active = [] ∧ c.ports.mbRx = [7]) :=
  ⟨issues_at _ _ (by decide) (by unfold State.Ready; decide), issues_steward _ (by decide), issues _ (by decide), issues _ (by decide), issues _ (by decide), by decide⟩
theorem test_hyp_CoreControl : (State.reset.core 5).run.state = .reset ∧ ((cs 5 id).core 5).run.state = .running ∧
    ((State.reset.modCore 5 fun c => { c with run.state := .halted }).core 5).run.state = .halted ∧
    (let s := State.reset.modCore 5 fun c => { c with run.state := .halted };
     let t : State := { s with imem := s.imem.set 5 (s.imem[5].put 4 0 (natLe 4 (0#1 ++ 0#3 ++ 0#1 ++ 0x18#6 ++ 7#5 ++ 0x8000#16).toNat)) };
     decodeWord (t.imemWord 5 (t.core 5).regs.pc) = ⟨0, false, .movi ⟨7, 0x8000⟩⟩ ∧ (t.core 5).regs.past = false ∧ (t.core 5).loops.active = [] ∧
      (t.imem[5]).bad = [] ∧ (t.imem[5]).soft = []) := by decide
theorem test_hyp_WindowAndLatch : (0x4DC#12).toNat % 4 = 0 ∧ (0x4DC#12).toNat < 0x4E0 ∧ ((cs 5 id).core 5).run.state = .running ∧
    ((cs 5 fun c => { c with run.haltMsg := some (1, 2) }).core 5).run.haltMsg = some (1, 2) ∧ ((cs 5 id).core 5).ports.mbTx = [] := by decide
/-- A command in an engine's queue. -/
def engCmd (l : List Word) : State := engQ (eq0 l [] l.length)
/-- A command's words: the first, and zeros behind it. -/
def words (w : Word) (n : Nat) : List Word := w :: List.replicate n 0
theorem test_hyp_EngineCommands : ∀ l : List Word, l ∈ [words (10 + 256) 9, words (10 + 2 * 256) 9, words (9 + 3 * 256) 8, words (6 + 4 * 256) 5,
      words (6 + 5 * 256) 5, words (5 + 6 * 256) 4, words (13 + 7 * 256) 12, words 0 0, words 17 0, words (1 + 8 * 256) 0, words 16 15, words (1 + 6 * 256) 0,
      words (5 + 6 * 256 + 32) 4] → EngineQ.Front (((engCmd l).core 5).ports.eng[(3 : Fin 4)]) l.length l [] := by
  unfold EngineQ.Front; decide
def smaxWords : List Word := [5 + 6 * 256 + 9 * 65536, 0x3FFF0, 0x3FFF8, 0x1000000, 4]
theorem test_hyp_EngineResults : let s := engCmd smaxWords
    EngineQ.Front (s.core 5).ports.eng[(3 : Fin 4)] 5 smaxWords [] ∧
    smaxWords.map BitVec.toNat = [5 + 6 * 256 + (smaxWords.headD 0).toNat / 65536 % 256 * 65536, 0x3FFF0, 0x3FFF8, 0x1000000, 4] ∧ 0x3FFF8 % 8 = 0 ∧
    0x3FFF8 + 2 * 4 ≤ 0x40000 ∧ (s.lmem[5]).bad = [] ∧ (s.bmem[(bunchOf 5).val]'(bunchOf 5).isLt).bad = [] := by
  unfold EngineQ.Front; decide
/-- A segment descriptor in core-local SRAM: version 1, format 1, one block of fraction width 16. -/
def seg : State := let s := engCmd [6 + 4 * 256, 0x100, 0, 8, 0x200, 1]
  { s with lmem := s.lmem.set 5 (s.lmem[5].put 8 0x100 (natLe 24 (1 + 1 * 2 ^ 16 + 16 * 2 ^ 32 + 2 * 2 ^ 40 + 1 * 2 ^ 64))) }
theorem test_hyp_EngineResults_sum : (seg.segAt 5 0x100).reject = none ∧ esBytes (seg.segAt 5 0x100).fmt = 3 ∧
    EngineQ.Front (seg.core 5).ports.eng[(3 : Fin 4)] 6 [6 + 4 * 256, 0x100, 0, 8, 0x200, 1] [] ∧ (seg.lmem[5]).bad = [] := by
  unfold EngineQ.Front; decide
/-- A command in a mover's queue. -/
def dmaCmd (l : List Word) : State := dmaQ (eq0 l [] l.length)
theorem test_hyp_MoverTransfers : let f := dmaCmd [5 + 2 * 256 + 255 * 65536, 0x3FFFF, 0x80000000, 1, 7]
    let c := dmaCmd [6 + 256, 0, 0x80000000, 64, 0, 64]
    let d := dmaCmd [8 + 3 * 256, 0, 0x80000000, 0x1000000, 0x80000000, 8, 2, 0x10001]
    EngineQ.Front (f.core 5).ports.dma 5 [5 + 2 * 256 + 255 * 65536, 0x3FFFF, 0x80000000, 1, 7] [] ∧ sideOf (0x3FFFF + 0x80000000 * 2 ^ 32) = some (.win 0x3FFFF) ∧
    f.SideReady 5 (.win 0x3FFFF) 1 ∧
    EngineQ.Front (c.core 5).ports.dma 6 [6 + 256, 0, 0x80000000, 64, 0, 64] [] ∧ sideOf 64 = some (.hbm 64) ∧ c.SideReady 5 (.win 0) 64 ∧
    EngineQ.Front (d.core 5).ports.dma 8 [8 + 3 * 256, 0, 0x80000000, 0x1000000, 0x80000000, 8, 2, 0x10001] [] ∧ d.SideReady 5 (.win 0) 72 ∧
    d.SideReady 5 (.win 0x1000000) 72 := by
  unfold EngineQ.Front State.SideReady; decide
theorem test_hyp_MoverTransfers_apart : Apart (.win 0) 72 (.win 0x1000000) 72 ∧ Apart (.win 0) 64 (.hbm 64) 64 := by
  unfold Apart; decide
theorem test_hyp_MoverTransfers_fence :
    ((dmaCmd []).modCore 5 fun c => { c with ctl.fenceHi := 1 }).SideReady 5 (.hbm 64) 64 := by
  unfold State.SideReady; decide
theorem test_hyp_LoadsInstructionSpace : let l : List Word := [6 + 4 * 256 + (5 / 8 % 16 * 2 ^ 24), 0, 0x80000000, 5, 0xFFFC, 4]
    let s : State := State.reset.modCore 257 fun c => { c with run.state := .running, ports.dma := eq0 l [] 6 }
    EngineQ.Front (s.core 257).ports.dma 6 l [] ∧ s.SideReady 257 (.win 0) 4 ∧ (s.core 5).run.state = .reset ∧ ((s.modCore 5 fun c => { c with run.state := .waiting }).core 5).run.state =
      .waiting ∧ s.loaderOf 1 < 8 := by
  unfold EngineQ.Front State.SideReady; decide
theorem test_hyp_LinksAndStacks : (State.reset.d2d[(0 : Fin 2)]).failed = false ∧ (({ State.reset with d2d := State.reset.d2d.set 0 ⟨8, true⟩ } : State).d2d[(0 : Fin 2)]).failed = true ∧
    (1 : Nat) = (0x24000000#32).toNat * 64 / (36864 * 2 ^ 20) % 4 ∧ (State.reset.hbmCtl[(1 : Fin 4)]).phase = .idle ∧
    (({ State.reset with hbmCtl := State.reset.hbmCtl.set 1 { State.reset.hbmCtl[1] with phase := .copying } } : State).hbmCtl[(1 : Fin 4)]).phase ≠ .idle := by decide
/-- Stack 0 split evenly, a copy of LEN from the start. -/
def copy (len busy : Nat) : State := fs [(R.hbmWorkMib, 18432), (R.hbmSpare, 3), (R.copyLen 0, len), (R.copyBusy 0, busy)] State.reset
theorem test_hyp_InStackCopy : (copy 18432 1).fld (R.copyBusy 0) = 1 ∧ State.reset.fld R.hbmSpare = 0 ∧ (copy 18432 0).fld R.hbmSpare ≠ 0 ∧
    (copy 18432 0).fld (R.copyLen 0) = 18432 ∧ (copy 18432 0).fld (R.copyDst 0) + 18432 ≤ 36864 - (copy 18432 0).fld R.hbmWorkMib ∧ (copy 18433 0).fld (R.copyLen 0) = 18433 := by decide
theorem test_hyp_CounterPorts_die1 : dieOf (128 : UnitId) = 1 ∧ dieOf (127 : UnitId) = 0 ∧ ((cs 128 id).core 128).guard x0 = true ∧ (cs 128 id).Ready 128 ∧
    opLegal 0 (.inn ⟨2, 0x0700⟩) = true := by unfold State.Ready; decide
/-- A core that waits on MB_RX. -/
def waiting (q : List Word) : Core := (State.reset.modCore 5 fun c => { c with run.state := .waiting, run.waitOp := some (.inn ⟨2, 0x0501⟩), ports.mbRx := q }).core 5
theorem test_hyp_BlockingPorts_time : 2 ^ ((waiting [7]).iowdExp + 10) - 1 < 2 ^ ((waiting [7]).iowdExp + 10) ∧ (waiting []).ports.mbRx = [] ∧ (waiting []).run.state = .waiting ∧
    (waiting []).run.waitOp = some (.inn ⟨2, 0x0501⟩) ∧ (waiting [7]).run.waitRep = none ∧ (waiting [7]).loops.active = [] ∧ (waiting [7]).ports.mbRx = [7] := by decide
theorem test_hyp_InStackCopy_timeout : (copy 18432 1).fld (R.copyProgress 0) ≤ 5 ∧ 5 ≤ (7 : Nat) ∧ State.reset.hbm.bytes.wf = true ∧ (State.reset.hbmCtl[(0 : Fin 4)]).snap.wf = true ∧
    (State.reset.hbmCtl[(0 : Fin 4)]).phase = .idle := by decide

/-! ## Premises of the statements about the invariant, fabric time and schedules -/

theorem test_hyp_CoreStepsKeepInvariant : let s : State := { cs 5 id with pending := [.nop 5 x0 ⟨0⟩] }
    s.Inv ∧ s.pending = [.nop 5 x0 ⟨0⟩] ∧ opOf (.nop 5 x0 ⟨0⟩) = some (5, x0, .nop ⟨0⟩) ∧ (5 : UnitId).val < 256 ∧ ∃ t, step s = .next t := by
  refine ⟨⟨fun u => ?_, fun u => ?_, fun u => ?_, by decide, by decide⟩, rfl, rfl, by decide, _, rfl⟩
  · by_cases h : u = 5
    · subst h; unfold Core.Inv; decide
    · have h' : ¬(5 = u.val) := fun e => h (Fin.ext e.symm)
      have e : (cs 5 id).core u = Core.reset u := by
        simp [cs, State.modCore, State.setCore, State.core, State.reset, h']
      show Core.Inv ((cs 5 id).core u)
      rw [e]; exact ⟨(by decide : (0#16 &&& 3#16) = 0#16), (by decide : (0#16 &&& 3#16) = 0#16), Nat.zero_le _, (by decide : (0x60000#32 &&& 4293984192#32) = 0#32), (by decide : (0x60000 : Nat) % 8 < 5), (by decide : (0#32 &&& 4294967280#32) = 0#32)⟩
  · show ((cs 5 id).imem[u.val]).bytes.wf = true
    simp [cs, State.modCore, State.setCore, State.reset, Ram.empty]; rfl
  · show ((cs 5 id).lmem[u.val]).bytes.wf = true
    simp [cs, State.modCore, State.setCore, State.reset, Ram.empty]; rfl
theorem test_hyp_WordsRoundTrip : CoreWord.wf ⟨7, true, .pair ⟨15, 31, 31⟩ ⟨0, 0, 0⟩⟩ = false ∧ CoreWord.wf ⟨7, false, .pair ⟨15, 31, 31⟩ ⟨0, 0, 0⟩⟩ = true := by decide

/-- A message of the device's domain. -/
def ptpMsg (two : Bool) : PtpMsg := ⟨0, 9, two, 3, 5, true, 248, 0⟩
/-- The PTP state of port 0 replaced. -/
def ptp (f : PtpSt → PtpSt) : State := { State.reset with time := { TimeSt.reset with ptp := TimeSt.reset.ptp.set 0 (f PtpSt.reset), primary := 0 } }
theorem test_hyp_PtpMessages : let s := ptp fun z => { z with pendingSync := some (9, 7, 1) }
    (ptpMsg true).domain = s.fld R.ftDomain ∧ (0 : Fin 33).val = s.time.primary ∧ s.time.ptp[(0 : Fin 33)].pendingSync = some ((ptpMsg true).seq, 7, 1) ∧
    (ptp fun z => { z with reqSent := some (9, 4) }).time.ptp[(0 : Fin 33)].reqSent = some ((ptpMsg false).seq, 4) ∧
    (ptp fun z => { z with reqSent := some (9, 4), respSeen := some (9, 5, 6, 1) }).time.ptp[(0 : Fin 33)].respSeen = some (9, 5, 6, 1) ∧
    (fs [(R.portLinkUp 1, 1)] State.reset).linkUp 1 = true ∧ ¬((1 : Nat) = State.reset.fld R.ftUpstream) := by decide
/-- The twin link is up, an image runs. -/
def linked : State := fs [(R.twinLinkUp, 1), (R.ftState, 1)] { State.reset with beat := { Beat.reset with running := some image0 } }
theorem test_hyp_Beacons : linked.linkUp 32 = true ∧ linked.beat.running = some image0 ∧ (32 : Nat) ≠ linked.fld R.ftUpstream ∧ linked.fld R.ftState ≠ 0 ∧
    (⟨1, 0, 0, 0, image0.orchardId, 0, 1, 0, 0, linked.time.links[32].txSeq, 0, 0, 0, 0⟩ : Beacon).echoSeq = linked.time.links[(32 : Fin 33)].txSeq ∧
    (∀ p, p < 32 → linked.linkUp p = false) ∧ State.reset.linkUp 32 = false := by decide
theorem test_hyp_TimeStates : let s := fs [(R.ftState, 1), (R.ftUpstream, 32)] { State.reset with time := { TimeSt.reset with goodSince := some 0, now := 1000000 } }
    let h := fs [(R.ftState, 3), (R.ftRef10m, 1), (R.ftRef10mEn, 1)] { State.reset with time := { TimeSt.reset with now := 50000000 } }
    s.time.goodSince = some 0 ∧ 0 + 1000000 ≤ max s.time.now 0 ∧ s.time.links.toList[s.fld R.ftUpstream]? = some LinkSt.reset ∧ LinkSt.reset.lastValid = none ∧
    h.fld R.ftState = 3 ∧ h.fld R.twinState ≠ 1 ∧ h.fld R.ftRef10m = 1 ∧ h.fld R.ftRef10mEn = 1 ∧ h.time.holdAt + 50000000 ≤ max h.time.now 0 ∧
    (fs [(R.ftGm, 1), (R.ftPpsEn, 1)] State.reset).fld R.ftGm = 1 := by decide
/-- An image is staged. -/
def staged (n : Nat) (l : List (Fld × Nat)) : State :=
  fs l { State.reset with beat := { Beat.reset with staged := some image0 }, time := { TimeSt.reset with now := n } }
/-- An image runs and its time function is locked. -/
def beating (f : Beat → Beat) : State := fs [(R.ftState, 2), (R.twinLinkUp, 1)] { State.reset with beat := f { Beat.reset with running := some image0 } }
theorem test_hyp_ScheduleCommands : State.reset.fld R.btBusy = 0 ∧ State.reset.fld R.btStaged = 0 ∧ (fs [(R.btBusy, 1)] State.reset).fld R.btBusy = 1 ∧
    ({ State.reset with beat := { Beat.reset with staging := some ⟨0, 0⟩ } } : State).stageStatus 0 0 0 < 256 ∧
    (staged 0 []).beat.staged = some image0 ∧ (staged 0 []).ckpt.defn = none ∧ image0.startTime < (staged 0 []).time.now + 1000000 ∧
    (linked.beaconLink 32 = true) ∧ (beating id).beat.running = some image0 ∧ (beating id).beat.switch = none ∧ (beating id).beat.staged = none ∧
    SMap.get (fun _ => 0) (beating id).beat.noticeSeq 4 = 0 ∧ image0.orchardId = 0 := by decide
theorem test_hyp_ScheduleCommands_accepted : let im : Image := { image0 with startTime := 1000000 }
    let s := fs [(R.ftState, 2)] { State.reset with beat := { Beat.reset with staged := some im } }
    (¬∃ old, s.beat.running = some old ∧ (im.startTime < old.startTime ∨ (im.startTime - old.startTime) % (old.slots * 10) ≠ 0)) ∧
    max s.time.now 0 + 1000000 ≤ im.startTime ∧ s.fld R.ftState = 2 := by
  refine ⟨?_, by decide, by decide⟩
  rintro ⟨old, h, -⟩
  exact nomatch (show (none : Option Image) = some old from h)
/-- An image of one event in slot 0 of die 0's table. -/
def imageE (k t : Nat) : Image := { image0 with tables := [[⟨0, k, 0, 0, t, 1 + 8 * 256⟩], [], [], []] }
theorem test_hyp_SchedulesRun : let s := beating fun b => { b with running := some (imageE 4 0) }
    let k := beating fun b => { b with running := some (imageE 3 5) }
    s.ckpt.run = none ∧ (s.time.now - image0.startTime) / (image0.slots * 10) ≤ s.beat.season ∧ s.beat.activation = false ∧ s.beat.switch = none ∧ s.time.now % 10 = 0 ∧
    (beating id).slotEvents image0 0 0 = [] ∧ (beating id).slotEvents image0 1 0 = [] ∧ s.slotEvents (imageE 4 0) 0 0 = [⟨0, 4, 0, 0, 0, 1 + 8 * 256⟩] ∧
    s.slotEvents (imageE 4 0) 1 0 = [] ∧ (fs [(R.octMode 0, 0)] s).isPort 0 = true ∧
    k.slotEvents (imageE 3 5) 0 0 = [⟨0, 3, 0, 0, 5, 1 + 8 * 256⟩] ∧ k.witHolds 5 = false ∧ k.canLoad 5 = true ∧
    (k.modCore 5 fun c => { c with run.state := .running }).canLoad 5 = false := by decide
theorem test_hyp_SchedulesRun_ends : let a := fs [(R.ftState, 2)] { State.reset with beat := { Beat.reset with staged := some image0, activation := true } }
    let e := beating fun b => { b with stopReq := true }
    a.beat.running = none ∧ a.beat.staged = some image0 ∧ a.beat.activation = true ∧ image0.startTime ≤ max a.time.now 10 ∧ a.fld R.ftState = 2 ∧
    e.beat.season < (max e.time.now 50 - image0.startTime) / (image0.slots * 10) ∧ e.beat.stopReq = true ∧ e.health.repairs = [] ∧ image0.residency = [] ∧
    (∀ d, d < 2 → ∀ b, b < 17 → e.fld (R.marginPending d b) = 0) ∧
    (let w := beating fun b => { b with mismatch := some (0, 3) }; w.beat.mismatch = some (0, 3) ∧ 0 + image0.slots * 10 ≤ max w.time.now 40) := by decide
/-- A group in its first step. -/
def group0 : GroupRun := ⟨1, 0, 0, 0, 0, false, 0, 0, [], none, false, [], false, false, false, none, false, Vector.replicate 8 0, []⟩
theorem test_hyp_SchedulesRun_switch : let s : State := { beating (fun b => { b with switch := some (1, 0) }) with coll := { CollSt.empty with groups := [group0] } }
    s.beat.switch = some (1, 0) ∧ s.coll.groups = [group0] ∧ s.coll.stale = [] ∧ group0.round = 0 ∧ group0.causes = [] ∧ group0.heldPoison = false ∧ 0 ≤ s.beat.season ∧
    ¬((1 : Nat) = 0 ∧ s.fld R.btSolo = 1) := by decide
/-- Port 0 is the system port of the system port holder; the device is the grandmaster or not. -/
def sysS (gm : Nat) (b : Beat) : State := fs [(R.ftGm, gm), (R.ftSysDomain, 4)] { State.reset with time := { TimeSt.reset with sysHolder := true }, beat := b }
theorem test_hyp_PtpMessages_system : (sysS 1 Beat.reset).time.sysHolder = true ∧ (0 : Fin 33).val < 32 ∧ (sysS 1 Beat.reset).fld (R.portFabric 0) = 0 ∧
    (sysS 1 Beat.reset).fld R.ftGm = 1 ∧ (sysS 0 Beat.reset).fld R.ftGm ≠ 1 ∧ ({ ptpMsg false with domain := 4 } : PtpMsg).domain = (sysS 1 Beat.reset).fld R.ftSysDomain ∧
    (sysS 1 Beat.reset).beat.running = none ∧ (sysS 1 { Beat.reset with running := some image0 }).beat.running ≠ none ∧ State.reset.time.sysHolder = false ∧
    (let s := fs [(R.ftGm, 1), (R.ftPpsEn, 1)] { State.reset with time := { TimeSt.reset with ppsAt := some 5 } }
     s.fld R.ftGm = 1 ∧ s.fld R.ftPpsEn = 1 ∧ s.time.ppsAt = some 5 ∧ max s.time.now 7 < 5 + 2000000000) := by decide
theorem test_hyp_Beacons_discarded : (⟨2, 0, 0, 0, image0.orchardId, 0, 1, 0, 0, 0, 0, 0, 0, 0⟩ : Beacon).verMajor ≠ 1 ∧ (⟨1, 0, 1, 0, 0, 0, 1, 0, 0, 0, 0, 0, 0, 0⟩ : Beacon).type ≠ 0 ∧
    (1 : Nat) ≠ image0.orchardId ∧ (⟨2, 0, 1, 0, 0, 0, 0, 0, 0, 0, 0⟩ : Notice).verMajor ≠ 1 ∧ linked.beaconLink 32 = true := by decide
theorem test_hyp_ScheduleCommands_waits : ({ State.reset with stopped := [1] } : State).feWaits 0x600100 = true ∧ ({ State.reset with stopped := [2] } : State).feWaits 0x600100 = true ∧
    State.reset.feWaits 0x600100 = false ∧ ({ State.reset with stopped := [2] } : State).stewardOff 2 = true ∧ State.reset.stewardOff 2 = false ∧
    (fs [(R.fwGrafting 2, 1)] State.reset).stewardOff 2 = true ∧
    (let a := fs [(R.ftState, 3)] { State.reset with beat := { Beat.reset with staged := some image0, activation := true } }
     a.beat.activation = true ∧ image0.startTime ≤ max a.time.now 10 ∧ a.fld R.ftState = 3 ∧ (fs [(R.ftState, 4)] a).fld R.ftState ≠ 2 ∧ (fs [(R.ftState, 4)] a).fld R.ftState ≠ 3) := by decide
theorem test_hyp_WordsRoundTrip_frames : let b : Beacon := ⟨255, 255, 255, 255, 65535, 65535, 2 ^ 32 - 1, 2 ^ 64 - 1, 65535, 2 ^ 32 - 1, 2 ^ 64 - 1, 65535, 255, 2 ^ 64 - 1⟩
    let c : Cell := ⟨255, 255, 255, 255, 65535, 65535, 2 ^ 32 - 1, 65535, 255, 255, 65535, 65535, 65535, 255, 2 ^ 32 - 1, 65535, 1, [7]⟩
    b.tTx < 2 ^ 64 ∧ b.imageId < 2 ^ 64 ∧ beaconOf (beaconBytes b) = b ∧ c.payload.length = c.payloadLen ∧ c.firstBlock < 2 ^ 32 ∧ cellOfBytes (cellBytes c) = c := by decide

/-! ## Premises of the statements about accelerator windows, cells and the transport -/

/-- The first 16 pages are in a window of registers. -/
def Csr.window (c : Csr) (key : Nat) : Csr := (c.set key 1).set (key + 8) 0xF000
/-- A window of port 0, as it stands after some writes, with a queue 0. -/
def winS (k : WinKind) (ws : WinWrites) (x : AccQ) : State :=
  let s := fs [(R.accLinkUp 0, 1)] { State.reset with csr := Csr.window [] (R.rindAdma 0 0) }
  (s.modWin k 0 fun w => { w.write k ws with qs := w.qs.set 0 x })
/-- An open queue of 4 entries and 4 completions, with one entry announced. -/
def q0 : AccQ := { AccQ.zero with st := 1, cqBase := 0x1000, sqN := 4, cqN := 4, tail := 1 }
theorem test_hyp_AcceleratorWindows : let s := winS .feed [] q0
    s.twin.held = [] ∧ s.fld (R.accLinkUp 0) = 1 ∧ (s.win .feed 0).fld 4 1 = 0 ∧ (s.win .feed 0).fld 0 1 ≠ 1 ∧
    ((s.win .feed 0).write .feed [(0, 1)]).fld 0 1 = 1 ∧ (∀ i, i < winQueues .feed → ((s.win .feed 0).write .feed [(0, 1)]).badRec .feed i = false) ∧
    ((s.win .feed 0).write .feed [(0, 1), (16, 1)]).badRec .feed 0 = true ∧ winQueues .block ≤ 4 ∧ (s.accQ .feed 0 1).st = 0 ∧ (s.accQ .feed 0 0).st = 1 ∧
    (s.accQ .feed 0 0).sqN ≤ (4#16).toNat ∧ (3#16).toNat < (s.accQ .feed 0 0).sqN ∧ (4 : Nat) < winQueues .feed ∧ (s.accQ .feed 0 0).cqN ≤ (4#16).toNat := by decide
/-- A feed entry of group 1's step 0. -/
def feedWrites (op : Byte) : WinWrites := [(0x80000, op), (0x80002, 1)]
/-- A group of the image: collective 0, accelerator 0 taking part, one block of 32. -/
def groupE0 : GroupE := ⟨1, 0, false, 1, 3, 3, 0xFF, ⟨1, 1, 0, 0, 0, false, 16, 2, 0, 0, 1, 0, 0⟩, 0, 0, 0, 1, 0, 0⟩
/-- A leg of group 1: one input, one output on port 1, one fragment of one block. -/
def legE0 (kind : Nat) (inn : Nat := 1) : LegE := ⟨1, kind, 0, inn, 1, 1, 1, 0xFF, 2, 0, 0, 4, 4, 0, 0, 0, 0, 0, 1, 1⟩
/-- An image with that group and one leg runs, in the group's first step. -/
def coll (l : LegE) (r : LegRun) (m : GroupRun) (s : State) : State :=
  { s with beat := { s.beat with running := some { image0 with groups := [groupE0], legs := [l], residency := [[1]] } }, coll := { s.coll with groups := [m], legs := [r] } }
theorem test_hyp_FeedEntries : let s := coll (legE0 2) (LegRun.fresh 0 0) group0 (winS .feed (feedWrites 1) q0)
    let e : FeedEntry := ⟨1, false, 1, 0, 0, 0, 0⟩
    s.held = false ∧ s.fld R.twinState ≠ 6 ∧ s.feedPick 0 = some 0 ∧ s.feedPick 1 = none ∧ e = parseFeed ((s.win .feed 0).mem.bytes (winEntryOff .feed 0 (0 % 4)) 64) ∧
    s.groupE e.group = some groupE0 ∧ bitAt groupE0.accelMask 0 = true ∧ bitAt groupE0.accelMask 1 = false ∧ s.coll.groups.find? (fun r => r.group == e.group) = some group0 ∧
    e.step = group0.expected[(0 : Fin 8)] ∧ s.accOk 0 e.src (groupE0.seg.blocks * groupE0.seg.blockLen * fpBytes groupE0.seg.infmt) = true ∧ s.groupE 2 = none := by decide
theorem test_hyp_FeedEntries_nop : parseFeed (((winS .feed (feedWrites 2) q0).win .feed 0).mem.bytes (winEntryOff .feed 0 0) 64) = ⟨2, false, 1, 0, 0, 0, 0⟩ ∧
    (parseFeed (((winS .feed ((0x80001, 1) :: feedWrites 2) q0).win .feed 0).mem.bytes (winEntryOff .feed 0 0) 64)).rsv = true := by decide
theorem test_hyp_FeedEntries_post : let t : FeedTaken := ⟨0, 0, 0, 1, ⟨1, false, 1, 0, 0, 0, 0⟩, false, [], none, some 0, false, false, false, []⟩
    let s : State := { winS .feed [] { q0 with posted := 3, taken := 1 } with coll := { CollSt.empty with taken := [t] } }
    feedFirst 0 0 [] s.coll.taken = some t ∧ t.gen = (s.win .feed 0).gen ∧ (s.accQ .feed 0 0).st = 1 ∧ (s.accQ .feed 0 0).cqBase ≠ 0 ∧
    (s.accQ .feed 0 0).posted - (s.accQ .feed 0 0).released < (s.accQ .feed 0 0).cqN ∧ 4 ≤ ({ q0 with posted := 4 } : AccQ).posted - q0.released := by decide
/-- A cell of group 1, leg 0, with its payload. -/
def cellW (kind nblocks : Nat) (d : List Byte) : Cell := ⟨1, 0, kind, 8, 1, 0, 0, 0, 0, 0, 2, 0, 0, 1, 0, nblocks, d.length, d⟩
/-- A leg whose window is open since 0. -/
def open0 (ins : List FragIn) : LegRun := { LegRun.fresh 0 0 with rxFrom := some 0, ins := ins }
theorem test_hyp_CellsReceived : let l := legE0 3
    let s := coll l (open0 []) group0 State.reset
    let c := cellW 0 1 (List.replicate 96 0)
    (∃ im, s.beat.running = some im) ∧ s.CellFits 0 { c with payload := List.replicate 64 0, payloadLen := 64 } groupE0 l group0 ∧ l.sends = true ∧ (s.legRun 0).tx = false ∧
    { c with verMajor := 2 }.verMajor ≠ 1 ∧ (s.legRun 0).ins = [] := by
  unfold State.CellFits; exact ⟨⟨_, rfl⟩, by decide⟩
theorem test_hyp_CellsReceived_kinds : (coll (legE0 0) (open0 []) group0 State.reset).CellFits 1 (cellW 1 1 [0, 1]) groupE0 (legE0 0) group0 ∧
    (coll (legE0 1) (open0 []) group0 State.reset).CellFits 1 (cellW 1 1 [0, 1]) groupE0 (legE0 1) group0 ∧
    (coll (legE0 4) (open0 []) group0 State.reset).CellFits 3 (cellW 3 0 [1, 0, 0, 0]) groupE0 (legE0 4) group0 ∧
    (coll (legE0 5) (open0 []) group0 State.reset).CellFits 3 (cellW 3 0 [3, 0, 0, 0]) groupE0 (legE0 5) group0 ∧
    (let f : FragIn := ⟨5, 2, 1, [], none, false⟩
     (coll (legE0 2) (open0 [f]) group0 State.reset).CellFits 2 (cellW 2 0 (natBe 2 5 ++ natBe 2 5 ++ natBe 1 0 ++ natBe 1 0 ++ natBe 1 0 ++ [0])) groupE0 (legE0 2) group0 ∧ 5 ≤ f.seq) := by
  unfold State.CellFits; decide
/-- Group 1 with the exponent of block 0. -/
def groupX : GroupRun := { group0 with exps := [(0, some 0)] }
theorem test_hyp_CellsReceived_sum : let l := legE0 2 2
    let f : FragIn := ⟨0, 3, 8, List.replicate 96 0, none, false⟩
    let s := coll l { open0 [f] with tx := true } groupX State.reset
    let c := cellW 0 1 (List.replicate 96 0)
    s.CellFits 0 c groupE0 l groupX ∧ (s.legRun 0).ins = [f] ∧ f.src ≠ c.srcRank ∧ l.frags = 1 ∧ l.local_ = false ∧ l.owner = false ∧ l.hop = false ∧ (s.legRun 0).outs = [] ∧
    c.firstBlock = l.first groupE0 0 0 ∧ c.nblocks = l.count groupE0 0 0 ∧ expsHeld groupX 0 1 = true ∧ f.payload.length = 1 * groupE0.seg.blockLen * esBytes l.outFmt := by
  unfold State.CellFits; decide
theorem test_hyp_CellsReceived_stale : let s := coll (legE0 3) (open0 []) { group0 with gen := 65535 } State.reset
    let c : Cell := { cellW 0 1 (List.replicate 64 0) with gen := 0 }
    s.cellBad 0 c = none ∧ (c.gen + 65536 - (s.groupRun 1).gen) % 65536 = 1 ∧ 32768 ≤ ({ c with gen := 32767 }.gen + 65536 - (s.groupRun 1).gen) % 65536 ∧
    (let h := (0, 0, c); let z : State := { s with coll := { s.coll with stale := [h] } }; z.coll.stale = [h] ∧ h.2.1 + 16 ≤ max z.time.now 16) := by decide
theorem test_hyp_LegWindows : let l := legE0 2
    let s := coll l (open0 [⟨0, 2, 1, [], none, false⟩]) group0 State.reset
    s.legE 0 = some l ∧ s.groupE l.group = some groupE0 ∧ s.coll.groups.find? (fun r => r.group == l.group) = some group0 ∧ (s.legRun 0).rxFrom = some 0 ∧
    max s.time.now 39 < 0 + 10 * l.rxSlots ∧ 0 + 10 * l.rxSlots ≤ max s.time.now 40 ∧ (s.legRun 0).rxClosed = false ∧ 0 + 10 * (l.rxSlots + l.verdictSlots) ≤ max s.time.now 80 ∧
    (s.legRun 0).verdictClosed = false ∧ l.frags = 1 ∧ 0 < l.count groupE0 0 0 ∧ l.sends = true := by decide
theorem test_hyp_LegWindows_verdict : let o : FragOut := ⟨0, false, true, 0, false⟩
    let s := coll (legE0 2) { open0 [⟨0, 2, 1, [], some ⟨0, 0, 0⟩, false⟩] with outs := [o] } group0 State.reset
    (s.legRun 0).outs = [o] ∧ (legE0 2).txPort < 32 ∧ (legE0 2).txPort2 = 0xFF ∧ (∀ i ∈ (s.legRun 0).ins, i.seq = o.seq → bitAt i.flags 0 = true → i.verdict = some ⟨0, 0, 0⟩) := by decide

/-- The path of the queue pairs below: port 0, from address 5 to address 6. -/
def path0 : LftPath := ⟨0, 5, 6⟩
/-- A queue pair of firmware with one path. -/
def qp0 (st : QpState) : Qp :=
  { owner := 64, notifyRing := 0, a := ⟨7, 1, 2, 0, [path0], false, 0, 0⟩, st := st, initPsn := 9, peerPsn := 3, mtu := 1, txEpoch := 0, rxEpoch := 0, rxOld := none,
    next := 10, sent := 10, acked := 9, sack := 0, k := 0, armed := none, lastTx := 0, path := 0, edge := 20, marks := [], msgs := [], since := 0, ackFrom := none, dupAck := none, waits := [], again := [], due := [],
    reqs := [], count := 1, resident := true, used := 0 }
/-- Queue pair 3 exists, port 0 is up with local address 5, and time is locked. -/
def lft (q : Qp) : State := fs [(R.portEn 0, 1), (R.portLinkUp 0, 1), (R.ftState, 2)] { State.reset.setWord (R.portAddr 0 0) 5 with lft := { LftSt.empty with qps := [(3, some q)] } }
theorem test_hyp_TransportObjects : State.reset.held = false ∧ State.reset.qpCount < 65536 ∧ (lft (qp0 .reset)).qpAttrBad (qp0 .reset).a = false ∧ State.reset.qpAttrBad (qp0 .reset).a = true ∧ State.reset.qp 0 = none ∧
    State.reset.qpAttrBad { (qp0 .reset).a with mtu := 4 } = true ∧ (lft (qp0 .reset)).QpAlone 3 (qp0 .reset) ∧ (lft (qp0 .ready)).QpAlone 3 (qp0 .ready) ∧ (qp0 .reset).Level ∧
    (lft (qp0 .ready)).qpAttrBad (qpAttrMerge (qp0 .ready).a (qp0 .ready).a 64) = false ∧ bitAt 64 0 = false ∧ bitAt 64 1 = false ∧ bitAt 64 5 = false ∧ bitAt 32 5 = true ∧
    (lft (qp0 .reset)).PathUp (qp0 .reset) path0 ∧ State.reset.localOk 64 0 1 = true ∧ State.reset.inFwSpan 0 1 = false ∧ State.reset.region 0 = none := by
  unfold State.QpAlone State.PathUp Qp.Level; decide
theorem test_hyp_TransportObjects_held : let y : LftSt := { LftSt.empty with quarantine := [(3, 8)], creating := [(none, 1, 64, 0, (qp0 .reset).a)] }
    let z : State := { State.reset with lft := { y with regions := [(2, some ⟨64, 0, 1, true, true, 5⟩)] } }
    z.lft.quarantine = [(3, 8)] ∧ z.qp 3 = none ∧ z.lft.creating = [(none, 1, 64, 0, (qp0 .reset).a)] ∧ z.region ((2 + 5 * 65536) % 65536) = some ⟨64, 0, 1, true, true, 5⟩ := by decide
/-- The body of a work request for queue pair `n`. -/
def bodyW (n len : Nat) : LftBody := ⟨false, false, false, false, n, len, 0, 0, 0, 1, n, 1⟩
theorem test_hyp_WorkRequests : let s := lft (qp0 .ready)
    s.QpAlone 3 (qp0 .ready) ∧ (qp0 .ready).reqs = [] ∧ (qp0 .ready).Level ∧ (bodyW 4 1).qpn ≠ 3 ∧ (bodyW 3 2048).len ≤ mtuBytes (qp0 .ready).mtu ∧ s.localOk 64 0 2048 = true ∧
    s.localOk 64 (2 ^ 48) 1 = false ∧ s.PathUp (qp0 .ready) path0 ∧ s.hbm.bad = [] ∧ s.hbm.soft = [] ∧ psnAdd (qp0 .ready).acked 1 = (qp0 .ready).sent ∧
    psnDiff (qp0 .ready).count (bodyW 3 0).waitCount < 2 ^ 31 ∧ 2 ^ 31 ≤ psnDiff (qp0 .ready).count { bodyW 3 0 with waitCount := 2 }.waitCount := by
  unfold State.QpAlone State.PathUp Qp.Level; decide
/-- A packet for queue pair 3. -/
def pktW (op psn n : Nat) (d : List Byte) : LftPkt := ⟨6, 5, 0, 0, true, 1, 0, op, 0, 3, 7, psn, psn, 0, n, 0, 0, 2 + 5 * 65536, d.length, 0, d, []⟩
/-- Region 2 of firmware under generation 5. -/
def lftR (q : Qp) : State := let s := lft q; { s with lft := { s.lft with regions := [(2, some ⟨64, 0, 64, true, true, 5⟩)] } }
theorem test_hyp_TransportPackets : let q := qp0 .ready
    let s := lftR q
    s.QpAlone 3 q ∧ q.Level ∧ s.fld R.hbmWorkMib ≤ 36864 ∧ s.PktFits 3 q (pktW 1 21 4 [1, 2, 3, 4]) 0 ∧ 21 = psnAdd q.edge 1 ∧
    s.regionCheck q (2 + 5 * 65536) 0 4 true = .ok 0 ∧ s.regionCheck q (2 + 5 * 65536) 0 64 false = .ok 0 ∧ lftConsistent q (pktW 1 4117 4 [1, 2, 3, 4]) = true ∧
    4096 < psnDiff 4117 q.edge ∧ psnDiff 4117 q.edge < 2 ^ 31 ∧ lftConsistent q (pktW 1 20 4 [1, 2, 3, 4]) = true ∧ psnAfter 20 q.edge = false := by
  unfold State.QpAlone State.PktFits Qp.Level; simp only [List.mem_singleton, exists_eq_left, qp0]; decide
/-- A work request under way with PSN 10. -/
def reqW (op : Nat) : LftReq := ⟨op, bodyW 3 4, none, 1, 0, none, true, 10, 1, none, [], false⟩
theorem test_hyp_TransportPackets_requests : let q : Qp := { qp0 .ready with reqs := [reqW 2], sent := 11, next := 11, armed := some 0 }
    (lft q).QpAlone 3 q ∧ q.Level ∧ (reqW 2).psn = psnAdd q.acked 1 ∧ q.sent = psnAdd (reqW 2).psn 1 ∧ (reqW 2).b.laddr + 4 ≤ (lft q).workTop ∧ q.a.retryLimit ≠ 0 ∧
    (lft q).fld R.ftState ≠ 0 ∧ 0 + min (16000 * 2 ^ q.k) 4000000 ≤ max 0 16000 ∧ { q with k := 2 }.a.retryLimit ≤ 2 := by
  unfold State.QpAlone Qp.Level; decide
theorem test_hyp_TransportPackets_timers : let q : Qp := { qp0 .hello with armed := some 0, ackFrom := some 0 }
    (lft q).QpAlone 3 q ∧ q.k < q.a.retryLimit ∧ q.ackFrom = some 0 ∧ 0 + 2000 ≤ max 0 2000 ∧ (3#8).toNat ≤ 3 ∧
    (let g : Ring := { Ring.zero with st := .active, cqN := 2, coalCount := 4 }
     g.posted - g.released < g.cqN ∧ g.unsig + 1 < g.coalCount ∧ { g with posted := 2 }.cqN ≤ { g with posted := 2 }.posted - g.released) := by
  unfold State.QpAlone; decide
theorem test_hyp_AcceleratorWindows_open : let w := (winS .feed [] { q0 with taken := 0 }).modWin .feed 0 fun w => { w with mem := w.mem.put 4 [1] }
    w.fld (R.accLinkUp 0) = 1 ∧ ((w.win .feed 0).write .feed [(0, 1)]).fld 4 1 ≠ 0 ∧ (0 : Nat) < winQueues .feed ∧ winQueues .feed ≤ 8 := by decide
theorem test_hyp_FeedEntries_twin : let t : FeedTaken := ⟨8, 0, 0, 1, ⟨1, false, 1, 0, 0, 0, 0⟩, true, [], none, some 0, false, false, false, []⟩
    let s : State := { winS .feed [] q0 with coll := { CollSt.empty with taken := [t] } }
    s.feedReread 0 = none ∧ feedFirst 0 0 [] s.coll.taken = none ∧ feedFirst (0 + 8) 0 [] s.coll.taken = some t ∧
    feedFirst 1 0 [] s.coll.taken = none ∧ feedFirst (1 + 8) 0 [] s.coll.taken = none := by decide
/-- A leg on the hop path. -/
def legHop : LegE := { legE0 2 2 with flags := 4 }
theorem test_hyp_CellsReceived_hop : let f : FragIn := ⟨0, 3, 8, List.replicate 96 0, none, false⟩
    let s := coll legHop { open0 [f] with tx := true } groupX State.reset
    let c := cellW 0 1 (List.replicate 96 0)
    s.CellFits 0 c groupE0 legHop groupX ∧ legHop.hop = true ∧ legHop.inCount = 2 ∧ (s.legRun 0).rxFrom.isSome = true ∧ (s.legRun 0).ins = [f] ∧ (s.legRun 0).outs = [] ∧
    legHop.needsExp groupE0 = true ∧ expsHeld groupX c.firstBlock c.nblocks = true ∧ legHop.txPort < 32 ∧ legHop.txPort2 = 0xFF ∧ legHop.inFmt = legHop.outFmt ∧
    f.payload.length = c.nblocks * groupE0.seg.blockLen * esBytes legHop.outFmt ∧ groupX.faulted = false ∧ groupX.agreed.getD 0 = 0 := by
  unfold State.CellFits; decide
theorem test_hyp_CellsReceived_settle : let s := coll (legE0 5) (open0 []) group0 State.reset
    s.CellFits 3 (cellW 3 0 [0, 0, 0, 0]) groupE0 (legE0 5) group0 ∧ s.CellFits 3 (cellW 3 0 [1, 0, 0, 0]) groupE0 (legE0 5) group0 ∧ (s.legRun 0).ins = [] ∧ (s.legRun 0).tx = false ∧
    s.ckpt.defn = none ∧ group0.faulted = false ∧ group0.checks ≤ groupE0.checkRetry ∧
    group0.misses + 1 ≤ ({ groupE0 with missRetry := 1 } : GroupE).missRetry ∧
    (∀ v ∈ [(-32768 : Int), 32767, -149, 127], v = -32768 ∨ v = 32767 ∨ -149 ≤ v ∧ v ≤ 127) := by
  unfold State.CellFits; decide
theorem test_hyp_LegWindows_rejects : let i (l : Bool) : FragIn := ⟨0, 2, 1, [], some ⟨1, 4, 4⟩, l⟩
    let s (l : Bool) := coll (legE0 2) { open0 [i l] with outs := [⟨0, false, true, 0, false⟩] } group0 State.reset
    (∀ l, ((s l).legRun 0).outs = [⟨0, false, true, 0, false⟩] ∧ (((s l).legRun 0).ins.filter fun f => f.seq == 0 && bitAt f.flags 0) = [i l] ∧ (i l).lapsed = l) ∧
    (legE0 1).frags = 1 ∧ (legE0 1).count groupE0 0 0 ≠ 0 ∧ (legE0 1).inCount ≠ 0 := by decide
theorem test_hyp_WorkRequests_reserved : ({ bodyW 3 4 with rsvOp := true } : LftBody).rsvOp = true ∧ (bodyW 3 4).rsvOp = false ∧
    (let q := qp0 .ready
     let s := fs [(R.portLinkUp 0, 0)] (lft q)
     s.QpAlone 3 q ∧ s.nextPath q = none ∧ q.armed = none ∧ psnAdd q.acked 1 = q.sent ∧ s.localOk 64 (bodyW 3 4).laddr (bodyW 3 4).len = true) ∧
    (lft (qp0 .reset)).qpAttrBad { (qp0 .reset).a with paths := [⟨32, 5, 6⟩] } = true ∧ (lft (qp0 .reset)).qpAttrBad { (qp0 .reset).a with paths := [⟨0, 7, 6⟩] } = true := by
  unfold State.QpAlone; decide

/-! ## Premises of the statements about ports, ciphers, rings and the block service -/

/-- A host ring of a type with one descriptor announced, that signals after four. -/
def ringW (typ : Nat) : Ring := { Ring.zero with st := .active, typ := typ, sqN := 4, cqN := 4, cqBase := 0x1000, tail := 1, coalCount := 4 }
/-- Instance 0 is READY and resident, with ring `r` as given; host memory of the first 16 pages is in its windows. -/
def host (r : Nat) (x : Ring) : State :=
  (fs [(R.lhqiReady 0, 1), (R.instResident 0, 1), (R.instEnabled 0, 1)] { State.reset with csr := Csr.window [] (R.rindHdma 0) }).setRing 0 r x
/-- Port 0 is up. -/
def port0 (l : List (Fld × Nat)) : State := fs ([(R.portEn 0, 1), (R.portLinkUp 0, 1)] ++ l) State.reset
/-- A frame of `n` bytes with an EtherType. -/
def frame (ety : List Byte) (n : Nat) : List Byte := List.replicate 12 1 ++ ety ++ List.replicate (n - 14) 0
theorem test_hyp_NetworkPorts : (port0 []).isPort 0 = true ∧ (port0 []).fld (R.portEn 0) = 1 ∧ (port0 []).fld (R.portPmd 0) ≠ 3 ∧ ((port0 []).portAn 0 = true → (port0 [(R.portStat 0 1, 1)]).fld (R.portStat 0 1) = 1) ∧
    (fs [(R.portPmd 0, 3)] State.reset).fld (R.portPmd 0) = 3 ∧ (1 : Nat) ≠ State.reset.fld (R.octMode 0) ∧ (∀ i, i < 8 → State.reset.fld (R.portEn (8 * 0 + i)) = 0) ∧
    State.reset.fld (R.portEn 0) = 0 ∧ (port0 []).portUp 0 = true ∧ State.reset.portUp 0 = false ∧ (regInfo (R.qKey 0 7 + 4 * 3)).isSome = true := by decide
theorem test_hyp_NetworkPorts_frames : let p := port0 []
    let h := parseFrame (frame [0x12, 0x34] 60) false
    (frame [0, 0] 59).length + 4 < 64 ∧ 64 ≤ (frame [0x88, 0x08] 60).length + 4 ∧ beAt (frame [0x88, 0x08] 60) 12 2 = 0x8808 ∧
    p.fld (R.secyEn 0) = 0 ∧ h.csumOk = true ∧ p.fld (R.portFabric 0) = 0 ∧ (p.stage 0).length < 512 ∧ p.net.ingress[(0 : Fin 4)] = [] ∧ p.cls.active = [] ∧
    h.has 7 = false ∧ (fs [(R.portDefSteward 0, 1)] p).fld (R.portDefSteward 0) = 1 ∧ p.net.slowNext[(0 : Fin 2)] ≤ 0 ∧ (p.eg 0).wait = [] ∧
    p.room 0 0 ((p.advance 0).egFrame 0 (.raw (frame [0, 0] 60))) = true := by decide
theorem test_hyp_NetworkPorts_long : 9216 < (frame [0, 0] 9213).length + 4 := by
  rw [frame]; simp only [List.length_append, List.length_replicate]; decide
/-- The words of a match-table entry whose key and mask are zero: it is valid, and its action sends the frame to port 1, queue 2. -/
def cls0 : List Word := List.replicate 24 0 ++ [10, 0x30000000 + 1 + 2 * 256, 0, 0, 1, 0, 0, 0]
set_option exponentiation.threshold 400 in
theorem test_hyp_NetworkPorts_tables : let s : State := { State.reset with cls := { ClsSt.empty with shadow := [(8192, cls0)], active := [(8192, cls0)] } }
    clsValid 1 cls0 = true ∧ s.clsLookup 1 5 = some (0, cls0) ∧ imgWord cls0 24 = 10 ∧ clsDest (imgWord cls0 25) = .port 1 2 ∧ s.fld R.clsBusy = 0 ∧ s.cls.sel = none ∧
    (63 : Fin 8192).val < 64 ∧ ¬((64 : Fin 8192).val < 64) ∧ (fs [(R.clsBusy, 1)] s).fld R.clsBusy = 1 := by
  refine ⟨by decide, by decide, by decide, by decide, by decide, by decide, by decide, by decide, by decide⟩
theorem test_hyp_NetworkPorts_egress : let f : EgFrame := ⟨64, 84, 84, 0, .raw [1]⟩
    let s := port0 [(R.rindTxCeil 0, 1), (R.txOpen 0, 255)]
    let u : State := { s with net := { s.net with eg := s.net.eg.set 0 { (s.eg 0) with q := (s.eg 0).q.set (s.fld (R.txCellQueue 0) % 8) [f] (Nat.mod_lt _ (by decide)) } } }
    u.net.txWait = [] ∧ u.portUp 0 = true ∧ u.fld (R.secyEn 0) = 0 ∧ (u.eg 0).wait = [] ∧ (u.eg 0).tq = [] ∧ u.fld (R.rindTxCeil 0) ≠ 0 ∧ 0 ≤ (u.eg 0).rind.lvl ∧
    (u.eg 0).queue (u.fld (R.txCellQueue 0)) = [f] ∧ (u.advance 0).eligible 0 (u.fld (R.txCellQueue 0)) 0 f = true := by decide
theorem test_hyp_NetworkPorts_rings : (host 3 (ringW 3)).RingReady 0 3 3 ∧ (host 4 (ringW 4)).RingReady 0 4 4 ∧ (host 3 (ringW 3)).txCeilOf 0 = 0 ∧
    (host 3 (ringW 3)).hostOk 0 0 9212 = true ∧ (host 3 (ringW 3)).net.txWait = [] ∧ (host 3 (ringW 3)).Still ∧ (host 3 (ringW 3)).held = false := by
  unfold State.RingReady State.Still; decide

/-- A cipher request of slot 5 for an instance. -/
def ciph (len aad : Nat) : CipherReq := ⟨false, false, 5, len, aad, 1, 0, List.replicate 16 0, 0, 0x1000, true, 0, 0, 1⟩
/-- Slot 5 holds a key of a mode. -/
def keyed (xts : Bool) : State := { State.reset with keys := { slots := [(5, some ⟨xts, 0, 1, 2⟩)], erase := [], mism := [] } }
theorem test_hyp_CipherRequests : let q := ciph 512 0
    q.rsv = false ∧ q.iv.length = 16 ∧ q.iv.drop 12 = List.replicate 4 0 ∧ q.len % 512 = 0 ∧ ¬((511 : Nat) % 512 = 0) ∧ State.reset.key 5 = none ∧
    (keyed true).key 5 = some ⟨true, 0, 1, 2⟩ ∧ q.inst = 0 ∧ q.inst ≠ 1 ∧ (keyed true).hbm.bad = [] ∧ (keyed true).hbm.soft = [] ∧ q.mismatch = 0 ∧
    q.dst + 512 ≤ (keyed true).workTop ∧ (keyed true).boundCount 5 = 0 ∧ (1 : BitVec 256) ≠ 2 ∧ (0 : Nat) < (ciph 0 256).aadLen + (ciph 0 256).len := by decide
theorem test_hyp_CipherRequests_bad : let s : State := { keyed true with hbm := { Ram.empty with bad := [0] } }
    s.hbmBad 0 512 = true ∧ ({ ciph 512 0 with mismatch := 2 } : CipherReq).mismatch = 2 := by decide

/-- A namespace of 64 blocks on drive 0, which is up; its range is in the Rind's windows. -/
def drive0 (s : State) : State :=
  let s := fs [(R.storLinkUp 0, 1)] s
  { s with csr := ((s.csr.set (R.rindStor 0 0) 0xFFFFFFFF).set (R.rindStor 0 0 + 16) 0xFFFFFFFF).set (R.rindStor 0 0 + 20) 0xFFFFFFFF,
           blk := { s.blk with drives := s.blk.drives.set 0 { Drive.reset with info := some ⟨9, true, true, 0, [⟨1, 64, 512, true⟩], 5, 2⟩ } } }
/-- Volume 2 is 32 blocks of it from block 8 on. -/
def volW : Volume := ⟨⟨2, 512, 0, 0, [.drive 0 1 8 32], 0, 0, 0, 0⟩, false, false⟩
/-- Ring 1 of instance 0 is a BLOCK ring, and the volume is attached. -/
def blkW (cache : List CBlk) : State :=
  let s := drive0 (host 1 (ringW 1))
  { s with blk := { s.blk with vols := [(2, some volW)], atts := [⟨2, false, 0, false⟩], cache := cache } }
/-- A command on its blocks. -/
def blkB (lba nlb : Nat) : BlkBody := ⟨false, false, false, 7, 2, 0, lba, nlb, nlb * 512, 0, 0, 0, none, true⟩
/-- A command that names no blocks. -/
def blkF : BlkBody := ⟨false, false, false, 7, 2, 0, 0, 0, 0, 0, 0, 0, none, true⟩
theorem test_hyp_BlockCommands : let s := blkW []
    let z : Attach := ⟨2, false, 0, false⟩
    s.RingReady 0 1 1 ∧ s.Still ∧ s.twin.held = [] ∧ s.attachOf (.ring ⟨0, 1, 7, 0, 0⟩) 2 = some z ∧ s.vol 2 = some volW ∧ s.OneDrive volW 0 1 8 32 ∧ s.stewardGone 4 = false ∧
    s.blkCeilOf 0 = 0 ∧ s.storOk 0 1 (8 + 31) 1 = true ∧ (∀ c ∈ s.blkChecks 0 1 1 (blkB 31 1) (some z) (some volW), c.1 = false) ∧
    (∀ c ∈ s.blkChecks 0 1 2 (blkB 31 1) (some z) (some volW), c.1 = false) ∧ (∀ c ∈ s.blkChecks 0 1 3 blkF (some z) (some volW), c.1 = false) ∧
    (s.blkChecks 0 1 1 (blkB 32 1) (some z) (some volW)).find? (·.1) = some (true, 8) ∧ s.touchesFailed 2 31 1 = false ∧ s.through volW.a (blkB 31 1) = false ∧
    s.through volW.a { blkB 31 1 with fua := true } = true := by
  unfold State.RingReady State.Still State.OneDrive; decide
theorem test_hyp_BlockCommands_cached : let c : CBlk := ⟨2, 31, List.replicate 512 7, true, false, 0, 1⟩
    let s := blkW [c]
    s.cached 2 31 = some c ∧ c.data.length = volW.a.bs ∧ s.blk.cache = [c] ∧ (0 : Nat) ≤ c.lba ∧ c.lba < 0 + 32 ∧
    (∀ e ∈ s.blkChecks 0 1 6 { blkF with vol := 0, abortTag := 3 } none none, e.1 = false) ∧ (∀ e ∈ s.blkChecks 0 1 7 { blkF with vol := 0, action := 2 } none none, e.1 = false) ∧
    s.pathOk 0 = true ∧ s.drivePath 1 = none ∧ ((s.storWins 0).any fun w => w.1 == 0xFFFFFFFF && w.2.1 == 0 && w.2.2 == 2 ^ 64 - 1) = true := by decide
theorem test_hyp_BlockCommands_entry : let s := winS .block [(0x8000, 1), (0x8004, 2), (0x8010, 1)] q0
    let b := blkEntry (s.win .block 0) 0 0 (blkB 0 0)
    (s.accQ .block 0 0).st = 1 ∧ b.1 = 1 ∧ s.blkBadField b.1 b.2 = false ∧ s.attachOf (.acc 0 0 0) b.2.vol = none ∧ s.blk.tags = [] := by decide
/-- A command outstanding on drive 0. -/
def cmd0 (aborted : Bool) : NvmeCmd := ⟨4, 0, 2, 1, 0, 1, List.replicate 512 0, false, false, aborted, false, true⟩
theorem test_hyp_DrivesAndVolumes : let s := drive0 State.reset
    let d (c : NvmeCmd) : State := { s with blk := { s.blk with drives := s.blk.drives.set 0 { s.drive 0 with cmds := [c] } } }
    (s.drive 0).cmds = [] ∧ s.Still ∧ s.blk.vols = [] ∧ s.blk.journal = [] ∧ driveSupported ⟨9, true, true, 0, [⟨1, 64, 4096, true⟩], 7, 1⟩ = true ∧
    driveSupported ⟨9, true, true, 0, [⟨1, 64, 520, true⟩], 5, 2⟩ = false ∧ ((d (cmd0 false)).drive 0).cmds = [cmd0 false] ∧ (cmd0 true).aborted = true ∧ (cmd0 true).sub = 0 ∧
    (d (cmd0 true)).Still ∧ 511 + 1 ≤ (cmd0 false).buf.length ∧ (cmd0 false).buf.length < 512 + 1 ∧ (cmd0 false).write = false := by
  unfold State.Still; decide
/-- A read of the ring under way, with one part at the drive. -/
def reading (op : BlkOp) (c : NvmeCmd) (cache : List CBlk) : State :=
  let s := blkW cache
  { s with blk := { s.blk with drives := s.blk.drives.set 0 { s.drive 0 with cmds := [c] }, ops := [op], parts := [⟨3, op.id, 31, 1, c.write⟩] } }
theorem test_hyp_DrivesAndVolumes_completion : let w : Work := ⟨0, 1, 7, 0, 0⟩
    let o : BlkOp := ⟨5, .ring w, 1, blkB 31 1, some volW.a, true, 1, [], none, 0, (0, 0)⟩
    let c := { cmd0 false with sub := 3 }
    let s := reading o c []
    (s.drive 0).cmds = [c] ∧ c.cid = 4 ∧ c.sub ≠ 0 ∧ s.blk.parts = [⟨3, 5, 31, 1, false⟩] ∧ s.blk.ops = [o] ∧ s.lft.qps = [] ∧ s.Owes w ∧ s.fld (R.lhqiReady w.inst) = 1 ∧
    (s.volOpen volW.a 31 c.buf).length = 1 * 512 ∧
    (let x : CBlk := ⟨2, 31, List.replicate 512 7, true, false, 0, 1⟩
     let p : BlkOp := { o with owner := .destage false, op := 2, got := [(31, x.data)] }
     let z := reading p { c with write := true } [x]
     z.blk.cache = [x] ∧ p.got = [(x.lba, x.data)] ∧ z.OneDrive volW 0 1 8 32 ∧ x.lba < 32 ∧ z.storOk 0 1 (8 + x.lba) 1 = true) := by
  unfold State.Owes State.RingOwes State.OneDrive; decide
/-- A header of a control descriptor whose parameters are `n` bytes. -/
def hdr (n : Nat) : CtlHdr := ⟨7, if n = 0 then 0 else 0x100, (n + 7) / 8 * 8, 0, 0, false, true, true⟩
theorem test_hyp_DrivesAndVolumes_control : let s := drive0 (host 0 (ringW 0))
    let a : VolAttr := volW.a
    s.CtlFits 0 0 (hdr (volParamLen a)) true (volParamLen a) 0 ∧ s.blk.vols = [] ∧ s.volBad a = false ∧ s.volBad { a with members := [] } = true ∧
    s.nsOf 0 1 = some ⟨1, 64, 512, true⟩ ∧ 8 + 32 ≤ 64 ∧ s.storOk 0 1 8 32 = true := by
  unfold State.CtlFits State.RingReady; decide
theorem test_hyp_DrivesAndVolumes_attach : let s := host 0 (ringW 0)
    s.CtlFits 0 0 (hdr 2) true 2 0 ∧ s.CtlFits 0 0 (hdr 5) true 5 0 ∧ s.vol 2 = none ∧ (blkW []).vol 2 = some volW ∧ (blkW []).keys.erase = [] ∧ (64 : Nat) > 63 := by
  unfold State.CtlFits State.RingReady; decide
set_option exponentiation.threshold 400 in
theorem test_hyp_NetworkPorts_links : let a := port0 [(R.portPmd 0, 1)]
    (port0 [(R.portAnEn 0, 1), (R.portPmd 0, 1)]).portAn 0 = true ∧ (port0 [(R.portAnEn 0, 0)]).portAn 0 = false ∧ a.isPort 0 = true ∧ a.fld (R.portEn 0) = 1 ∧
    ({ mode := a.fld (R.octMode 0), pmd := a.fld (R.portPmd 0) } : Ability) ∈ [({ mode := 0, pmd := 1 } : Ability)] ∧
    ({ mode := a.fld (R.octMode 0), pmd := a.fld (R.portPmd 0) } : Ability) ∉ [({ mode := 1, pmd := 1 } : Ability)] ∧
    a.stewardOff 3 = false ∧ ({ a with stopped := [3] } : State).stewardOff 3 = true := by decide
theorem test_hyp_NetworkPorts_ingress : let e : RxEntry := { port := 0, tag := 0, pipe := 0, mw := 0, data := frame [0, 0] 60, dest := .port 0 2, mirror := none }
    let s : State := { port0 [] with net := { State.reset.net with reorder := State.reset.net.reorder.set 0 [e] } }
    s.stage 0 = [e] ∧ s.net.ingress[(0 : Fin 4)] = [] ∧ s.portUp 0 = true ∧ s.room 0 2 ((s.advance 0).egFrame 0 (.raw e.data)) = true ∧ s.portUp 1 = false := by decide
theorem test_hyp_NetworkPorts_sync : let f : EgFrame := ⟨72, 92, 92, 0, .ptp 0 (ptpMsg false)⟩
    let s := port0 []
    let u : State := { s with net := { s.net with eg := s.net.eg.set 0 { (s.eg 0) with tq := [f] } } }
    (u.eg 0).tq = [f] ∧ (u.eg 0).busy ≤ 0 ∧ u.portUp 0 = true ∧ u.fld (R.secyEn 0) = 0 ∧ u.net.txWait = [] := by decide
theorem test_hyp_NetworkPorts_waits : let w : Nat × Nat × Frame × Work := (0, 2, .raw (frame [0, 0] 60), ⟨0, 3, 7, 0, 0⟩)
    let s := host 3 (ringW 3)
    let u : State := fs [(R.portEn 0, 1), (R.portLinkUp 0, 1)] { s with net := { s.net with txWait := [w] } }
    let z : State := { u with quota := u.quota.set (R.instKey 0 + 0x4C) 1, net := { u.net with txCeil := u.net.txCeil.set 0 ⟨-1000000000000, 0⟩ } }
    u.Still ∧ u.net.txWait = [w] ∧ (u.advance 0).txReady w = true ∧ s.held = false ∧ s.txCeilOf 0 = 0 ∧
    z.Still ∧ z.net.txWait = [w] ∧ (z.advance 0).txReady w = false := by
  unfold State.Still; decide
theorem test_hyp_BlockCommands_room : ((drive0 State.reset).drive 0).queueRoom = true ∧ ((drive0 State.reset).lines true).length < 524288 ∧ ((blkW []).lines true).length + 1 < 524288 := by decide
theorem test_hyp_DrivesAndVolumes_dma : let s := drive0 State.reset
    let c := cmd0 false
    let d : State := { s with blk := { s.blk with drives := s.blk.drives.set 0 { s.drive 0 with cmds := [c] } } }
    ((d.drive 0).cmds.find? fun x => x.cid == 4) = some c ∧ 500 + 12 ≤ c.buf.length ∧ ((d.drive 0).cmds.find? fun x => x.cid == 5) = none ∧ (5 : Nat) < 8 ∧ d.Still := by
  unfold State.Still; decide
theorem test_hyp_DrivesAndVolumes_create : let s := drive0 (host 0 (ringW 0))
    let a : VolAttr := volW.a
    let b : VolAttr := { a with vol := 3 }
    let two := drive0 (blkW [])
    volExtents a = [(0, 1, 8, 32)] ∧ s.allExtents = [] ∧ two.allExtents = [(0, 1, 8, 32)] ∧ extOverlap (0, 1, 8, 32) (0, 1, 39, 1) = true ∧ extOverlap (0, 1, 8, 32) (0, 1, 40, 1) = false ∧
    (0, 1) ∈ volDrives b ∧ volW.a.home ≠ ({ b with home := 1 } : VolAttr).home ∧ s.storOk 0 1 8 32 = true ∧ (fs [(R.storLinkUp 0, 1)] State.reset).storOk 0 1 8 32 = false := by decide

/-! ## Premises of the statements about decode support, checkpoints, health and the twin -/

/-- A sequence for accelerator 0, at position 3. -/
def seqA : SeqAttr := ⟨1, 0, 1, 0, 4, 3, 5, 9, 0x3F800000, 0, 65536, 2, 1, 0, 0⟩
/-- It, in a state. -/
def seqW (st : SeqSt) : Seq :=
  { inst := 0, a := seqA, gen := 0, st := st, pos := 3, stream := [], mapped := [], laid := true, next := 1, loaded := 0, loading := [], done := [], cands := [], token := 9, need := 0,
    pages := [], nodes := [], half := [], held := [], alloc := false, want := false, resident := true, waitFrom := 0, used := 0, taken := false }
/-- Sequence 4 exists, with pools of instance 0, over a state. -/
def decS (q : Seq) (s : State) : State :=
  { s with dec := { DecSt.empty with pools := [(0, ⟨[(0, 0, 2)], some (0, 8 * 65536), some (0, 65536), none⟩)], seqs := [(4, some q)] } }
/-- A candidates entry: sequence 4, position 3, pass 0, `n` candidates; or, with `op` 2, PASS_DONE. -/
def decWrites (op n : Byte) : WinWrites := [(0x8000, op), (0x8002, 4), (0x8004, 3), (0x800E, n)]
theorem test_hyp_DecodeSupport : let q : Seq := { seqW .granted with a := { seqA with shift := 4 } }
    let s := decS q (winS .decode (decWrites 2 0) q0)
    let e := decEntry (s.win .decode 0) 0 (0 % 4)
    s.held = false ∧ s.fld R.twinState ≠ 6 ∧ s.twin.held = [] ∧ (s.accQ .decode 0 0).st = 1 ∧ (s.accQ .decode 0 0).taken < (s.accQ .decode 0 0).tail ∧ e.op = 2 ∧ e.rsv = false ∧
    e.count = 0 ∧ e.addr = 0 ∧ (s.seq e.seq) = some q ∧ s.serves q = true ∧ bitAt q.a.mask 0 = true ∧ q.st ≠ .ended ∧ e.pos = q.pos ∧ q.next ≠ 0 ∧ e.pass + 1 = q.next ∧
    q.done.contains (0, e.pass) = false ∧ (decEntry ((winS .decode (decWrites 1 2) q0).win .decode 0) 0 0).count = 2 ∧
    (winS .decode (decWrites 1 2) q0).accOk 0 0 (8 * 2) = true ∧ fp32BadLogit 0x7F7FFFFF = false ∧ fp32BadLogit 0x7F800000 = true := by decide
theorem test_hyp_DecodeSupport_steps : let q : Seq := { seqW .merging with resident := false }
    let s := decS (seqW .merging) (winS .decode [] q0)
    s.seq 4 = some (seqW .merging) ∧ (seqW .merging).loading = [] ∧ seqMembers seqA = [0] ∧ (s.accQ .decode 0 (4 % 4)).canPost .decode = true ∧
    ((seqW .merging).token = seqA.eos ∧ seqA.eos ≠ 0xFFFFFFFF) ∧ (seqW .granted).st ≠ .merging ∧ s.seq 5 = none ∧ q.resident = false ∧ (decS q State.reset).seqRoom 0 = true ∧
    (decS q State.reset).seq 4 = some q := by decide
theorem test_hyp_DecodeSupport_pages : let g : SeqPage := ⟨0, 1, 5, some (2, 6), true, 0⟩
    let q : Seq := { seqW .granted with pages := [g], stream := [0], loading := [0], half := [1] }
    let s := decS q (winS .decode [] q0)
    q.chunk 0 = [0] ∧ (s.pools 0).run 0 = some (0, 2) ∧ q.nodes = [] ∧ q.want = false ∧ g.tier ≠ 2 ∧ g.move = some (2, 6) ∧ 6 * 65536 + 65536 ≤ s.workTop ∧
    ({ g with move := some (3, 0) }).move = some (3, 0) ∧ (host 0 (ringW 0)).hostOk 0 0 65536 = true ∧ s.tierSpan 0 2 = some (0, 8) ∧ 8 ≤ 16 * (8 - s.tierBusy 0 2) := by decide
theorem test_hyp_DecodeSupport_held : let h : SeqCpl := ⟨0, 2, List.replicate 16 0, 0⟩
    let q : Seq := { seqW .merging with held := [h] }
    q.held = [h] ∧ h.member < 8 ∧ q.st ≠ .granted ∧ h.kind ≠ 1 ∧ ((winS .decode [] q0).accQ .decode 0 0).canPost .decode = true ∧
    ((winS .decode [] { q0 with posted := 4 }).accQ .decode 0 0).canPost .decode = false := by decide
theorem test_hyp_DecodeSupport_control : let s := host 0 (ringW 0)
    s.CtlFits 0 0 (hdr 24) true (poolParamLen (.t1 0 65536)) 0 ∧ s.CtlFits 0 0 (hdr 32) true (poolParamLen (.t0 [(7, 0, 1)])) 0 ∧ s.CtlFits 0 0 (hdr 73) false 73 0 ∧
    s.dec.pools = [] ∧ s.sliceOk 0 0 65536 = true := by
  unfold State.CtlFits State.RingReady; decide
theorem test_hyp_DecodeSupport_create : let s := host 0 (ringW 0)
    covered (s.dmaWins 0) 0 65536 = true ∧ seqBad seqA = false ∧ seqBad { seqA with maxLen := 3 } = true ∧ (s.pools 0).t1 = none ∧
    ((blkW []).vol 2).isSome = true ∧ (∃ a ∈ (blkW []).blk.atts, a.vol = 2 ∧ a.acc = false ∧ a.index = 0 ∧ a.ro = false) := by decide

/-- A definition of one shard of 64 KiB in stack 0. -/
def rsD : RsDef := ⟨0, 0, 0, false, [⟨1, 0, 0, 65536⟩], []⟩
/-- Regions of 1 MiB; a definition may stand. -/
def rsS (l : List (Fld × Nat)) (d : Option RsDef) : State :=
  let s := fs ([(R.rsLen 0, 1), (R.hbmWorkMib, 18432), (R.hbmSpare, 1)] ++ l) (host 0 (ringW 0))
  { s with ckpt := { CkptSt.reset with defn := d }, keys := { slots := [(5, some ⟨false, 0, 1, 0⟩)], erase := [], mism := [] } }
theorem test_hyp_Checkpoints : let s := rsS [] none
    s.CtlFits 0 0 (hdr 56) true (32 + 24 * rsD.shards.length + 24 * rsD.bindings.length) 0 ∧ s.fld R.ckptState = 0 ∧ s.beat.running = none ∧ s.ckpt.defn = none ∧
    s.rsBad rsD = false ∧ s.rsBad { rsD with shards := [] } = true ∧ (∀ k, k < 4 → s.regionBad k = false) ∧ (rsS [(R.rsLen 0, 18433)] none).regionBad 0 = true ∧
    (rsS [(R.ckptState, 1)] none).fld R.ckptState = 1 := by
  unfold State.CtlFits State.RingReady; decide
theorem test_hyp_Checkpoints_load : let s := rsS [] (some rsD)
    s.CtlFits 0 0 (hdr 32) true 32 0 ∧ rsD.shards.find? (fun y => y.id == 1) = some ⟨1, 0, 0, 65536⟩ ∧ 65535 + 1 ≤ 65536 ∧ s.sliceOk 0 0x200000 1 = true ∧ s.inFwSpan 0x200000 1 = false ∧
    s.ckptKey 5 = true ∧ s.ckptKey 4 = false ∧ s.CtlFits 0 0 (hdr 26) true 26 0 ∧ s.CtlFits 0 0 (hdr 0) true 0 0 ∧ s.ckptIdle = true := by
  unfold State.CtlFits State.RingReady; decide
theorem test_hyp_Checkpoints_arm : let q : Qp := { qp0 .ready with owner := 64 }
    let s : State := { rsS [] (some rsD) with lft := { LftSt.empty with qps := [(3, some q)] } }
    s.targetBad s.shards (.remote 3 0 (2 ^ 21)) = false ∧ s.targetBad s.shards (.remote 4 0 (2 ^ 21)) = true ∧ s.nosched = true ∧
    (let b : State := { s with beat := { Beat.reset with running := some image0 } }; b.ckpt.defn.any b.rosterOk = true) := by decide
/-- A checkpoint under way whose writes have ended with a status. -/
def ckptS (flight : List (Nat × Nat × Nat × Nat)) (man : Option Nat) (st : Nat) : State :=
  let s := rsS [(R.ckptState, 3)] (some rsD)
  let z : CkptRun := ⟨7, .volume 2 0, 5, [0], 0, 0, 0, [], false, [], flight, 0, man, none, none⟩
  { s with ckpt := { s.ckpt with run := some z }, blk := { s.blk with finished := [(9, st, [])] } }
theorem test_hyp_Checkpoints_events : let s := ckptS [(0, 0, 0, 9)] none 0
    (s.ckpt.run.map (·.flight)) = some [(0, 0, 0, 9)] ∧ s.writeResult 9 = some 0 ∧ s.writeResult 8 = none ∧ (ckptS [] (some 9) 4).writeResult 9 = some 4 ∧ s.keys.erase = [] ∧
    s.shards[0]? = some ⟨1, 0, 0, 65536⟩ ∧ (0 + min chunkBytes (65536 - 0 * chunkBytes)) / mib < 2 ^ 32 ∧ s.fld R.ckptState = 3 := by decide
theorem test_hyp_Checkpoints_restore : let w : Work := ⟨0, 0, 7, 0, 0⟩
    let s : State := { rsS [(R.ckptState, 5)] (some rsD) with ckpt := { CkptSt.reset with defn := some rsD, restore := some ⟨w, .volume 2 0, 5, 0, []⟩ } }
    s.ckpt.restore = some ⟨w, .volume 2 0, 5, 0, []⟩ ∧ s.ckpt.defn = some rsD ∧ s.Owes w := by
  unfold State.Owes State.RingOwes; decide

/-- A report of a core of physical Bunch 0. -/
def rep (code unit : Nat) : State := { State.reset with reports := [⟨code, unit, 3⟩] }
theorem test_hyp_HealthAndWitness : (rep 1 0).reports = [⟨1, 0, 3⟩] ∧ unitClass 0 ≠ 7 ∧ unitClass 0x7003 = 7 ∧ unitClass 0 = 0 ∧ (rep 1 0).health.recent = [] ∧
    ¬(∀ x ∈ [(1, 0, 3, 0)], x.1 = 1 → x.2.1 = 0 → x.2.2.2 + dayNs ≤ 5) ∧ (rep 2 0).health.suspects = [] ∧ (fs [(R.twinState, 3)] (rep 2 0)).fld R.twinState = 3 ∧
    (rep 2 0).fld (R.marginLevel 0 0) < 5 ∧ (fs [(R.marginLevel 0 0, 5)] (rep 2 0)).fld (R.marginLevel 0 0) = 5 ∧ (rep 2 0).spareFree 0 0 = true ∧ (rep 2 0).coreAt 0 = some 0 ∧
    (fs [(R.marginEn, 0)] (rep 2 0)).fld R.marginEn = 0 := by decide
theorem test_hyp_HealthAndWitness_kat : let s : State := { State.reset with beat := { Beat.reset with katRuns := [(5, 0)] } }
    s.beat.katRuns = [(5, 0)] ∧ ((s.modCore 5 fun c => { c with run.state := .running }).core (coreUnit 5)).run.state = .running ∧
    ((s.modCore 5 fun c => { c with run.state := .halted, run.reason := .halt }).core (coreUnit 5)).run.reason = .halt ∧ (s.core (coreUnit 5)).run.state ≠ .halted := by decide
/-- A witnessed group of two replicas with one peer over queue pair 3, and its compare. -/
def witS (busy : Bool) (l : List (Nat × List Byte)) : State :=
  let s := lft (qp0 .ready)
  { s with health := { s.health with witDefs := s.health.witDefs.set 0 (some ⟨0, [1], 2, 0, [⟨1, 0, 3⟩], [], 100⟩), witRuns := s.health.witRuns.set 0 (some ⟨6, 0, busy, l⟩) },
           ckpt := { CkptSt.reset with defn := some rsD } }
theorem test_hyp_HealthAndWitness_witness : let s := witS true []
    s.witRun 0 = some ⟨6, 0, true, []⟩ ∧ s.QpAlone 3 (qp0 .ready) ∧ (qp0 .ready).Level ∧ psnAdd (qp0 .ready).acked 1 = (qp0 .ready).sent ∧ s.PathUp (qp0 .ready) path0 ∧
    64 ≤ mtuBytes (qp0 .ready).mtu ∧ max s.time.now 99999 < 0 + 100 * 1000 ∧ 0 + 100 * 1000 ≤ max s.time.now 100000 := by
  unfold State.QpAlone State.PathUp Qp.Level; decide
theorem test_hyp_HealthAndWitness_judged : let z : WitRun := ⟨6, 0, false, [(0, [1]), (1, [1])]⟩
    z.busy = false ∧ z.digests ≠ [] ∧ (∀ x ∈ z.digests, x.2 = [1]) ∧ z.digests.length = 2 ∧ majority 3 [(0, [1]), (1, [1]), (2, [2])] = some [1] ∧ majority 2 [(0, [1]), (1, [2])] = none ∧
    (let x : WitRec := ⟨1, 0, 0, 1, 6, 1, 0, false, [1]⟩
     x.season = z.season ∧ x.replica < 2 ∧ x.replica ≠ 0 ∧ ∀ g ∈ [((0 : Nat), ([1] : List Byte))], g.1 ≠ x.replica) ∧
    (∀ j ∈ [1], ∃ x ∈ (rsS [] (some rsD)).shards, x.id = j) := by decide
theorem test_hyp_HealthAndWitness_define : (rsS [] (some rsD)).CtlFits 0 0 (hdr 44) true (28 + 8 * (1 + 1 + 0)) 0 ∧ (rsS [] (some rsD)).beat.running = none ∧
    ((lft (qp0 .ready)).qp 3).map (fun q => (q.owner, q.st)) = some (64, .ready) := by
  unfold State.CtlFits State.RingReady; decide

/-- A record of the twin, whose SIDE is 1. -/
def trec (kind seq : Nat) : TwinRec := ⟨1, 0, kind, if kind = 2 then 1 else 0, seq, 0, 1, 3, 77, 0, false, false⟩
/-- The twin function in a state. -/
def twinS (st : Nat) (f : TwinSt → TwinSt) : State := fs [(R.twinState, st), (R.twinLinkUp, 1)] { State.reset with twin := f TwinSt.reset }
theorem test_hyp_TwinOperation : (∀ c ∈ (twinS 1 id).twinChecks (trec 2 1), c.1 = false) ∧ (∀ c ∈ (twinS 1 id).twinChecks (trec 1 0), c.1 = false) ∧
    (∀ k ∈ [0, 1, 3, 4, 5, 6], ∀ c ∈ (twinS 0 id).twinChecks (trec k 0), c.1 = false) ∧ ((twinS 1 id).twinChecks (trec 7 0)).find? (·.1) = some (true, 1) ∧
    ((twinS 1 id).twinChecks (trec 2 4097)).find? (·.1) = some (true, 7) ∧ (trec 2 1).seq = (twinS 1 id).twin.applied + 1 ∧ contradicts [] (.other 1) = false ∧
    contradicts [] (.volume 3 none) = true ∧ (trec 0 0).side ≠ (twinS 0 id).fld R.twinSide ∧ (twinS 3 id).fld R.twinState = 3 := by decide
theorem test_hyp_TwinOperation_quiet : (twinS 1 id).TwinQuiet ∧ (twinS 1 id).Still ∧ (twinS 1 id).dec.seqs = [] ∧ (twinS 1 id).ckpt.run = none := by
  unfold State.TwinQuiet State.Still; decide
theorem test_hyp_TwinOperation_held : let w : Work := ⟨0, 1, 7, 0, 0⟩
    let h := host 1 (ringW 1)
    let s : State := fs [(R.twinState, 1)] { h with twin := { TwinSt.reset with held := [(5, .ring w 0 0 0)] } }
    s.twin.held = [(5, .ring w 0 0 0)] ∧ s.RingOwes w ∧ s.Still ∧ s.twin.resync = none ∧ s.fld R.twinState = 1 := by
  unfold State.RingOwes State.Still; decide
theorem test_hyp_TwinOperation_timers : let s := twinS 1 id
    let old := twinS 1 fun z => { z with unconf := [⟨4, .other 1⟩] }
    s.twin.lastLink + max 4 (s.fld R.twinHbUs) * 1000 ≤ max s.time.now 20000 ∧ ¬(s.twin.lastLink + max 4 (s.fld R.twinHbUs) * 1000 ≤ max s.time.now 19999) ∧
    s.twin.lastBackup + max 2 (s.fld R.twinBkUs) * 10000 ≤ max s.time.now 100000 ∧ s.twin.helloGot = false ∧ s.heartStopped = false ∧ s.twin.unconf = [] ∧
    old.twin.unconf = [⟨4, .other 1⟩] ∧ (fs [(R.twinAuditMs, 1)] s).fld R.twinAuditMs ≠ 0 ∧ s.fld R.twinSide ≠ 1 ∧ (twinS 2 id).fld R.twinState = 2 := by decide
theorem test_hyp_TwinOperation_stopped : ({ State.reset with stopped := [0, 5] } : State).heartStopped = true ∧ (fs [(R.ftState, 3)] State.reset).fld R.ftState = 3 ∧
    0 + State.reset.holdoverLimit ≤ max State.reset.time.now 1000000 := by decide
theorem test_hyp_DecodeSupport_contexts : let q : Seq := { seqW .granted with resident := false }
    let y := seqW .granted
    let u : State := { decS q State.reset with dec := { (decS q State.reset).dec with seqs := [(4, some q), (5, some y)] }, quota := State.reset.quota.set (R.instKey 0 + 0x48) 65536 }
    (decS q State.reset).seqAhead 4 q < (decS q State.reset).seqFree 0 ∧ u.seqFree 0 = 0 ∧ u.seqAhead 4 q = 0 ∧ u.seqRes 0 = 1 ∧ u.seqResident 0 = 1 ∧ u.seq 5 = some y ∧ y.resident = true ∧
    ({ y with next := 0 } : Seq).pinned = false ∧ ({ y with next := 1 } : Seq).pinned = true ∧ y.inst = q.inst ∧ u.seqWaiting = true ∧ (decS y State.reset).seqWaiting = false ∧
    (decS y State.reset).serves y = true ∧ 3 % 2 ^ 4 ≠ 0 := by decide
/-- A sequence whose pages fill T1. -/
def seqFull : Seq := { seqW .granted with pages := (List.range 8).map fun i => ⟨i, 2, i, none, false, i⟩ }
theorem test_hyp_DecodeSupport_demotion : let s := decS seqFull State.reset
    s.tierSpan 0 2 = some (0, 8) ∧ 16 * (8 - s.tierBusy 0 2) < 8 ∧ s.oldPage 0 2 = some (4, ⟨0, 2, 0, none, false, 0⟩) ∧ s.seq 4 = some seqFull ∧ seqFull.inst = 0 ∧
    SMap.wf (fun _ => none) s.dec.seqs = true ∧ s.lowerTiers 0 2 = [3] ∧ s.tierFree 0 3 (seqMembers seqFull.a).length = [0] := by decide
theorem test_hyp_DecodeSupport_moves : let g : SeqPage := ⟨0, 1, 1, some (2, 6), true, 0⟩
    let q : Seq := { seqW .granted with pages := [g], want := true, a := { seqA with shift := 1 } }
    let s := decS q State.reset
    (q.pages.find? fun x => x.pn == g.pn) = some g ∧ s.Still ∧ s.dec.seqs = [(4, some q)] ∧ q.a.mask ≠ 0 ∧ g.loc < (s.pools 0).slots q.a ∧ g.loc ∉ q.mapped.map (·.2) ++ q.half ∧
    g.pn ≠ (q.pos - 1) / 2 ^ q.a.shift := by
  unfold State.Still; decide
theorem test_hyp_DecodeSupport_pools : let s := decS (seqW .granted) State.reset
    (s.pools 0).t0 ≠ [] ∧ (s.pools 1).t0 = [] ∧ (∃ e ∈ s.dec.pools, ∃ x ∈ e.2.t0, x.1 = 0 ∧ x.2.1 = 0 ∧ x.2.2 = 2) ∧ ([(1, 0, 1), (2, 0, 1)].map fun x : Nat × Nat × Nat => x.1).Nodup ∧
    (∃ e ∈ s.dec.pools, e.2.t1 = some (0, 8 * 65536)) ∧ (∀ e ∈ s.dec.pools, e.2.t3 ≠ some 2) ∧ (s.pools 1).t1 = none := by decide
theorem test_hyp_Checkpoints_merge : let r : Ram := { Ram.empty with bad := [2] }
    r.mergeFails 64 100 29 = true ∧ r.mergeFails 64 100 28 = false ∧ r.mergeFails 64 128 64 = false ∧ State.reset.gap = false ∧ ({ State.reset with stopped := [7] } : State).gap = true ∧
    (let l := [((0 : Nat), (0 : Nat), (0 : Nat), (9 : Nat)), (1, 0, 0, 10)]; l.find? (fun f => f.1 == 1) = some (1, 0, 0, 10) ∧ (10 : Nat) ≠ 0) ∧
    ((ckptS [] (some 9) 4).ckpt.run.bind fun z => z.manifest.bind (ckptS [] (some 9) 4).writeResult) = some 4 := by decide
/-- The manifest of a run of two shards of a byte each, in regions that do not meet. -/
def man2 : List Byte := List.replicate 44 0 ++ natLe 4 2 ++ List.replicate 80 0 ++ (List.replicate 8 0 ++ natLe 8 0) ++ natLe 8 1 ++ List.replicate 72 0 ++ List.replicate 8 0 ++ natLe 8 1 ++ natLe 8 1
theorem test_hyp_Checkpoints_shards : le man2 44 4 = 2 ∧ le man2 48 4 = 0 ∧ (let a := fun k : Nat => stackKey (le man2 (128 + 96 * k + 4) 1 % 4) (le man2 (128 + 96 * k + 8) 8)
    a 0 + 1 ≤ a 1) ∧ le man2 (128 + 16) 8 = 1 ∧ le man2 (128 + 96 + 16) 8 = 1 := by decide
theorem test_hyp_HealthAndWitness_rows : let e : HealthSt := { State.reset.health with sramRemap := (List.range 16).map fun i => (0x2000, i * 32) }
    let row := fun (y : Nat × Nat) => y.1 == 0x2000 && y.2 % 32 == 0
    spareRows 0x2000 = 16 ∧ spareRows 0x1000 = 8 ∧ spareRows 0x2000 ≤ (e.sramRemap.filter row).length ∧ (State.reset.health.sramRemap.filter row).length < spareRows 0x2000 ∧
    State.reset.stewardOff 5 = false ∧ ({ State.reset with stopped := [5] } : State).stewardOff 5 = true := by decide
theorem test_hyp_HealthAndWitness_open : let s := witS true []
    let d : WitDef := ⟨0, [1], 2, 0, [⟨1, 0, 3⟩], [], 100⟩
    (∀ x ∈ s.witShards d, s.keyHeld (stackKey x.stack 0) = false) ∧ s.witShards d = [⟨1, 0, 0, 65536⟩] ∧ (twinS 1 id).Still ∧
    (let h : State := { s with hbmCtl := s.hbmCtl.set 0 { s.hbmCtl[0] with phase := .draining } }; ¬(∀ x ∈ h.witShards d, h.keyHeld (stackKey x.stack 0) = false)) := by
  unfold State.Still; decide
theorem test_hyp_TwinOperation_journal : let j : JournalRec := ⟨9, 0, 7, 2, 0, 0, 0, false⟩
    contradicts [] (.journal j) = false ∧ (trec 2 1).seq = (twinS 1 id).twin.applied + 1 ∧ (twinS 1 id).stewardOff 6 = false ∧ ({ twinS 1 id with stopped := [6] } : State).stewardOff 6 = true ∧
    (twinS 2 id).takeoverWaits = false ∧ ({ twinS 2 id with stopped := [4] } : State).takeoverWaits = true ∧ 5 ≤ (5 : Fin 9).val ∧
    (twinS 1 fun z => { z with unconf := [⟨4, .other 1⟩, ⟨5, .other 2⟩] }).twin.unconf.length = 2 := by decide

/-! ## Premises of the statements about hosts, firmware, boot, telemetry, power and registers -/

theorem test_hyp_HostRings : let s := host 0 (ringW 0)
    s.CtlFits 0 0 ⟨7, 0, 0, 0x200, 64, false, true, true⟩ false 0 64 ∧ s.CtlFits 0 0 (hdr 36) false 36 0 := by
  unfold State.CtlFits State.RingReady; decide
theorem test_hyp_HostRings_drop : let s := host 0 (ringW 0)
    s.CtlFits 0 0 (hdr 1) false 1 0 ∧ s.CtlFits 0 0 (hdr 2) false 2 0 := by
  unfold State.CtlFits State.RingReady; decide
theorem test_hyp_HostRings_refused : let s := host 0 (ringW 0)
    s.RingReady 0 0 0 ∧ s.Still ∧ { hdr 2 with rsv := true }.rsv = true := by
  unfold State.RingReady State.Still; decide
theorem test_hyp_HostRings_keys : let s := host 0 (ringW 0)
    s.CtlFits 0 0 (hdr 56) false (16 + 40) 0 ∧ s.CtlFits 0 0 (hdr 12) true 12 0 ∧ s.ownsSlot 0 4095 = true ∧ s.ownsSlot 0 4096 = false ∧ s.boundCount 5 = 0 := by
  unfold State.CtlFits State.RingReady; decide
theorem test_hyp_HostRings_doorbells : let s := host 0 (ringW 0)
    let x := s.ring 0 0
    State.reset.fld (R.instEnabled 5) = 0 ∧ s.fld (R.instEnabled 0) = 1 ∧ (fs [(R.instResident 0, 0)] s).fld (R.instResident 0) = 0 ∧ x.st = .active ∧ (s.ring 0 1).st = .none ∧
    x.sqN ≤ (4#16).toNat ∧ (3#16).toNat < x.sqN ∧ x.tail - x.taken ≤ ((3#16).toNat + x.sqN - x.taken % x.sqN) % x.sqN ∧ ((0#16).toNat + x.sqN - x.taken % x.sqN) % x.sqN < x.tail - x.taken ∧
    x.posted - x.released < ((1#16).toNat + x.cqN - x.released % x.cqN) % x.cqN ∧ ((0#16).toNat + x.cqN - x.released % x.cqN) % x.cqN ≤ x.posted - x.released ∧
    s.fld (R.lhqiVec 0) < msixVecs 0 ∧ s.fld (R.msixMask 0 0) = 1 ∧ s.twin.held = [] := by decide
theorem test_hyp_HostRings_enable : let s := fs [(R.instEnabled 0, 1), (R.hostVerMajor 0, 1), (R.lhqiSqM1 0, 1), (R.lhqiCqM1 0, 1)] { State.reset with csr := Csr.window [] (R.rindHdma 0) }
    s.fld (R.lhqiReady 0) = 0 ∧ s.fld (R.hostVerMajor 0) = 1 ∧ s.hostOk 0 0 128 = true ∧ s.csr.get64 (R.lhqiAdminSq 0) % 4096 = 0 ∧ 2 ≤ s.fld (R.lhqiSqM1 0) + 1 ∧
    s.fld (R.lhqiHbMs 0) = 1000 ∧ 0 + 1000 * 1000000 ≤ max s.time.now 1000000000 := by decide
theorem test_hyp_HostRings_create : let s := host 0 (ringW 0)
    let p : RingDef := ⟨63, 5, 0, 2, 2, 0, 0, 65535, 65535⟩
    p.ring ≤ 63 ∧ p.typ ≤ 5 ∧ p.vec < vecCount 0 ∧ p.sqBase % 4096 = 0 ∧ (s.ring 0 63).st = .none ∧ s.hostOk 0 p.sqBase (64 * p.sqN) = true ∧ (s.ring 0 0).st = .active ∧
    (∀ k, k < 64 → k ≠ p.ring → ¬((s.ring 0 k).st ≠ .none ∧ (s.ring 0 k).typ = 5)) := by decide
theorem test_hyp_HostRings_ends : let d : Ring := { ringW 0 with st := .draining, tail := 0 }
    let u : Ring := { ringW 0 with unsig := 1, coalUs := 2 }
    d.st = .draining ∧ d.live = [] ∧ u.unsig ≠ 0 ∧ ¬(max 0 1999 ≥ u.firstUnsig + u.coalUs * 1000) ∧ u.firstUnsig + u.coalUs * 1000 ≤ max 0 2000 ∧ u.vec < msixVecs 0 ∧
    inOne (host 0 u).hdmaWins ((host 0 u).csr.get64 (R.msixKey 0 0)) 4 = true := by decide

theorem test_hyp_InstanceLifecycle : let s := fs [(R.instEnabled 5, 1)] State.reset
    SMap.wf resetVal s.csr = true ∧ s.fld (R.instResident 5) = 0 ∧ s.inst.order.length < 16 ∧ (∀ d ∈ s.inst.doorbells, d.inst ≠ 5) ∧ s.fld R.twinState ≠ 2 ∧ s.Still ∧
    s.fld (R.instRemoving 5) = 0 ∧ (fs [(R.instRemoving 5, 1)] s).fld (R.instRemoving 5) = 1 ∧ 5 ∉ s.inst.late ∧ ¬((64 : Nat) ≤ 63) ∧ (63 : Nat) ≤ 63 := by
  unfold State.Still; decide
/-- All 16 places are taken, the first of them by an instance with work. -/
def full : State :=
  let s := fs [(R.instEnabled 5, 1)] (host 0 { ringW 0 with live := [0] })
  { s with inst := { s.inst with order := [0] ++ (List.range 15).map (· + 10), doorbells := [⟨5, 1, false, 1⟩] } }
theorem test_hyp_InstanceLifecycle_quantum : full.inst.doorbells = [⟨5, 1, false, 1⟩] ∧ full.fld (R.instEnabled 5) = 1 ∧ 5 ∉ full.inst.order ∧ 16 ≤ full.inst.order.length ∧
    full.inst.order.find? (fun j => !full.instPinned j) = some 10 := by decide
theorem test_hyp_InstanceLifecycle_commit : let s := State.reset
    s.shadowRanges 5 = [] ∧ sliceOf s.csr 5 = (0, 0) ∧ s.excludes 5 [] (0, 0) (0, 0) = false ∧ s.narrows 5 = false ∧ s.lft.qps = [] ∧ s.dec.seqs = [] ∧
    (fs [(⟨R.instKey 5 + 0x44, 16, 13⟩, 4096), (⟨R.instKey 5 + 0x44, 0, 12⟩, 1)] s).excludes 5 [] (0, 0) (1, 4096) = false ∧ 4096 < 1 + 4096 := by decide

/-- Steward 3 runs. -/
def stew3 : State := cs (stewardUnit 3) id
theorem test_hyp_Firmware : State.reset.fld R.rindLock = 0 ∧ (fs [(R.rindLock, 1)] State.reset).fld R.rindLock = 1 ∧ (stew3.core (stewardUnit 3)).run.state = .running ∧
    stew3.fw.kick[(3 : Fin 8)] + 10 * 1000000 ≤ max stew3.time.now 10000000 ∧ stew3.fld (R.wdogMs 3) = 0 ∧ 3 ∉ stew3.stopped ∧
    (let z : State := { stew3 with stopped := [3] }; 3 ∈ z.stopped ∧ z.stopped.Nodup ∧ stewardLoader 3 ∉ z.stopped ∧ z.fw.graft = none ∧ z.fw.back = []) ∧
    ¬(stew3.fld R.graftState ≠ 0 ∨ stew3.fld R.twinState = 2 ∨ stew3.fld R.ckptState = 2 ∨ stew3.fld R.ckptState = 4 ∨ stew3.fld R.ckptState = 5) ∧
    (fs [(R.graftState, 2)] stew3).fld R.graftState ≠ 0 ∧ stew3.workTop < stew3.workTop + 1 ∧ pkgFormed [] = false ∧ stew3.hbmBad 0 0 = false := by decide
/-- A Graft of Steward 3 under way, and the length of its record. -/
def graft3 (rest : List Nat) (len : Option Nat) : State :=
  let s := fs [(R.graftState, 2), (R.fwGrafting 3, 1)] stew3
  { s with fw := { s.fw with graft := some ⟨3 :: rest, false, [], true, len, 0⟩ } }
theorem test_hyp_Firmware_graft : let s := graft3 [4] none
    (s.fw.graft.map fun g => (g.targets, g.sent, g.recLen)) = some ([3, 4], true, none) ∧ s.hbmBad (s.recordAddr 3) 32 = false ∧ 0 + 2000000 ≤ max s.time.now 2000000 ∧
    le (s.hbmBytes (s.recordAddr 3) 32) 0 4 ≠ 0x52474D4C ∧ ((graft3 [] (some 128)).fw.graft.bind (·.recLen)) = some 128 ∧ (3 : Nat) ∉ [4] ∧ 4 ∉ s.stopped ∧
    0 + 4000000 ≤ max s.time.now 4000000 ∧ s.recordAddr 3 + 31 ≤ s.workTop ∧ s.fld R.hbmWorkMib ≤ 36864 := by decide
theorem test_hyp_Firmware_record :
    let l := natLe 4 0x52474D4C ++ natLe 2 0 ++ natLe 1 3 ++ List.replicate 17 0 ++ natLe 4 128
    let s : State := { graft3 [] none with hbm := Ram.put Ram.empty 64 (State.reset.workKey (State.reset.recordAddr 3)) l }
    let h := s.hbmBytes (s.recordAddr 3) 32
    le h 0 4 = 0x52474D4C ∧ le h 6 1 = 3 ∧ le h 24 4 = 128 := by decide

/-- A record of DEVICE_SERIAL 9. -/
def rec9 (seq : Nat) : DevRec := ⟨true, true, true, true, seq, 9, ⟨[], HbmTim.b1, [], [], [], [], [], 0, 0, [], [], [], [], false, false, [], [], 0, []⟩⟩
/-- A flash with two copies of the record and no package. -/
def flash9 : Flash := { Flash.empty with recA := some (rec9 4), recB := some (rec9 5) }
/-- A boot that meets nothing wrong. -/
def bootIn : BootIn := ⟨false, false, true, true, true, true, some flash9⟩
theorem test_hyp_BootAndRecord : chooseRec flash9.rpmc1 flash9.recA flash9.recB = some (true, rec9 5) ∧ chooseRec 6 flash9.recA flash9.recB = none ∧ (rec9 5).d.margins = [] ∧
    choosePkg flash9.rpmc0 flash9.pkgA flash9.pkgB = none ∧ State.reset.fld R.bootDone = 0 ∧ State.reset.fld R.bootErr = 0 ∧ State.reset.fld R.bootRecovery = 0 ∧
    State.reset.pins.thermtrip = false ∧ bootIn.flash.getD State.reset.boot.flash = flash9 ∧ (rec9 5).seq < 2 ^ 64 ∧ (rec9 5).serial < 2 ^ 64 ∧
    (fs [(R.bootRecovery, 1)] State.reset).fld R.bootRecovery = 1 ∧ pkgValid [] = false := by decide
/-- Booted with the record, with flash writes waiting. -/
def booted (q : List FlashOp) : State := { fs [(R.bootDone, 1)] State.reset with boot := { BootSt.reset with chosen := some (rec9 5), queue := q } }
theorem test_hyp_BootAndRecord_writes : (booted []).boot.chosen = some (rec9 5) ∧ (booted []).fld R.drWriting = 0 ∧ (booted []).boot.want = false ∧
    (booted [.record true (rec9 6)]).boot.queue = [.record true (rec9 6)] ∧ (rec9 5).seq < (rec9 6).seq ∧ (booted [.package false [1]]).boot.queue = [.package false [1]] ∧
    (booted [.journal ⟨9, 0, 7, 2, 0, 0, 0, false⟩]).boot.queue ≠ [] ∧ (fs [(R.drWriting, 1)] (booted [])).fld R.drWriting = 1 := by decide

/-- A connection over DOE that has come so far, with sessions. -/
def spdm (n : Nat) (l : List SpdmSess) : State := { State.reset with spdm := ⟨(Vector.replicate 2 0).set 0 n, l⟩ }
theorem test_hyp_Attestation : State.reset.stewardGone 0 = false ∧ ({ State.reset with stopped := [0] } : State).stewardGone 0 = true ∧ (spdm 1 []).spdm.conn[b2n (!true)] = 1 ∧
    (spdm 3 []).spdm.conn[b2n (!true)] = 3 ∧ (∀ x ∈ (spdm 3 [⟨0, true, true⟩]).spdm.sessions, x.id ≠ 1) ∧ (∃ x ∈ (spdm 3 [⟨0, true, true⟩]).spdm.sessions, x.id = 0 ∧ x.doe = true ∧ x.up = true) ∧
    (∃ x ∈ (spdm 3 [⟨2, true, false⟩]).spdm.sessions, x.id = 2 ∧ x.doe = true ∧ x.up = false) ∧ 11 ≤ 11 ∧
    (∀ n, n < 4 → ∃ x ∈ (spdm 3 [⟨0, true, true⟩, ⟨1, true, true⟩, ⟨2, false, true⟩, ⟨3, true, false⟩]).spdm.sessions, x.id = n) ∧
    SMap.get (fun _ => none) ({ State.reset with inst := { InstSt.reset with keks := [(5, some 3)] } } : State).inst.keks 5 = some 3 := by decide

theorem test_hyp_Telemetry : let s := host 2 (ringW 5)
    s.tele.logs = [] ∧ s.RingReady 0 2 5 ∧ s.hostOk 0 0 4096 = true ∧ s.hostOk 0 0x10000 4096 = false ∧ (∀ f ∈ s.tele.fill, f.1 ≠ 0) ∧ s.stewardGone 7 = false ∧ s.teleRing 0 = some 2 ∧
    s.fld R.telemPeriod ≠ 0 ∧ s.tele.last + s.fld R.telemPeriod * 1000 ≤ max s.time.now 1000000 ∧ s.beat.running = none ∧ (fs [(R.telemMask, 128)] s).fld R.telemMask = 128 ∧
    s.tele.gaps = [] ∧ State.reset.teleRing 0 = none ∧ (0 : Nat) ≠ 1000000000 / 1000000000 ∧ 256000 < 255937 + 64 := by
  unfold State.RingReady; decide
theorem test_hyp_Telemetry_buffer : let w : Work := ⟨0, 2, 7, 0, 0⟩
    let h := host 2 (ringW 5)
    let s : State := { h with tele := { h.tele with bufs := [⟨w, 4096, 0⟩], fill := [(0, 64, 0)] } }
    s.tele.fill = [(0, 64, 0)] ∧ s.tele.bufs = [⟨w, 4096, 0⟩] ∧ s.Owes w ∧ 0 + 1000000 ≤ max s.time.now 1000000 := by
  unfold State.Owes State.RingOwes; decide

theorem test_hyp_PowerAndPlatform : let s := State.reset
    (1023#16).toNat < 1024 ∧ s.fld R.pwrLevel ≤ 6 ∧ s.fld R.pwrFloor ≤ 6 ∧ ¬((560001 : Int) ≤ 560 * 1000) ∧ s.power.raised = false ∧ s.power.gain.toList.getD 0 0 = 0 ∧
    (let x : ThermIn := ⟨[(0, 0, 114999)], [(0, 109999)]⟩; (∀ b ∈ x.bunch, b.2.2 ≤ 114999) ∧ (∃ b ∈ x.bunch, b.2.2 = 114999) ∧ (∀ k ∈ x.stk, k.2 ≤ 109999) ∧ 114999 < 115000) ∧
    (let h : State := { s with power := { s.power with hot := some 0, fits := some 0 } }; h.power.hot = some 0 ∧ 0 + 1000000 ≤ max h.time.now 1000000) ∧
    s.Still ∧ s.pins.perst = true ∧ SMap.wf resetVal s.csr = true ∧ s.fld R.hostwinCfgLen = 0 ∧ s.fld R.hostwinCfgBase * 2 ^ 28 ≤ s.workTop ∧
    256 < (fs [(R.hostwinCfgLen, 257)] s).fld R.hostwinCfgLen := by
  unfold State.Still; decide

/-- A window of 256 MiB. -/
def winH (c : CxlSt) : State := { fs [(R.hostwinLen, 1)] State.reset with cxl := c }
theorem test_hyp_HostWindow : let s := winH CxlSt.reset
    s.fld R.hostwinLen * 2 ^ 28 < (2 ^ 28 - 1) + 2 ∧ (2 ^ 28 - 64) + 64 ≤ s.fld R.hostwinLen * 2 ^ 28 ∧ s.inFwSpan (2 ^ 28 - 64) 64 = false ∧ s.hbm.bad = [] ∧ s.hbm.soft = [] ∧
    s.cxl.tracked.length < 2 ^ 20 ∧ (fs [(R.rindFwresLen, 8192)] s).inFwSpan 0 64 = true ∧ s.fld R.hbmWorkMib ≤ 36864 ∧ 5 % 64 + 59 ≤ 64 ∧
    (winH ⟨[0], [], []⟩).cxl.tracked = [0] ∧ (winH ⟨[], [0], [(0, 5, [1], false)]⟩).cxl.snooping = [0] ∧
    ({ s with hbm := { Ram.empty with bad := [0] } } : State).hbmBad 0 64 = true := by decide

theorem test_hyp_RegisterAccesses : let s := State.reset
    s.agentOn .pf = true ∧ s.agentOn (.vf 5) = false ∧ s.agentExc .pf 0x200004 4 true = none ∧ s.regPlace .pf 0x200004 = .word 0x200004 ∧ s.noPort 0x200004 = false ∧
    (regInfo 0x200004).map (fun i => (i.rw ||| i.rwl) &&& i.w1c) = some 0 ∧ s.ownWrite 0x200004 5 0 = none ∧ wideOf 0x200004 = none ∧ s.regPlace .pf 0x0FFFFFFC = .none ∧
    wideOf (R.rindHdma 0) = some (R.rindHdma 0, 2) ∧ wideOf (R.rindHdma 0 + 4) = some (R.rindHdma 0, 2) ∧ s.ownWrite (R.rindHdma 0 + 4) 5 0 = none ∧
    s.noPort (R.rindHdma 0) = false ∧ (0, 16) ∈ rcFields 0xB00010 ∧ isHwm 0xB00010 = false ∧ s.regPlace .pf (0xB00010 / 4 * 4) = .word 0xB00010 := by decide
theorem test_hyp_RegisterAccesses_plain : ∀ z : State, z.act 0x200004 5 = z := fun _ => rfl
theorem test_hyp_RegisterAccesses_steward : stew3.agentOn (.steward 3) = true ∧ (stew3.core (stewardUnit 3)).run.state = .running ∧ stew3.fld (R.domCsr 3 0) ≤ 3 ∧
    (fs [(R.domCsr 3 2, 3)] stew3).fld (R.domCsr 3 (0x200004 / mib)) = 3 ∧ 0x200002 % 4 ≠ 0 := by decide
theorem test_hyp_HostRings_waits : let s := host 0 (ringW 0)
    let z : State := { s with stopped := [1] }
    s.feWaits 0x20400008 = false ∧ z.feWaits 0x20400008 = true ∧ z.stewardOff 1 = true ∧ z.stewardOff 0 = false ∧ ({ s with stopped := [0] } : State).stewardOff 0 = true ∧
    z.fld (R.instEnabled 0) = 1 ∧ z.fld (R.lhqiReady 0) = 1 ∧ z.fld R.twinState ≠ 2 ∧ z.fld (R.lhqiHbMs 0) = 1000 ∧ 0 + 1000 * 1000000 ≤ max z.time.now 1000000000 ∧ 0 ∉ z.inst.late := by decide
theorem test_hyp_InstanceLifecycle_spent : let last := fun (j : Nat) => !full.instPinned j && decide (SMap.get (fun _ => 0) full.inst.since j + 100000 ≤ max full.time.now 100000)
    full.inst.order.find? last = some 10 ∧ (let u : State := { full with inst := { full.inst with since := full.inst.order.map fun j => (j, 1) } }
      ∀ j ∈ u.inst.order, (!u.instPinned j && decide (SMap.get (fun _ => 0) u.inst.since j + 100000 ≤ max u.time.now 100000)) = false) := by decide
theorem test_hyp_Firmware_waits : State.reset.feWaits 0x40000C = false ∧ ({ State.reset with stopped := [1] } : State).feWaits 0x40000C = true ∧
    ({ State.reset with stopped := [0] } : State).feWaits 0x40000C = false ∧ 0 ∈ [0] ∧ State.reset.wide.fe = [] ∧ (graft3 [] none).wide.fe = [] := by decide
theorem test_hyp_BootAndRecord_waits : let s : State := { booted [.record true (rec9 6)] with stopped := [0] }
    s.stewardOff 0 = true ∧ (booted []).stewardOff 0 = false ∧ s.boot.queue = [.record true (rec9 6)] ∧ (∀ j, FlashOp.record true (rec9 6) ≠ .journal j) :=
  ⟨by decide, by decide, rfl, fun _ h => nomatch h⟩
theorem test_hyp_Attestation_up : (fs [(R.bootDone, 1)] State.reset).spdmUp true = true ∧ State.reset.spdmUp true = false ∧ (fs [(R.bootRecovery, 1)] State.reset).spdmUp true = false ∧
    (fs [(R.bootRecovery, 1)] State.reset).spdmUp false = true ∧ ({ fs [(R.bootDone, 1)] State.reset with stopped := [0] } : State).spdmUp true = false := by decide
theorem test_hyp_PowerAndPlatform_imon : let a := (List.replicate 16 0).set 6 1000000 |>.set 8 1000000
    (∀ j ∈ List.range 16, j ≠ 6 → j ≠ 8 → a.getD j 0 = 0) ∧ 1000000 ≤ a.getD 6 0 ∧ 1000000 ≤ a.getD 8 0 ∧ imonCode 999999 0 ≤ 1023 ∧ (999999 : Nat) < 1000000 := by decide
theorem test_hyp_HostWindow_back : (0 : Nat) ∈ (winH ⟨[], [0], [(0, 5, [1], false)]⟩).cxl.snooping ∧
    (∀ w ∈ (winH ⟨[], [0], [(0, 5, [1], false)]⟩).cxl.waits, w.1 = 0 → 6 < w.2.1 ∨ w.2.1 + w.2.2.1.length ≤ 6) := by decide
theorem test_hyp_RegisterAccesses_waits : let z : State := { stew3 with stopped := [1] }
    z.feWaits 0x600100 = true ∧ State.reset.feWaits 0x600100 = false ∧ z.regPlace .pf 0x600100 = .word 0x600100 ∧ z.noPort 0x600100 = false ∧ z.agentExc .pf 0x600100 4 true = none ∧
    (let s : State := { State.reset with wide := { State.reset.wide with fe := [.write 0x600100 1] } }
     (({ s with wide.fe := [] } : State).wordWrite 0x600100 1 0).wide.fe = [] ∧ s.agentOn .pf = true ∧ s.agentExc .pf 0x600104 4 false = none) ∧
    (let c := copy 18432 1; let u : State := { c with hbmCtl := c.hbmCtl.set 0 { c.hbmCtl[0] with phase := .copying, len := 18432 } }
     u.hbmCtl[(0 : Fin 4)].phase = .copying ∧ u.fld (R.copyProgress 0) ≤ u.hbmCtl[(0 : Fin 4)].len ∧ u.hbmCtl[(0 : Fin 4)].len < 2 ^ 18 ∧ u.regPlace .pf 0x800110 = .word 0x800110) := by decide


end Sys2Proof.Tests
end

section
/-! Register accesses (spec/00, spec/27): a read that meets an FE register whose Steward is gone waits, whatever its width and alignment, so
that R647's refusal of a misaligned read does not come before the wait of R556. -/

namespace Sys2Proof.Machine

/-- With nothing waiting, an access finds the state as it is. -/
theorem State.feRelease_of_nil {s : State} (h : s.wide.fe = []) : s.feRelease = s := by
  have hs : ({ s with wide.fe := [] } : State) = s := by rw [← h]
  rw [State.feRelease, h, List.foldl_nil, hs]

/-- A read that no right forbids waits where it falls on an FE register whose Steward is gone (R556): it joins the waiting accesses, and
neither an answer nor a record of it is made. -/
theorem exec_rcFieldRead_waits {s : State} {a : RegAgent} {off size : Nat} {upd : Word} (hfe : s.wide.fe = []) (hon : s.agentOn a = true)
    (hexc : s.agentExc a off size false = none) (hreads : s.feReads a off size = true) :
    exec (.rcFieldRead a off size upd) s = .next { s with wide.fe := [.read a off size upd] } := by
  change execRcFieldRead a off size upd s = _
  simp [execRcFieldRead, hon, hexc, State.feRelease_of_nil hfe, hreads, hfe]

end Sys2Proof.Machine

open Sys2Proof Sys2Proof.Machine

/-- Refutes O59: with Steward 1 stopped, a read of 4 bytes at 0x60_0102, two bytes into BT_CTL, is not aligned and so must be refused with zero
and recorded (R647); but the model asks first whether the word it touches is an FE register that waits (R556), and keeps the read. -/
theorem not_registerAccesses : ¬ Obligations.RegisterAccesses := by
  unfold Obligations.RegisterAccesses
  intro h
  let s : State := { State.reset with stopped := [1] }
  have hreads : s.feReads .pf 0x600102 4 = true := by decide
  have hwaits : exec (.rcFieldRead .pf 0x600102 4 0) s = .next { s with wide.fe := [.read .pf 0x600102 4 0] } :=
    exec_rcFieldRead_waits rfl rfl rfl hreads
  obtain ⟨-, hidle⟩ := h s .pf 0x600102 4 0 0 0
  obtain ⟨-, -, -, hrefused, -⟩ := hidle rfl
  obtain ⟨r, hr, hanswer, -⟩ := hrefused rfl (Or.inr (by decide))
  obtain rfl := Host.Outcome.next.inj (hwaits.symm.trans hr)
  have hout : ([] : List Emit) = [.readData 0] := congrArg State.out hanswer
  exact absurd hout (List.cons_ne_nil _ _).symm
end

section
/-! What a fall-through instruction leaves, from the outcome of its body; and exact-sum adds of cores (spec/02 R56, spec/03 R82, R120,
spec/05 R170). -/

namespace Sys2Proof.Machine

/-! ## From the body of an operation to its command -/

/-- Where only one unit differs, everything else reads the same. -/
theorem UnitOnly.reports {u : UnitId} {s t : State} (h : UnitOnly u s t) : t.reports = s.reports := by rw [h.1]
theorem UnitOnly.csr {u : UnitId} {s t : State} (h : UnitOnly u s t) : t.csr = s.csr := by rw [h.1]
theorem UnitOnly.fld {u : UnitId} {s t : State} (h : UnitOnly u s t) (f : Fld) : t.fld f = s.fld f := congrArg (Csr.fld · f) h.csr

/-- The command of an operation whose body acts, leaves its core as `d` and falls through: what the body did, then the accounting of its
unit; with no loop active the unit goes on at PC + 4. -/
theorem runs_seq {i : Instr} {s : State} {u : UnitId} {x : Issue} {op : CoreOp} {d : Core} (t : State) (hi : opOf i = some (u, x, op))
    (hr : opIsRep op = false) (h : s.Issues u x op) (hb : bodyOf u op s = .ok t .seq) (hd : t.core u = d)
    (hl : d.loops = (s.core u).loops) (hrun : d.run = (s.core u).run) (hp : d.ports = (s.core u).ports) :
    Runs i s fun r => UnitOnly u t r ∧ Core.Now (s.core u) (r.core u) d.getG d.getAcc d.getP d.ctl := by
  subst hd
  exact ⟨_, exec_opOf hi hr s, State.issue_seq _ h hb hl hrun hp⟩

theorem Runs.imp {i : Instr} {s : State} {P Q : State → Prop} (h : Runs i s P) (k : ∀ t, P t → Q t) : Runs i s Q := by
  obtain ⟨t, ht, hP⟩ := h
  exact ⟨t, ht, k t hP⟩

/-! ## Register pairs -/

@[simp] theorem Core.setG2_acc (c : Core) (i : BitVec 5) (v : DWord) : (c.setG2 i v).regs.acc = c.regs.acc := rfl
@[simp] theorem Core.setG2_p (c : Core) (i : BitVec 5) (v : DWord) : (c.setG2 i v).regs.p = c.regs.p := rfl
@[simp] theorem Core.setG2_loops (c : Core) (i : BitVec 5) (v : DWord) : (c.setG2 i v).loops = c.loops := rfl
@[simp] theorem Core.setG2_ctl (c : Core) (i : BitVec 5) (v : DWord) : (c.setG2 i v).ctl = c.ctl := rfl
@[simp] theorem Core.setG2_run (c : Core) (i : BitVec 5) (v : DWord) : (c.setG2 i v).run = c.run := rfl
@[simp] theorem Core.setG2_ports (c : Core) (i : BitVec 5) (v : DWord) : (c.setG2 i v).ports = c.ports := rfl

theorem Core.getG_setG2 (c : Core) (i j : BitVec 5) (v : DWord) :
    (c.setG2 i v).getG j = if j = i + 1 then (v >>> 32).truncate 32 else if j = i then v.truncate 32 else c.getG j := by
  simp only [Core.setG2, Core.getG_setG]

/-! ## The exact-sum unit of a die -/

/-- An overflow stands in OVF_SEEN; counting it does not touch that bit. -/
theorem State.esOverflow_seen (s : State) (u : UnitId) (n : Nat) : (s.esOverflow u n).fld (R.esuOvf (dieOf u)) = 1 :=
  calc (s.esOverflow u n).fld (R.esuOvf (dieOf u)) = (s.setFld (R.esuOvf (dieOf u)) 1).fld (R.esuOvf (dieOf u)) :=
        State.fld_setFld_apart _ (R.esuOvfCount (dieOf u)) _ _ (le_refl 32) (Or.inr (Or.inl (by decide : 2 + 1 ≤ 16)))
    _ = 1 := State.fld_setFld_same _ _ _ (by decide : 2 + 1 ≤ 32) (by decide : 1 < 2 ^ 1)

/-- An overflow is counted in OVF_COUNT, which stops at its largest value (R10). -/
theorem State.esOverflow_count (s : State) (u : UnitId) (n : Nat) :
    (s.esOverflow u n).fld (R.esuOvfCount (dieOf u)) = min (s.fld (R.esuOvfCount (dieOf u)) + 1) 65535 := by
  have hseen : (s.setFld (R.esuOvf (dieOf u)) 1).fld (R.esuOvfCount (dieOf u)) = s.fld (R.esuOvfCount (dieOf u)) :=
    State.fld_setFld_apart _ _ _ _ (by decide : 2 + 1 ≤ 32) (Or.inr (Or.inr (by decide : 2 + 1 ≤ 16)))
  calc (s.esOverflow u n).fld (R.esuOvfCount (dieOf u))
      = min ((s.setFld (R.esuOvf (dieOf u)) 1).fld (R.esuOvfCount (dieOf u)) + 1) (2 ^ 16 - 1) :=
        State.fld_setFld_same _ (R.esuOvfCount (dieOf u)) _ (le_refl 32) (lt_of_le_of_lt (Nat.min_le_right _ _) (by decide : 2 ^ 16 - 1 < 2 ^ 16))
    _ = min (s.fld (R.esuOvfCount (dieOf u)) + 1) 65535 := by rw [hseen]; rfl

/-! ## ESADD and ESADD.D -/

/-- The overflow of an exact-sum add: its sum is not in range. -/
theorem esAdd_snd_eq_false_iff (w : Nat) (a b : Int) : (esAdd w a b).2 = false ↔ -(2 ^ (w - 1)) ≤ a + b ∧ a + b < 2 ^ (w - 1) := by
  rw [esAdd, Bool.not_eq_false', fits_iff]

/-- An exact-sum add writes its sum modulo 2^w. -/
theorem ofInt_esAdd_fst (w : Nat) (a b : Int) : BitVec.ofInt w (esAdd w a b).1 = BitVec.ofInt w (a + b) := ofInt_wrapTo w (a + b)

@[simp] theorem bodyEsadd_loops (f : FRR) (c : Core) : (bodyEsadd f c).loops = c.loops := Core.flagIf_loops _ _ _
@[simp] theorem bodyEsadd_run (f : FRR) (c : Core) : (bodyEsadd f c).run = c.run := Core.flagIf_run _ _ _
@[simp] theorem bodyEsadd_ports (f : FRR) (c : Core) : (bodyEsadd f c).ports = c.ports := Core.flagIf_ports _ _ _
@[simp] theorem bodyEsaddD_loops (f : FRR) (c : Core) : (bodyEsaddD f c).loops = c.loops := Core.flagIf_loops _ _ _
@[simp] theorem bodyEsaddD_run (f : FRR) (c : Core) : (bodyEsaddD f c).run = c.run := Core.flagIf_run _ _ _
@[simp] theorem bodyEsaddD_ports (f : FRR) (c : Core) : (bodyEsaddD f c).ports = c.ports := Core.flagIf_ports _ _ _

theorem Ctl.flagged_zero (k : Ctl) : k.flagged 0 = k := by simp [Ctl.flagged]

/-- CHK, bit 2 of CORE_STATUS, is the only control bit that a flagged overflow sets. -/
theorem Core.flagIf_chk_ctl (c : Core) (b : Bool) : (c.flagIf 2 b).ctl = c.ctl.flagged (if b then 4 else 0) := by
  rw [Core.flagIf_ctl]; rfl

/-- What the body of ESADD leaves is what it writes: the wrapped sum, and CHK where it overflows. -/
theorem Core.Now.wroteG_bodyEsadd {c d : Core} {f : FRR}
    (h : Core.Now c d (bodyEsadd f c).getG (bodyEsadd f c).getAcc (bodyEsadd f c).getP (bodyEsadd f c).ctl) :
    Core.WroteG c d f.d (BitVec.ofInt 32 ((c.getG f.a).toInt + (c.getG f.b).toInt)) (c.ctl.flagged (if esaddOvf f c then 4 else 0)) := by
  obtain ⟨hg, hacc, hp, hctl, hkept⟩ := h
  have hregs : (c.flagIf 2 (esaddOvf f c)).regs = c.regs := Core.flagIf_regs _ _ _
  refine ⟨fun i => (hg i).trans ?_, fun i => (hacc i).trans ?_, fun i => (hp i).trans ?_, hctl.trans (Core.flagIf_chk_ctl c _), hkept⟩
  · refine (Core.getG_setG (c.flagIf 2 (esaddOvf f c)) _ _ _).trans ?_
    rw [ofInt_esAdd_fst, Core.getG_of_g (congrArg Regs.g hregs)]
  · exact congrFun (Core.getAcc_of_acc (congrArg Regs.acc hregs)) i
  · exact congrFun (Core.getP_of_p (congrArg Regs.p hregs)) i

/-- The same of ESADD.D and its register pair. -/
theorem Core.Now.wroteG2_bodyEsaddD {c d : Core} {f : FRR}
    (h : Core.Now c d (bodyEsaddD f c).getG (bodyEsaddD f c).getAcc (bodyEsaddD f c).getP (bodyEsaddD f c).ctl) :
    Core.WroteG2 c d f.d (BitVec.ofInt 64 ((c.getG2 f.a).toInt + (c.getG2 f.b).toInt)) (c.ctl.flagged (if esaddDOvf f c then 4 else 0)) := by
  obtain ⟨hg, hacc, hp, hctl, hkept⟩ := h
  have hregs : (c.flagIf 2 (esaddDOvf f c)).regs = c.regs := Core.flagIf_regs _ _ _
  refine ⟨fun i => (hg i).trans ?_, fun i => (hacc i).trans ?_, fun i => (hp i).trans ?_, hctl.trans (Core.flagIf_chk_ctl c _), hkept⟩
  · refine (Core.getG_setG2 (c.flagIf 2 (esaddDOvf f c)) _ _ _).trans ?_
    rw [ofInt_esAdd_fst, Core.getG_of_g (congrArg Regs.g hregs)]
  · exact congrFun (Core.getAcc_of_acc (congrArg Regs.acc hregs)) i
  · exact congrFun (Core.getP_of_p (congrArg Regs.p hregs)) i

/-- The die's exact-sum unit and the reports after an overflow of an exact-sum add of a unit: OVF_SEEN, OVF_COUNT and the check failure. -/
def Reported (u : UnitId) (s t : State) : Prop :=
  t.reports = s.reports ++ [⟨0x01, s.unitCode u, 0⟩] ∧ t.fld (R.esuOvf (dieOf u)) = 1 ∧
  t.fld (R.esuOvfCount (dieOf u)) = min (s.fld (R.esuOvfCount (dieOf u)) + 1) 65535

/-- What follows the body of an exact-sum add that overflowed leaves its report. -/
theorem UnitOnly.reported {s t : State} {u : UnitId} {g : Core → Core}
    (h : UnitOnly u ((s.modCore u g).esOverflow u (s.unitCode u)) t) : Reported u s t :=
  ⟨h.reports, (h.fld _).trans (State.esOverflow_seen _ u _), (h.fld _).trans (State.esOverflow_count _ u _)⟩

/-- The command of an exact-sum add whose part on its core is `g`: without an overflow it changes its unit alone, and with one it is
reported. -/
theorem runs_esaddOut {i : Instr} {s : State} {u : UnitId} {x : Issue} {op : CoreOp} {ovf : Bool} {g : Core → Core}
    (hi : opOf i = some (u, x, op)) (hr : opIsRep op = false) (h : s.Issues u x op) (hb : bodyOf u op s = esaddOut u ovf g s)
    (hl : (g (s.core u)).loops = (s.core u).loops) (hrun : (g (s.core u)).run = (s.core u).run)
    (hp : (g (s.core u)).ports = (s.core u).ports) :
    Runs i s fun t => (if ovf then Reported u s t else UnitOnly u s t) ∧
      Core.Now (s.core u) (t.core u) (g (s.core u)).getG (g (s.core u)).getAcc (g (s.core u)).getP (g (s.core u)).ctl := by
  cases ovf with
  | false =>
    exact (runs_seq (s.modCore u g) hi hr h hb (State.core_modCore_same s u g) hl hrun hp).imp
      fun t ⟨hu, hnow⟩ => ⟨(UnitOnly.modCore s u g).trans hu, hnow⟩
  | true =>
    exact (runs_seq ((s.modCore u g).esOverflow u (s.unitCode u)) hi hr h hb (State.core_modCore_same s u g) hl hrun hp).imp
      fun t ⟨hu, hnow⟩ => ⟨hu.reported, hnow⟩

/-- ESADD from issue to completion: its wrapped sum, with CHK and the report where it overflows. -/
theorem runs_esadd {s : State} {u : UnitId} {x : Issue} {f : FRR} (h : s.Issues u x (.esadd f)) :
    Runs (.esadd u x f) s fun t => (if esaddOvf f (s.core u) then Reported u s t else UnitOnly u s t) ∧
      Core.WroteG (s.core u) (t.core u) f.d (BitVec.ofInt 32 (((s.core u).getG f.a).toInt + ((s.core u).getG f.b).toInt))
        ((s.core u).ctl.flagged (if esaddOvf f (s.core u) then 4 else 0)) :=
  (runs_esaddOut rfl rfl h rfl (bodyEsadd_loops f _) (bodyEsadd_run f _) (bodyEsadd_ports f _)).imp
    fun _ ⟨hout, hnow⟩ => ⟨hout, hnow.wroteG_bodyEsadd⟩

/-- ESADD.D from issue to completion. -/
theorem runs_esaddD {s : State} {u : UnitId} {x : Issue} {f : FRR} (h : s.Issues u x (.esaddD f)) :
    Runs (.esaddD u x f) s fun t => (if esaddDOvf f (s.core u) then Reported u s t else UnitOnly u s t) ∧
      Core.WroteG2 (s.core u) (t.core u) f.d (BitVec.ofInt 64 (((s.core u).getG2 f.a).toInt + ((s.core u).getG2 f.b).toInt))
        ((s.core u).ctl.flagged (if esaddDOvf f (s.core u) then 4 else 0)) :=
  (runs_esaddOut rfl rfl h rfl (bodyEsaddD_loops f _) (bodyEsaddD_run f _) (bodyEsaddD_ports f _)).imp
    fun _ ⟨hout, hnow⟩ => ⟨hout, hnow.wroteG2_bodyEsaddD⟩

end Sys2Proof.Machine

open Sys2Proof Sys2Proof.Machine

/-- Settles O4: the exact sum overflows exactly where it is out of range; only then does the body set CHK and the die's exact-sum unit
report, and what completes the instruction touches its unit's PC and counters alone. -/
theorem exactSumResults : Obligations.ExactSumResults := by
  unfold Obligations.ExactSumResults
  intro s u x f c reported
  refine ⟨fun n hi hn => ?_, fun n hi hn => ?_⟩
  · have hovf : esaddOvf f (s.core u) = false ↔ -(2 ^ 31) ≤ n ∧ n < 2 ^ 31 := hn ▸ esAdd_snd_eq_false_iff 32 _ _
    have hruns := runs_esadd hi
    rw [← hn] at hruns
    refine ⟨fun hfit => ?_, fun hout => ?_⟩
    · simp only [hovf.mpr hfit, Bool.false_eq_true, if_false, Ctl.flagged_zero] at hruns
      exact hruns.imp fun t ⟨hu, hw⟩ => ⟨hu, _, toInt_ofInt_of_fits 32 (by decide) n hfit.1 hfit.2, hw⟩
    · simp only [Bool.eq_true_of_not_eq_false (mt hovf.mp hout), if_true] at hruns
      exact hruns
  · have hovf : esaddDOvf f (s.core u) = false ↔ -(2 ^ 63) ≤ n ∧ n < 2 ^ 63 := hn ▸ esAdd_snd_eq_false_iff 64 _ _
    have hruns := runs_esaddD hi
    rw [← hn] at hruns
    refine ⟨fun hfit => ?_, fun hout => ?_⟩
    · simp only [hovf.mpr hfit, Bool.false_eq_true, if_false, Ctl.flagged_zero] at hruns
      exact hruns.imp fun t ⟨hu, hw⟩ => ⟨hu, _, toInt_ofInt_of_fits 64 (by decide) n hfit.1 hfit.2, hw⟩
    · simp only [Bool.eq_true_of_not_eq_false (mt hovf.mp hout), if_true] at hruns
      exact hruns
end

section
/-! Loads and stores of clean memory (spec/03 R75, R76, R103, spec/05 R173 to R176): what a store leaves of every memory, the base register of
Table 5.4, and the four commands. -/

namespace Sys2Proof.Machine

/-! ## Stores of clean memory -/

/-- A write that meets no erroneous word merges with none. -/
theorem Ram.mergeFails_of_not_anyBad {r : Ram} {w a n : Nat} (h : r.anyBad w a n = false) : r.mergeFails w a n = false := by
  simp only [Ram.anyBad, Ram.mergeFails, List.any_eq_false, Bool.and_eq_true, decide_eq_true_eq] at h ⊢
  rintro i hi ⟨hit, -⟩
  exact h i hi hit

/-- A byte read after a write of a protected memory. -/
theorem Ram.get_put (r : Ram) (w a b : Nat) (l : List Byte) :
    (r.put w a l).bytes.get b = if a ≤ b ∧ b < a + l.length then l.getD (b - a) 0 else r.bytes.get b := by
  cases l with
  | nil => rw [if_neg (by simp only [List.length_nil]; omega)]; rfl
  | cons x l =>
    change (r.bytes.put a (x :: l)).get b = _
    split
    · next hin =>
      have hlt : b - a < (x :: l).length := by omega
      rw [List.getD_eq_getElem _ _ hlt, ← Mem.get_put_inside (x :: l) r.bytes a (b - a) hlt, Nat.add_sub_cancel' hin.1]
    · next hout => exact Mem.get_put_outside _ _ _ _ (by omega)

/-- A write of HBM may tell the host of the CXL.mem window, and changes nothing else of the state. -/
theorem State.snoopWrite_eq (s : State) (key : Nat) (l : List Byte) : ∃ x o, s.snoopWrite key l = { s with cxl := x, out := o } := by
  have hsnoop : ∀ (r : State) (k : Nat), ∃ x o, r.snoop k = { r with cxl := x, out := o } := by
    intro r k
    unfold State.snoop
    split
    · exact ⟨r.cxl, r.out, rfl⟩
    · exact ⟨_, _, rfl⟩
  unfold State.snoopWrite
  dsimp only
  generalize (if s.workBytes ≤ key % (36864 * mib) then [] else _ : List Nat) = hit
  induction hit generalizing s with
  | nil => exact ⟨s.cxl, s.out, rfl⟩
  | cons k hit ih =>
    obtain ⟨x, o, h⟩ := hsnoop { s with cxl.waits := s.cxl.waits ++ [(k, key, l, true)] } k
    obtain ⟨y, q, hfold⟩ := ih { s with cxl := x, out := o }
    exact ⟨y, q, by rw [List.foldl_cons, h, hfold]⟩

/-- A write into HBM, its bytes and what it may tell the host. -/
theorem State.hbmWrite_eq (s : State) (key : Nat) (l : List Byte) :
    ∃ x o, s.hbmWrite key l = { s with hbm := s.hbm.put 64 key l, cxl := x, out := o } :=
  State.snoopWrite_eq { s with hbm := s.hbm.put 64 key l } key l

theorem State.putAt_core (s : State) (u v : UnitId) (l : List Byte) (p : Place) : (s.putAt u l p).core v = s.core v := by
  cases p with
  | hbm k =>
    obtain ⟨x, o, h⟩ := s.hbmWrite_eq k l
    rw [State.putAt, h]
    rfl
  | _ => rfl

/-- What a write into a memory's place changes: the memories, and what HBM sends to the host. -/
theorem State.putAt_storeOnly (s : State) (u : UnitId) (l : List Byte) (p : Place) : StoreOnly u s (s.putAt u l p) := by
  refine ⟨?_, fun v _ => State.putAt_core s u v l p⟩
  cases p with
  | hbm k =>
    obtain ⟨x, o, h⟩ := s.hbmWrite_eq k l
    rw [State.putAt, h]
  | _ => rfl

/-- A write into the place of a memory stores its bytes there and nowhere else. -/
theorem State.putAt_stored {s : State} {u : UnitId} {p : Place} {m : MemSel} {o : Nat} (l : List Byte) (hm : memCell u p = some (m, o)) :
    Stored s (s.putAt u l p) m o l := by
  intro n b
  cases p with
  | lmem k =>
    cases hm
    cases n with
    | lmem v =>
      by_cases hv : v = u
      · subst hv
        simpa [State.putAt, State.peek] using Ram.get_put _ 4 o b l
      · have hne : u.val ≠ v.val := fun e => hv (Fin.ext e.symm)
        simp [State.putAt, State.peek, hv, hne]
    | _ => simp [State.putAt, State.peek]
  | bmem k =>
    cases hm
    cases n with
    | bmem v =>
      by_cases hv : v = bunchOf u
      · subst hv
        simpa [State.putAt, State.peek] using Ram.get_put _ 8 o b l
      · have hne : (bunchOf u).val ≠ v.val := fun e => hv (Fin.ext e.symm)
        simp [State.putAt, State.peek, hv, hne]
    | _ => simp [State.putAt, State.peek]
  | hbm k =>
    cases hm
    obtain ⟨x, q, h⟩ := s.hbmWrite_eq o l
    rw [State.putAt, h]
    cases n with
    | hbm => simpa [State.peek] using Ram.get_put s.hbm 64 o b l
    | _ => simp [State.peek]
  | csr k => cases hm
  | priv k => cases hm

/-- A store to a clean place of a memory writes its bytes and reports nothing. -/
theorem State.store_clean {s : State} {u : UnitId} {p : Place} {m : MemSel} {o : Nat} {a : Word} {l : List Byte}
    (hm : memCell u p = some (m, o)) (hp : s.place u a l.length true = .ok p) (hc : s.Clean u p l.length) :
    s.store u a l = .ok (s.putAt u l p) := by
  have hread := State.eccReads_clean hc
  unfold State.Clean at hc
  have hput : ∀ r pw q, s.ramAt u p = some (r, pw, q) →
      (if r.mergeFails pw q l.length then Except.error Cause.dataEcc
        else .ok ((if l.length < pw then s.eccReads u [(p, l.length)] else s).putAt u l p)) = .ok (s.putAt u l p) := by
    intro r pw q hr
    rw [hr] at hc
    rw [Ram.mergeFails_of_not_anyBad hc.1, hread, ite_self]
    rfl
  cases p with
  | csr k => cases hm
  | priv k => cases hm
  | _ =>
    simp only [State.store, hp]
    exact hput _ _ _ rfl

theorem UnitOnly.peek {u : UnitId} {s t : State} (h : UnitOnly u s t) : t.peek = s.peek := by
  have e : t.imem = s.imem ∧ t.lmem = s.lmem ∧ t.bmem = s.bmem ∧ t.hbm = s.hbm := by rw [h.1]; exact ⟨rfl, rfl, rfl, rfl⟩
  obtain ⟨hi, hl, hb, hh⟩ := e
  funext m a
  exact SameMem.of_eq hi hl hb hh m a

/-- What an instruction does to its unit beside a store keeps the frame and the bytes of the store. -/
theorem StoreOnly.trans_unitOnly {u : UnitId} {s t r : State} (h : StoreOnly u s t) (k : UnitOnly u t r) : StoreOnly u s r := by
  refine ⟨?_, fun v hv => (k.2 v hv).trans (h.2 v hv)⟩
  rw [k.1, h.1]

theorem Stored.trans_unitOnly {u : UnitId} {s t r : State} {m : MemSel} {o : Nat} {l : List Byte} (h : Stored s t m o l)
    (k : UnitOnly u t r) : Stored s r m o l := fun n b => by rw [k.peek]; exact h n b

/-! ## The base register (Table 5.4) -/

@[simp] theorem Core.setBase_acc (c : Core) (m : BitVec 2) (b : BitVec 5) (v k : Word) : (c.setBase m b v k).regs.acc = c.regs.acc := by
  unfold Core.setBase; split <;> rfl
@[simp] theorem Core.setBase_p (c : Core) (m : BitVec 2) (b : BitVec 5) (v k : Word) : (c.setBase m b v k).regs.p = c.regs.p := by
  unfold Core.setBase; split <;> rfl
@[simp] theorem Core.setBase_ctl (c : Core) (m : BitVec 2) (b : BitVec 5) (v k : Word) : (c.setBase m b v k).ctl = c.ctl := by
  unfold Core.setBase; split <;> rfl
@[simp] theorem Core.setBase_loops (c : Core) (m : BitVec 2) (b : BitVec 5) (v k : Word) : (c.setBase m b v k).loops = c.loops := by
  unfold Core.setBase; split <;> rfl
@[simp] theorem Core.setBase_run (c : Core) (m : BitVec 2) (b : BitVec 5) (v k : Word) : (c.setBase m b v k).run = c.run := by
  unfold Core.setBase; split <;> rfl
@[simp] theorem Core.setBase_ports (c : Core) (m : BitVec 2) (b : BitVec 5) (v k : Word) : (c.setBase m b v k).ports = c.ports := by
  unfold Core.setBase; split <;> rfl

theorem Core.getG_setBase (c : Core) (m : BitVec 2) (b i : BitVec 5) (v k : Word) :
    (c.setBase m b v k).getG i = if m ≠ 0 ∧ i = b then v + k else c.getG i := by
  unfold Core.setBase baseAfter
  split
  · next h => rw [if_neg fun e => e.1 h]
  · next h => simp only [Core.getG_setG, ne_eq, h, not_false_eq_true, true_and]

/-- Where the registers are those before the access, the base register is updated as Table 5.4 says. -/
theorem Core.getG_setBase_based {c d : Core} (h : d.regs.g = c.regs.g) (m : BitVec 2) (b i : BitVec 5) (k : Int) :
    (d.setBase m b (c.getG b) (BitVec.ofInt 32 k)).getG i = c.based m b k i := by
  rw [Core.getG_setBase, Core.getG_of_g h]; rfl

@[simp] theorem Core.countLoad_regs (c : Core) (a : Word) : (c.countLoad a).regs = c.regs := by simp only [Core.countLoad, Core.count_regs]
@[simp] theorem Core.countLoad_ctl (c : Core) (a : Word) : (c.countLoad a).ctl = c.ctl := by simp only [Core.countLoad, Core.count_ctl]
@[simp] theorem Core.countLoad_loops (c : Core) (a : Word) : (c.countLoad a).loops = c.loops := by simp only [Core.countLoad, Core.count_loops]
@[simp] theorem Core.countLoad_run (c : Core) (a : Word) : (c.countLoad a).run = c.run := by simp only [Core.countLoad, Core.count_run]
@[simp] theorem Core.countLoad_ports (c : Core) (a : Word) : (c.countLoad a).ports = c.ports := by simp only [Core.countLoad, Core.count_ports]

/-! ## Loaded values -/

theorem leNat_lt (l : List Byte) : leNat l < 256 ^ l.length := by
  induction l with
  | nil => exact Nat.one_pos
  | cons b l ih =>
    have hb : b.toNat < 256 := b.isLt
    rw [leNat, List.length_cons, pow_succ]
    omega

/-- The sign extension of a number that fits `k` bits. -/
theorem signExtend_ofNat {k n : Nat} (hk : 0 < k) (hn : n < 2 ^ k) :
    (BitVec.ofNat k n).signExtend 32 = BitVec.ofInt 32 (if 2 ^ (k - 1) ≤ n then (n : Int) - 2 ^ k else n) := by
  have hpow : 2 ^ k = 2 * 2 ^ (k - 1) := by rw [← pow_succ', Nat.sub_add_cancel hk]
  rw [BitVec.signExtend, BitVec.toInt_eq_toNat_cond, BitVec.toNat_ofNat, Nat.mod_eq_of_lt hn]
  congr 1
  by_cases h : 2 ^ (k - 1) ≤ n
  · rw [if_pos h, if_neg (by omega)]; push_cast; rfl
  · rw [if_neg h, if_pos (by omega)]

/-- A loaded value is the number of its bytes, extended as SX says; SX stands with SIZE 0 and 1 alone (R176). -/
theorem loadValue_loaded {z : BitVec 2} {sx : Bool} {l : List Byte} (hl : l.length = sizeBytes z) (hsx : sx = true → z.toNat < 2) :
    Loaded (sizeBytes z) sx (leNat l) (loadValue z sx l) := by
  have hlt := leNat_lt l
  rw [hl] at hlt
  unfold Loaded loadValue
  cases sx with
  | false => simp
  | true =>
    have hz : z = 0 ∨ z = 1 := by have := hsx rfl; bv_omega
    rcases hz with rfl | rfl
    · simpa [sizeBytes] using signExtend_ofNat (k := 8) (by decide) hlt
    · simpa [sizeBytes] using signExtend_ofNat (k := 16) (by decide) hlt

/-! ## Loads -/

/-- A memory place without errors, at which an access of a unit falls and is not held. -/
structure State.Falls (s : State) (u : UnitId) (a : Word) (w : Nat) (store : Bool) (p : Place) (m : MemSel) (o : Nat) : Prop where
  cell : memCell u p = some (m, o)
  free : s.placeHeld p = false
  place : s.place u a w store = .ok p
  clean : s.Clean u p w

theorem State.Falls.heldAt {s : State} {u : UnitId} {a : Word} {w : Nat} {b : Bool} {p : Place} {m : MemSel} {o : Nat}
    (h : s.Falls u a w b p m o) : s.heldAt u a w b = false := by
  simp only [State.heldAt, h.place, h.free]

/-- The little-endian bytes of a load. -/
def State.peeks (s : State) (m : MemSel) (o w : Nat) : List Byte := (List.range w).map fun i => s.peek m (o + i)

theorem State.peeks_length (s : State) (m : MemSel) (o w : Nat) : (s.peeks m o w).length = w := by simp [State.peeks]

theorem State.Falls.load {s : State} {u : UnitId} {a : Word} {w : Nat} {p : Place} {m : MemSel} {o : Nat} (h : s.Falls u a w false p m o) :
    s.load u a w = .ok (s, s.peeks m o w) := State.load_clean h.cell h.place h.clean

/-- SX stands with SIZE 0 and 1 alone (R176). -/
theorem ldOk_sx {f : FM} (h : ldOk f = true) (hsx : f.sx = true) : f.size.toNat < 2 := by
  simp only [ldOk, hsx, Bool.and_eq_true, Bool.not_eq_true', Bool.true_and, decide_eq_false_iff_not] at h
  omega

/-- A load that updates its base loads another register (R175). -/
theorem ldOk_base_ne {f : FM} (h : ldOk f = true) (hm : f.mode ≠ 0) : f.base ≠ f.t ∧ (f.size = 3 → f.base ≠ f.t + 1) := by
  have hmode : f.mode ≠ 3 → f.mode = 1 ∨ f.mode = 2 := by
    revert hm; generalize f.mode = z; revert z; decide
  simp only [ldOk, Bool.and_eq_true, Bool.not_eq_true', bne_iff_ne, ne_eq, Bool.and_eq_false_iff, Bool.or_eq_false_iff, beq_eq_false_iff_ne]
    at h
  obtain ⟨⟨⟨h3, -⟩, -⟩, hne⟩ := h
  have hne' := hne.resolve_left fun e => (hmode h3).elim e.1 e.2
  exact ⟨fun e => hne'.1 e.symm, fun hs e => hne'.2.elim (fun k => k hs) (fun k => k e.symm)⟩

/-- What LD does to its core once its bytes are there: the target, then the base register, then the counts. -/
def Core.loaded (f : FM) (l : List Byte) (k : Int) (c : Core) : Core :=
  ((if f.size = 3 then c.setG2 f.t (BitVec.ofNat 64 (leNat l)) else c.setG f.t (loadValue f.size f.sx l)).setBase f.mode f.base
    (c.getG f.base) (BitVec.ofInt 32 k)).countLoad (c.address f.mode f.base k)

/-- It touches general registers alone. -/
theorem Core.loaded_frame (f : FM) (l : List Byte) (k : Int) (c : Core) :
    (c.loaded f l k).regs.acc = c.regs.acc ∧ (c.loaded f l k).regs.p = c.regs.p ∧ (c.loaded f l k).ctl = c.ctl ∧
    (c.loaded f l k).loops = c.loops ∧ (c.loaded f l k).run = c.run ∧ (c.loaded f l k).ports = c.ports := by
  unfold Core.loaded
  split <;> simp

/-- The halves of a doubleword. -/
theorem ofNat_truncate (n : Nat) : (BitVec.ofNat 64 n).truncate 32 = BitVec.ofNat 32 n := by
  apply BitVec.eq_of_toNat_eq
  simp only [BitVec.toNat_ofNat, BitVec.truncate_eq_setWidth, BitVec.toNat_setWidth]
  omega
theorem ofNat_shift_truncate (n : Nat) : (BitVec.ofNat 64 n >>> 32).truncate 32 = BitVec.ofNat 32 (n / 2 ^ 32) := by
  apply BitVec.eq_of_toNat_eq
  simp only [BitVec.toNat_ofNat, BitVec.truncate_eq_setWidth, BitVec.toNat_setWidth, BitVec.toNat_ushiftRight, Nat.shiftRight_eq_div_pow]
  omega

/-- The general registers after LD: the base register is none of its targets. -/
theorem Core.getG_loaded {f : FM} (h : ldOk f = true) (l : List Byte) (k : Int) (c : Core) (i : BitVec 5) :
    (c.loaded f l k).getG i =
      if f.size = 3 then (if i = f.t then BitVec.ofNat 32 (leNat l) else if i = f.t + 1 then BitVec.ofNat 32 (leNat l / 2 ^ 32)
        else c.based f.mode f.base k i)
      else if i = f.t then loadValue f.size f.sx l else c.based f.mode f.base k i := by
  have hstep : ∀ j : BitVec 5, j ≠ j + 1 := by decide
  rw [Core.loaded, Core.getG_of_g (congrArg Regs.g (Core.countLoad_regs _ _)), Core.getG_setBase]
  unfold Core.based
  by_cases hb : f.mode ≠ 0 ∧ i = f.base
  · obtain ⟨hm, rfl⟩ := hb
    obtain ⟨h1, h2⟩ := ldOk_base_ne h hm
    rw [if_pos (⟨hm, rfl⟩ : f.mode ≠ 0 ∧ f.base = f.base), if_neg h1]
    split
    · next hs => rw [if_neg (h2 hs), if_pos ⟨hm, rfl⟩]
    · rw [if_pos ⟨hm, rfl⟩]
  · simp only [if_neg hb]
    split
    · rw [Core.getG_setG2, ofNat_truncate, ofNat_shift_truncate]
      by_cases hi : i = f.t
      · subst hi; rw [if_neg (hstep _), if_pos rfl, if_pos rfl]
      · rw [if_neg hi, if_neg hi]
    · exact Core.getG_setG _ _ _ _

theorem bodyLd_falls {s : State} {u : UnitId} {f : FM} {k : Int} {p : Place} {m : MemSel} {o : Nat} (hk : k = f.off.toInt * sizeBytes f.size)
    (h : s.Falls u ((s.core u).address f.mode f.base k) (sizeBytes f.size) false p m o) :
    bodyLd f u s = .ok (s.modCore u (Core.loaded f (s.peeks m o (sizeBytes f.size)) k)) .seq := by
  subst hk
  have hheld := h.heldAt
  have hload := h.load
  simp only [Core.address] at hheld hload
  simp only [bodyLd, accessAddr, memOffset, hheld, hload, Bool.false_eq_true, if_false]
  rfl

/-- LD of a clean memory, from issue to completion. -/
theorem runs_ld {s : State} {u : UnitId} {x : Issue} {f : FM} {k : Int} {p : Place} {m : MemSel} {o : Nat} (hi : s.Issues u x (.ld f))
    (hk : k = f.off.toInt * sizeBytes f.size) (h : s.Falls u ((s.core u).address f.mode f.base k) (sizeBytes f.size) false p m o) :
    let l := s.peeks m o (sizeBytes f.size)
    Runs (.ld u x f) s fun t => UnitOnly u s t ∧
      Core.Now (s.core u) (t.core u) ((s.core u).loaded f l k).getG (s.core u).getAcc (s.core u).getP (s.core u).ctl := by
  intro l
  obtain ⟨hacc, hp, hctl, hloops, hrun, hports⟩ := Core.loaded_frame f l k (s.core u)
  have hruns := runs_seq (i := .ld u x f) _ rfl rfl hi (bodyLd_falls hk h) (State.core_modCore_same s u _) hloops hrun hports
  rw [Core.getAcc_of_acc hacc, Core.getP_of_p hp, hctl] at hruns
  exact hruns.imp fun t ⟨hu, hnow⟩ => ⟨(UnitOnly.modCore s u _).trans hu, hnow⟩

/-- What LDA does to its core once its bytes are there. -/
def Core.loadedAcc (f : FMA) (l : List Byte) (k : Int) (c : Core) : Core :=
  ((c.setAcc f.acc (BitVec.ofNat 40 (leNat l))).setBase f.mode f.base (c.getG f.base) (BitVec.ofInt 32 k)).countLoad
    (c.address f.mode f.base k)

theorem bodyLda_falls {s : State} {u : UnitId} {f : FMA} {k : Int} {p : Place} {m : MemSel} {o : Nat} (hk : k = f.off.toInt * (8 : Nat))
    (h : s.Falls u ((s.core u).address f.mode f.base k) 8 false p m o) :
    bodyLda f u s = .ok (s.modCore u (Core.loadedAcc f (s.peeks m o 8) k)) .seq := by
  subst hk
  have hheld := h.heldAt
  have hload := h.load
  simp only [Core.address] at hheld hload
  simp only [bodyLda, accessAddr, memOffset, hheld, hload, Bool.false_eq_true, if_false]
  rfl

/-- LDA of a clean memory, from issue to completion. -/
theorem runs_lda {s : State} {u : UnitId} {x : Issue} {f : FMA} {k : Int} {p : Place} {m : MemSel} {o : Nat} (hi : s.Issues u x (.lda f))
    (hk : k = f.off.toInt * (8 : Nat)) (h : s.Falls u ((s.core u).address f.mode f.base k) 8 false p m o) :
    Runs (.lda u x f) s fun t => UnitOnly u s t ∧
      Core.Now (s.core u) (t.core u) ((s.core u).based f.mode f.base k)
        (fun i => if i = f.acc then BitVec.ofNat 40 (leNat (s.peeks m o 8)) else (s.core u).getAcc i) (s.core u).getP (s.core u).ctl := by
  have hruns := runs_seq (i := .lda u x f) _ rfl rfl hi (bodyLda_falls hk h) (State.core_modCore_same s u _) (by simp [Core.loadedAcc])
    (by simp [Core.loadedAcc]) (by simp [Core.loadedAcc])
  refine hruns.imp fun t ⟨hu, hg, hacc, hp, hctl, hkept⟩ =>
    ⟨(UnitOnly.modCore s u _).trans hu, fun i => (hg i).trans ?_, fun i => (hacc i).trans ?_, fun i => (hp i).trans ?_, hctl.trans ?_, hkept⟩
  · rw [Core.loadedAcc, Core.getG_of_g (congrArg Regs.g (Core.countLoad_regs _ _))]
    exact Core.getG_setBase_based rfl _ _ _ _
  · exact (congrFun (Core.getAcc_of_acc (by simp [Core.loadedAcc])) i).trans (Core.getAcc_setAcc (s.core u) f.acc i _)
  · exact congrFun (Core.getP_of_p (by simp [Core.loadedAcc])) i
  · simp [Core.loadedAcc]

/-! ## Stores -/

/-- What ST and STA do to their core. -/
def Core.stored (mode : BitVec 2) (b : BitVec 5) (k : Int) (c : Core) : Core :=
  (c.setBase mode b (c.getG b) (BitVec.ofInt 32 k)).count 0x06 1

/-- The command of a store whose body writes the bytes `l` into a memory and updates its base, from issue to completion. -/
theorem runs_store {i : Instr} {s : State} {u : UnitId} {x : Issue} {op : CoreOp} {mode : BitVec 2} {b : BitVec 5} {k : Int} {l : List Byte}
    {p : Place} {m : MemSel} {o : Nat} (hi : opOf i = some (u, x, op)) (hr : opIsRep op = false) (h : s.Issues u x op)
    (hm : memCell u p = some (m, o)) (hb : bodyOf u op s = .ok ((s.putAt u l p).modCore u (Core.stored mode b k)) .seq) :
    Runs i s fun t => StoreOnly u s t ∧ Stored s t m o l ∧
      Core.Now (s.core u) (t.core u) ((s.core u).based mode b k) (s.core u).getAcc (s.core u).getP (s.core u).ctl := by
  have hcore : ((s.putAt u l p).modCore u (Core.stored mode b k)).core u = (s.core u).stored mode b k := by
    rw [State.core_modCore_same, State.putAt_core]
  have hruns := runs_seq _ hi hr h hb hcore (by simp [Core.stored]) (by simp [Core.stored]) (by simp [Core.stored])
  refine hruns.imp fun t ⟨hu, hg, hacc, hp, hctl, hkept⟩ => ?_
  have hunit := (UnitOnly.modCore (s.putAt u l p) u (Core.stored mode b k)).trans hu
  refine ⟨(s.putAt_storeOnly u l p).trans_unitOnly hunit, (State.putAt_stored l hm).trans_unitOnly hunit,
    fun i => (hg i).trans ?_, fun i => (hacc i).trans ?_, fun i => (hp i).trans ?_, hctl.trans ?_, hkept⟩
  · rw [Core.stored, Core.getG_of_g (congrArg Regs.g (Core.count_regs _ _ _))]
    exact Core.getG_setBase_based rfl _ _ _ _
  · exact congrFun (Core.getAcc_of_acc (by simp [Core.stored])) i
  · exact congrFun (Core.getP_of_p (by simp [Core.stored])) i
  · simp [Core.stored]

/-- A store of bytes to a place that is memory and clean. -/
theorem State.Falls.store {s : State} {u : UnitId} {a : Word} {w v : Nat} {p : Place} {m : MemSel} {o : Nat} (h : s.Falls u a w true p m o) :
    s.store u a (natLe w v) = .ok (s.putAt u (natLe w v) p) :=
  State.store_clean h.cell (by rw [natLe_length]; exact h.place) (by rw [natLe_length]; exact h.clean)

/-- The number ST stores: the register, or for SIZE 3 the pair (R75). -/
def Core.storeNat (c : Core) (f : FM) : Nat := if f.size = 3 then (c.getG2 f.t).toNat else (c.getG f.t).toNat

theorem Core.getG2_toNat (c : Core) (i : BitVec 5) : (c.getG2 i).toNat = (c.getG i).toNat + (c.getG (i + 1)).toNat * 2 ^ 32 := by
  have h := (c.getG i).isLt
  rw [Core.getG2, BitVec.toNat_append, Nat.shiftLeft_eq, ← Nat.shiftLeft_eq, ← Nat.shiftLeft_add_eq_or_of_lt h, Nat.shiftLeft_eq, Nat.add_comm]

theorem bodySt_falls {s : State} {u : UnitId} {f : FM} {k : Int} {p : Place} {m : MemSel} {o : Nat} (hk : k = f.off.toInt * sizeBytes f.size)
    (h : s.Falls u ((s.core u).address f.mode f.base k) (sizeBytes f.size) true p m o) :
    bodySt f u s = .ok ((s.putAt u (natLe (sizeBytes f.size) ((s.core u).storeNat f)) p).modCore u (Core.stored f.mode f.base k)) .seq := by
  subst hk
  have hheld := h.heldAt
  have hstore := h.store (v := (s.core u).storeNat f)
  simp only [Core.address, Core.storeNat] at hheld hstore
  simp only [bodySt, accessAddr, memOffset, hheld, hstore, Bool.false_eq_true, if_false, Core.storeNat, State.modCore, State.putAt_core]
  rfl

theorem bodySta_falls {s : State} {u : UnitId} {f : FMA} {k : Int} {p : Place} {m : MemSel} {o : Nat} (hk : k = f.off.toInt * (8 : Nat))
    (h : s.Falls u ((s.core u).address f.mode f.base k) 8 true p m o) :
    bodySta f u s = .ok ((s.putAt u (natLe 8 (BitVec.ofInt 64 ((s.core u).getAcc f.acc).toInt).toNat) p).modCore u
      (Core.stored f.mode f.base k)) .seq := by
  subst hk
  have hheld := h.heldAt
  have hstore := h.store (v := (BitVec.signExtend 64 ((s.core u).getAcc f.acc)).toNat)
  simp only [Core.address] at hheld hstore
  simp only [bodySta, accessAddr, memOffset, hheld, hstore, Bool.false_eq_true, if_false, State.modCore, State.putAt_core]
  rfl

/-- SIZE 3 is the access of 8 bytes. -/
theorem sizeBytes_eq_eight_iff (z : BitVec 2) : sizeBytes z = 8 ↔ z = 3 := by
  revert z; decide

end Sys2Proof.Machine

open Sys2Proof Sys2Proof.Machine

/-- Settles O6: an access that falls in a clean memory that is not held reads or writes exactly its bytes there, and its body changes nothing
else but its target and its base. -/
theorem memoryAccesses : Obligations.MemoryAccesses := by
  unfold Obligations.MemoryAccesses
  constructor <;> intro s u x p m o c hcell hfree
  · refine ⟨?ld, ?lda⟩
    case ld =>
      intro f w k n hi hw hk hplace hclean hn
      subst hw hn
      refine ⟨loadValue f.size f.sx (s.peeks m o (sizeBytes f.size)),
        fun _ => loadValue_loaded (s.peeks_length m o _) (ldOk_sx hi.legal), ?_⟩
      refine (runs_ld hi hk ⟨hcell, hfree, hplace, hclean⟩).imp fun t ⟨hu, hg, hrest⟩ => ⟨hu, fun i => (hg i).trans ?_, hrest⟩
      rw [Core.getG_loaded hi.legal]
      exact if_congr (sizeBytes_eq_eight_iff f.size).symm rfl rfl
    case lda =>
      intro f k n hi hk hplace hclean hn
      rw [hn]
      exact runs_lda hi hk ⟨hcell, hfree, hplace, hclean⟩
  · refine ⟨?st, ?sta⟩
    case st =>
      intro f w k hi hw hk hplace hclean
      subst hw
      have hnat : (s.core u).storeNat f =
          if sizeBytes f.size = 8 then (c.getG f.t).toNat + (c.getG (f.t + 1)).toNat * 2 ^ 32 else (c.getG f.t).toNat := by
        rw [Core.storeNat, Core.getG2_toNat]
        exact if_congr (sizeBytes_eq_eight_iff f.size).symm rfl rfl
      have hruns := runs_store (i := .st u x f) rfl rfl hi hcell (bodySt_falls hk ⟨hcell, hfree, hplace, hclean⟩)
      rw [hnat] at hruns
      exact hruns
    case sta =>
      intro f k hi hk hplace hclean
      exact runs_store rfl rfl hi hcell (bodySta_falls hk ⟨hcell, hfree, hplace, hclean⟩)
end

section
/-! Taken control transfers (spec/04 R129, R131, R132): the completion of an operation that jumps, and where the targets of Table 4.1 lie. -/

namespace Sys2Proof.Machine

/-! ## Targets -/

/-- Clearing bits [1:0] of an address rounds it down to a word. -/
theorem toNat_and_FFFC (a : BitVec 16) : (a &&& 0xFFFC#16).toNat = a.toNat / 4 * 4 := by
  have hshift : a &&& 0xFFFC#16 = a >>> 2 <<< 2 := by
    apply BitVec.eq_of_getLsbD_eq
    intro i hi
    interval_cases i <;> simp
  have ha := a.isLt
  rw [hshift, BitVec.toNat_shiftLeft, BitVec.toNat_ushiftRight, Nat.shiftRight_eq_div_pow, Nat.shiftLeft_eq]
  omega

/-- PC after a transfer to `branchTarget`: the sum of Table 4.1, modulo 2^16, at a word. -/
theorem branchTarget_dest (pc off : BitVec 16) :
    (branchTarget pc off &&& 0xFFFC#16).toNat = (pc.toNat + 4 * off.toNat) % 65536 / 4 * 4 := by
  rw [toNat_and_FFFC, branchTarget, BitVec.toNat_add, BitVec.toNat_mul]
  simp

/-- PC after a transfer to a register: its bits [15:2] (R131). -/
theorem regTarget_dest (v : Word) : (regTarget v &&& 0xFFFC#16).toNat = v.toNat % 65536 / 4 * 4 := by
  rw [toNat_and_FFFC, regTarget, toNat_and_FFFC, BitVec.truncate_eq_setWidth, BitVec.toNat_setWidth]
  omega

/-- The return address is the next instruction's, modulo 2^16. -/
theorem returnAddress_eq (pc : BitVec 16) : (pc + 4).zeroExtend 32 = BitVec.ofNat 32 ((pc.toNat + 4) % 65536) := by
  apply BitVec.eq_of_toNat_eq
  simp

/-! ## The completion of a transfer -/

/-- A jump moves PC and no other register, whatever the end check does. -/
theorem Core.complete_jump_regs (c : Core) (pc a : BitVec 16) (l : List (BitVec 16)) :
    (c.complete pc l (.jump a)).regs = { c.regs with pc := a &&& 0xFFFC#16, past := false } := by
  simp [Core.complete, Core.setPc]

theorem Core.complete_jump_ctl (c : Core) (pc a : BitVec 16) (l : List (BitVec 16)) : (c.complete pc l (.jump a)).ctl = c.ctl := by
  simp [Core.complete, Core.setPc]

/-- With no loop active a jump leaves none active. -/
theorem Core.complete_jump_active {c : Core} (h : c.loops.active = []) (pc a : BitVec 16) (l : List (BitVec 16)) :
    (c.complete pc l (.jump a)).loops.active = [] := by
  simp [Core.complete, Core.setPc, Core.endCheck, Machine.endCheck, h]

/-- The completion of a jump: the end check, then PC; a stepped unit halts. -/
theorem State.finish_jump {s : State} {u : UnitId} (pc a : BitVec 16) (hs : s.gone u = false) :
    s.finish u pc (.jump a) = (s.modCore u fun c => c.complete pc (c.checked pc) (.jump a)).stepEnd u := by
  simp only [State.finish, hs, Bool.false_eq_true, if_false, reduceCtorEq, false_and]

/-- All that follows the body of an operation that has acted and jumps: its accounting, PC, and the active loops. -/
theorem State.issue_jump {s t : State} {u : UnitId} {x : Issue} {op : CoreOp} {a : BitVec 16} {body : State → BodyOut} (h : s.Issues u x op)
    (hb : body s = .ok t (.jump a)) (hrun : (t.core u).run = (s.core u).run) :
    let r := s.issueWith u x op body
    UnitOnly u t r ∧ (r.core u).regs = { (t.core u).regs with pc := a &&& 0xFFFC#16, past := false } ∧ (r.core u).ctl = (t.core u).ctl ∧
    ((t.core u).loops.active = [] → (r.core u).loops.active = []) := by
  have hst : (t.core u).run.state = .running := by rw [hrun, h.ready.1]
  have hgone : t.gone u = false := by simp [State.gone, hst]
  have hres : (x.residue && opArith op) = false := by simp [h.clean]
  obtain ⟨hregs, hloops, hctl, hrun', -⟩ := State.retire_core (f := .jump a) hgone hres
  have hgone' : (t.retire u x.residue op (.jump a)).gone u = false := by simp [State.gone, hrun', hst]
  rw [State.issueWith_ok h.ready h.legal h.guard hb, State.finish_jump _ a hgone']
  refine ⟨(State.retire_unitOnly hgone hres).trans ((UnitOnly.modCore _ u _).trans (State.stepEnd_unitOnly _ u)), ?_, ?_, fun hnil => ?_⟩
  · rw [State.stepEnd_regs, State.core_modCore_same, Core.complete_jump_regs, hregs]
  · rw [State.stepEnd_ctl, State.core_modCore_same, Core.complete_jump_ctl, hctl]
  · rw [State.stepEnd_loops, State.core_modCore_same]
    exact Core.complete_jump_active (by rw [hloops, hnil]) _ _ _

/-! ## Linking -/

/-- What a transfer writes before it jumps: CALL and CALLR the return address, the others nothing. -/
def Core.linkIf (link : Bool) (c : Core) : Core := if link then c.link else c

theorem Core.getG_linkIf (link : Bool) (c : Core) (j : BitVec 5) :
    (c.linkIf link).getG j = if j = 31 ∧ link = true then BitVec.ofNat 32 ((c.regs.pc.toNat + 4) % 65536) else c.getG j := by
  cases link with
  | false => simp [Core.linkIf]
  | true => simp only [Core.linkIf, Core.link, if_true, and_true, Core.getG_setG, returnAddress_eq]

/-- Linking writes g31 alone. -/
theorem Core.linkIf_frame (link : Bool) (c : Core) :
    (c.linkIf link).regs.acc = c.regs.acc ∧ (c.linkIf link).regs.p = c.regs.p ∧ (c.linkIf link).ctl = c.ctl ∧
    (c.linkIf link).loops = c.loops ∧ (c.linkIf link).run = c.run := by
  cases link <;> simp [Core.linkIf, Core.link]

/-- A core has transferred control to the address `dest`, at a word of I-space, with the return address in g31 where it links. -/
def Core.Transferred (c d : Core) (dest : Nat) (link : Bool) : Prop :=
  d.regs.pc.toNat = dest % 65536 / 4 * 4 ∧ d.regs.past = false ∧
  (∀ j, d.getG j = if j = 31 ∧ link = true then BitVec.ofNat 32 ((c.regs.pc.toNat + 4) % 65536) else c.getG j) ∧
  d.regs.acc = c.regs.acc ∧ d.regs.p = c.regs.p ∧ d.ctl = c.ctl ∧ (c.loops.active = [] → d.loops.active = [])

/-- The command of an operation whose body links, or does nothing, and jumps to `a`, from issue to completion. -/
theorem runs_jump {i : Instr} {s t : State} {u : UnitId} {x : Issue} {op : CoreOp} {a : BitVec 16} {dest : Nat} (link : Bool)
    (hi : opOf i = some (u, x, op)) (hr : opIsRep op = false) (h : s.Issues u x op) (hb : bodyOf u op s = .ok t (.jump a))
    (hu : UnitOnly u s t) (ht : t.core u = (s.core u).linkIf link) (ha : (a &&& 0xFFFC#16).toNat = dest % 65536 / 4 * 4) :
    Runs i s fun r => UnitOnly u s r ∧ Core.Transferred (s.core u) (r.core u) dest link := by
  obtain ⟨hacc, hp, hctl, hloops, hrun⟩ := (s.core u).linkIf_frame link
  obtain ⟨hunit, hregs, hctl', hactive⟩ := State.issue_jump h hb (by rw [ht, hrun])
  rw [ht] at hregs hctl' hactive
  refine ⟨_, exec_opOf hi hr s, hu.trans hunit, ?_, by rw [hregs], fun j => ?_, ?_, ?_, hctl'.trans hctl,
    fun hnil => hactive (by rw [hloops, hnil])⟩
  · rw [hregs]; exact ha
  · exact (congrFun (Core.getG_of_g (d := (s.core u).linkIf link) (by rw [hregs])) j).trans (Core.getG_linkIf link _ j)
  · rw [hregs]; exact hacc
  · rw [hregs]; exact hp

/-- A body that only jumps, as those of BR, JMP and RET. -/
theorem runs_jump_plain {i : Instr} {s : State} {u : UnitId} {x : Issue} {op : CoreOp} {a : BitVec 16} {dest : Nat}
    (hi : opOf i = some (u, x, op)) (hr : opIsRep op = false) (h : s.Issues u x op) (hb : bodyOf u op s = .ok s (.jump a))
    (ha : (a &&& 0xFFFC#16).toNat = dest % 65536 / 4 * 4) :
    Runs i s fun r => UnitOnly u s r ∧ Core.Transferred (s.core u) (r.core u) dest false :=
  runs_jump false hi hr h hb (UnitOnly.refl u s) rfl ha

/-- A body that links and jumps to an address read before it links, as those of CALL and CALLR (R132). -/
theorem runs_jump_link {i : Instr} {s : State} {u : UnitId} {x : Issue} {op : CoreOp} {a : BitVec 16} {dest : Nat}
    (hi : opOf i = some (u, x, op)) (hr : opIsRep op = false) (h : s.Issues u x op) (hb : bodyOf u op s = .ok (s.modCore u Core.link) (.jump a))
    (ha : (a &&& 0xFFFC#16).toNat = dest % 65536 / 4 * 4) :
    Runs i s fun r => UnitOnly u s r ∧ Core.Transferred (s.core u) (r.core u) dest true :=
  runs_jump true hi hr h hb (UnitOnly.modCore s u _) (State.core_modCore_same s u _) ha

end Sys2Proof.Machine

open Sys2Proof Sys2Proof.Machine

/-- Settles O9: a jump's completion moves PC alone, to a word, and each transfer's body names the target of Table 4.1, read before it links. -/
theorem controlTransfers : Obligations.ControlTransfers := by
  unfold Obligations.ControlTransfers
  intro s u x c goes
  refine ⟨fun f => ⟨?br, ?call⟩, fun f => ⟨?jmp, ?callr⟩, ?ret⟩
  case br => exact fun hi => runs_jump_plain rfl rfl hi rfl (branchTarget_dest _ f.off)
  case call => exact fun hi => runs_jump_link rfl rfl hi rfl (branchTarget_dest _ f.off)
  case jmp => exact fun hi => runs_jump_plain rfl rfl hi rfl (regTarget_dest (c.getG f.a))
  case callr => exact fun hi => runs_jump_link rfl rfl hi rfl (regTarget_dest (c.getG f.a))
  case ret => exact fun f hi => runs_jump_plain rfl rfl hi rfl (regTarget_dest (c.getG 31))
end

section
/-! Results of one register, accumulator or predicate (spec/03 R74, R78 to R81, R95, spec/05 R166, R167, R172): what a body that writes one
leaves, and the values and conditions of Tables 5.2 and 5.3. -/

namespace Sys2Proof.Machine

/-! ## Bodies that write one register -/

/-- Two cores differ in their counters and control registers alone, and the second has the control registers `k`. -/
structure Core.CtlOnly (c e : Core) (k : Ctl) : Prop where
  regs : e.regs = c.regs
  loops : e.loops = c.loops
  run : e.run = c.run
  ports : e.ports = c.ports
  ctl : e.ctl = k

theorem Core.CtlOnly.refl (c : Core) : Core.CtlOnly c c c.ctl := ⟨rfl, rfl, rfl, rfl, rfl⟩

section
variable {i : Instr} {s : State} {u : UnitId} {x : Issue} {op : CoreOp} {g : Core → Core}

/-- The command of an operation whose body acts on its core alone, from issue to completion. -/
theorem runs_pure (hi : opOf i = some (u, x, op)) (hr : opIsRep op = false) (hb : bodyOf u op = pureBody u g) (h : s.Issues u x op)
    (hl : (g (s.core u)).loops = (s.core u).loops) (hrun : (g (s.core u)).run = (s.core u).run)
    (hp : (g (s.core u)).ports = (s.core u).ports) :
    Runs i s fun t => UnitOnly u s t ∧
      Core.Now (s.core u) (t.core u) (g (s.core u)).getG (g (s.core u)).getAcc (g (s.core u)).getP (g (s.core u)).ctl :=
  ⟨_, exec_opOf hi hr s, hb ▸ State.issue_now g h hrun hl hp⟩

/-- A body that writes a general register. -/
theorem runs_setG {e : Core} {k : Ctl} {d : BitVec 5} {v : Word} (hi : opOf i = some (u, x, op)) (hr : opIsRep op = false)
    (hb : bodyOf u op = pureBody u g) (hg : g (s.core u) = e.setG d v) (he : Core.CtlOnly (s.core u) e k) (h : s.Issues u x op) :
    Runs i s fun t => UnitOnly u s t ∧ Core.WroteG (s.core u) (t.core u) d v k := by
  have hruns := runs_pure hi hr hb h (by rw [hg]; exact he.loops) (by rw [hg]; exact he.run) (by rw [hg]; exact he.ports)
  rw [hg] at hruns
  refine hruns.imp fun t ⟨hu, hgs, hacc, hps, hctl, hkept⟩ =>
    ⟨hu, fun j => (hgs j).trans ?_, fun j => (hacc j).trans ?_, fun j => (hps j).trans ?_, hctl.trans he.ctl, hkept⟩
  · rw [Core.getG_setG, Core.getG_of_g (congrArg Regs.g he.regs)]
  · exact congrFun (Core.getAcc_of_acc (congrArg Regs.acc he.regs)) j
  · exact congrFun (Core.getP_of_p (congrArg Regs.p he.regs)) j

/-- A body that writes an accumulator. -/
theorem runs_setAcc {e : Core} {k : Ctl} {a : BitVec 3} {v : BitVec 40} (hi : opOf i = some (u, x, op)) (hr : opIsRep op = false)
    (hb : bodyOf u op = pureBody u g) (hg : g (s.core u) = e.setAcc a v) (he : Core.CtlOnly (s.core u) e k) (h : s.Issues u x op) :
    Runs i s fun t => UnitOnly u s t ∧ Core.WroteAcc (s.core u) (t.core u) a v k := by
  have hruns := runs_pure hi hr hb h (by rw [hg]; exact he.loops) (by rw [hg]; exact he.run) (by rw [hg]; exact he.ports)
  rw [hg] at hruns
  refine hruns.imp fun t ⟨hu, hgs, hacc, hps, hctl, hkept⟩ =>
    ⟨hu, fun j => (hgs j).trans ?_, fun j => (hacc j).trans ?_, fun j => (hps j).trans ?_, hctl.trans he.ctl, hkept⟩
  · exact congrFun (Core.getG_of_g (congrArg Regs.g he.regs)) j
  · rw [Core.getAcc_setAcc, Core.getAcc_of_acc (congrArg Regs.acc he.regs)]
  · exact congrFun (Core.getP_of_p (congrArg Regs.p he.regs)) j

/-- A body that writes a predicate, or nothing where it names p0 (R74). -/
theorem runs_setP {d : BitVec 3} {v : Bool} (hi : opOf i = some (u, x, op)) (hr : opIsRep op = false) (hb : bodyOf u op = pureBody u g)
    (hg : g (s.core u) = (s.core u).setP d v) (h : s.Issues u x op) :
    Runs i s fun t => UnitOnly u s t ∧ Core.WroteP (s.core u) (t.core u) d v := by
  have hruns := runs_pure hi hr hb h (by rw [hg, Core.setP_loops]) (by rw [hg, Core.setP_run]) (by rw [hg, Core.setP_ports])
  rw [hg] at hruns
  refine hruns.imp fun t ⟨hu, hgs, hacc, hps, hctl, hkept⟩ =>
    ⟨hu, fun j => (hgs j).trans ?_, fun j => (hacc j).trans ?_, fun j => (hps j).trans ?_, hctl.trans ?_, hkept⟩
  · exact Core.getG_setP _ d v j
  · exact congrFun (Core.getAcc_of_acc (Core.setP_acc _ d v)) j
  · exact Core.getP_setP _ d j v
  · exact Core.setP_ctl _ d v

/-- A body that writes a general register and sets no flag, its result in whichever form: `v`, or `w` as the spec states it. -/
theorem runs_plain {d : BitVec 5} {v w : Word} (hi : opOf i = some (u, x, op)) (hr : opIsRep op = false) (hb : bodyOf u op = pureBody u g)
    (hg : g (s.core u) = (s.core u).setG d v) (hv : v = w) (h : s.Issues u x op) :
    Runs i s fun t => UnitOnly u s t ∧ Core.WroteG (s.core u) (t.core u) d w (s.core u).ctl :=
  runs_setG hi hr hb (hv ▸ hg) (.refl _) h
end

/-! ## Values of Table 5.2 -/

/-- SHR: a right shift divides and rounds down. -/
theorem ushiftRight_eq_div (a : Word) (n : Nat) : a >>> n = BitVec.ofNat 32 (a.toNat / 2 ^ n) := by
  have hlt : a.toNat / 2 ^ n < 2 ^ 32 := (Nat.div_le_self _ _).trans_lt a.isLt
  apply BitVec.eq_of_toNat_eq
  rw [BitVec.toNat_ushiftRight, Nat.shiftRight_eq_div_pow, BitVec.toNat_ofNat, Nat.mod_eq_of_lt hlt]

/-- SAR: the same of the signed value. -/
theorem sshiftRight_eq_div (a : Word) (n : Nat) : a.sshiftRight n = BitVec.ofInt 32 (a.toInt / 2 ^ n) := by
  rw [BitVec.sshiftRight, Int.shiftRight_eq_div_pow]
  push_cast
  rfl

/-- MIN writes the operand that is the signed minimum. -/
theorem ite_toInt_le_eq_min (a b : Word) : (if a.toInt ≤ b.toInt then a else b) = BitVec.ofInt 32 (min a.toInt b.toInt) := by
  split
  · next h => rw [min_eq_left h, BitVec.ofInt_toInt]
  · next h => rw [min_eq_right (le_of_not_ge h), BitVec.ofInt_toInt]

/-- MAX writes the operand that is the signed maximum. -/
theorem ite_toInt_le_eq_max (a b : Word) : (if a.toInt ≤ b.toInt then b else a) = BitVec.ofInt 32 (max a.toInt b.toInt) := by
  split
  · next h => rw [max_eq_right h, BitVec.ofInt_toInt]
  · next h => rw [max_eq_left (le_of_not_ge h), BitVec.ofInt_toInt]

/-- MINU writes the operand that is the unsigned minimum. -/
theorem ite_toNat_le_eq_min (a b : Word) : (if a.toNat ≤ b.toNat then a else b) = BitVec.ofNat 32 (min a.toNat b.toNat) := by
  split
  · next h => rw [min_eq_left h, BitVec.ofNat_toNat, BitVec.setWidth_eq]
  · next h => rw [min_eq_right (le_of_not_ge h), BitVec.ofNat_toNat, BitVec.setWidth_eq]

/-- MAXU writes the operand that is the unsigned maximum. -/
theorem ite_toNat_le_eq_max (a b : Word) : (if a.toNat ≤ b.toNat then b else a) = BitVec.ofNat 32 (max a.toNat b.toNat) := by
  split
  · next h => rw [max_eq_right h, BitVec.ofNat_toNat, BitVec.setWidth_eq]
  · next h => rw [max_eq_left (le_of_not_ge h), BitVec.ofNat_toNat, BitVec.setWidth_eq]

/-- MOVHI puts the immediate above the low half of the register. -/
theorem append_truncate_eq (m : BitVec 16) (a : Word) :
    m ++ (a.truncate 16 : BitVec 16) = BitVec.ofNat 32 (m.toNat * 65536 + a.toNat % 65536) := by
  have hlow : a.toNat % 2 ^ 16 < 2 ^ 16 := Nat.mod_lt _ (by decide)
  have hm := m.isLt
  apply BitVec.eq_of_toNat_eq
  rw [BitVec.toNat_append, BitVec.truncate_eq_setWidth, BitVec.toNat_setWidth, ← Nat.shiftLeft_add_eq_or_of_lt hlow, Nat.shiftLeft_eq,
    BitVec.toNat_ofNat]
  omega

/-! ## Conditions of Table 5.3 -/

/-- What a condition code asks of its operands. -/
def CondMeans (cond : BitVec 3) (a b : Word) : Prop :=
  match cond.toNat with
  | 0 => a = b
  | 1 => a ≠ b
  | 2 => a.toInt < b.toInt
  | 3 => a.toInt ≥ b.toInt
  | 4 => a.toNat < b.toNat
  | 5 => a.toNat ≥ b.toNat
  | 6 => a &&& b ≠ 0
  | _ => a &&& b = 0

theorem condHolds_iff (cond : BitVec 3) (a b : Word) : condHolds cond a b = true ↔ CondMeans cond a b := by
  unfold condHolds CondMeans
  generalize cond.toNat = n
  match n with
  | 0 => exact beq_iff_eq
  | 1 => exact bne_iff_ne
  | 2 => exact decide_eq_true_iff
  | 3 => exact decide_eq_true_iff
  | 4 => exact decide_eq_true_iff
  | 5 => exact decide_eq_true_iff
  | 6 => exact bne_iff_ne
  | n + 7 => exact beq_iff_eq

end Sys2Proof.Machine

open Sys2Proof Sys2Proof.Machine

/-- Settles O5: each body writes its one register or predicate and no control register, so no flag is set; its value is that of Table 5.2, and
a condition code means what Table 5.3 says. -/
theorem plainAndComparisonResults : Obligations.PlainAndComparisonResults := by
  unfold Obligations.PlainAndComparisonResults
  constructor <;> intro s u x c
  · intro gives
    refine ⟨fun f => ⟨?and, ?or, ?xor, ?shr, ?sar, ?min, ?max, ?minu, ?maxu, ?mulh, ?mulhu⟩, fun f => ?sel,
      fun f => ⟨?andi, ?ori, ?xori⟩, fun f => ⟨?movi, ?movhi⟩, fun f => ?mfc⟩
    case and => exact runs_plain rfl rfl rfl rfl rfl
    case or => exact runs_plain rfl rfl rfl rfl rfl
    case xor => exact runs_plain rfl rfl rfl rfl rfl
    case shr => exact runs_plain rfl rfl rfl rfl (ushiftRight_eq_div _ _)
    case sar => exact runs_plain rfl rfl rfl rfl (sshiftRight_eq_div _ _)
    case min => exact runs_plain rfl rfl rfl rfl (ite_toInt_le_eq_min _ _)
    case max => exact runs_plain rfl rfl rfl rfl (ite_toInt_le_eq_max _ _)
    case minu => exact runs_plain rfl rfl rfl rfl (ite_toNat_le_eq_min _ _)
    case maxu => exact runs_plain rfl rfl rfl rfl (ite_toNat_le_eq_max _ _)
    case mulh => exact runs_plain rfl rfl rfl rfl rfl
    case mulhu => exact runs_plain rfl rfl rfl rfl rfl
    case sel => exact runs_plain rfl rfl rfl rfl rfl
    case andi => exact runs_plain rfl rfl rfl rfl rfl
    case ori => exact runs_plain rfl rfl rfl rfl rfl
    case xori => exact runs_plain rfl rfl rfl rfl rfl
    case movi => exact runs_plain rfl rfl rfl rfl rfl
    case movhi => exact runs_plain rfl rfl rfl rfl (append_truncate_eq f.imm _)
    case mfc => exact runs_plain rfl rfl rfl rfl rfl
  · intro holds
    refine ⟨fun f hi => ⟨_, condHolds_iff f.cond _ _, ?cmp⟩, fun f hi => ⟨_, condHolds_iff f.cond _ _, ?cmpi⟩⟩
    case cmp => exact runs_setP rfl rfl rfl rfl hi
    case cmpi => exact runs_setP rfl rfl rfl rfl hi
end

section
/-! Accumulator writes and rounded results (spec/02 R59, R60, spec/03 R78 to R80, R85, R86, spec/05 R168, R169): narrowed results with their
flags, and the draw of a rounding. -/

namespace Sys2Proof.Machine

/-! ## Flags and draws beside the write -/

/-- The flag of a narrowed result is one of the control registers. -/
theorem Core.CtlOnly.satFlag {c e : Core} {k : Ctl} (h : Core.CtlOnly c e k) (w : Nat) (sat : Bool) (n : Int) :
    Core.CtlOnly c (e.satFlag w sat n) (k.flagged (satBits w sat n)) :=
  ⟨(Core.satFlag_regs e w sat n).trans h.regs, (Core.satFlag_loops e w sat n).trans h.loops, (Core.satFlag_run e w sat n).trans h.run,
    (Core.satFlag_ports e w sat n).trans h.ports, by rw [Core.satFlag_ctl, h.ctl]; rfl⟩

/-- A draw counts in KS_CTR, and only under RKS (R85, R86). -/
theorem Core.CtlOnly.drawn (c : Core) (rm : Nat) : Core.CtlOnly c (c.drawn rm) (c.ctl.drew rm) :=
  ⟨Core.drawn_regs c rm, Core.drawn_loops c rm, Core.drawn_run c rm, Core.drawn_ports c rm, Core.drawn_ctl c rm⟩

/-- The draw of a core is the generator's under KS_KEY at the four words of KS_CTR (R60). -/
theorem Core.drawVal_eq (c : Core) : c.drawVal = draw c.ctl.ksKey.toNat (c.ctl.ksCtr.toNat % 2 ^ 32) (c.ctl.ksCtr.toNat / 2 ^ 32 % 2 ^ 32)
    (c.ctl.ksCtr.toNat / 2 ^ 64 % 2 ^ 32) (c.ctl.ksCtr.toNat / 2 ^ 96) := by
  have htop : c.ctl.ksCtr.toNat / 2 ^ 96 < 2 ^ 32 := Nat.div_lt_of_lt_mul c.ctl.ksCtr.isLt
  simp only [Core.drawVal, bits, pow_zero, Nat.div_one, Nat.mod_eq_of_lt htop]

/-! ## Bodies that write a narrowed result -/

section
variable {i : Instr} {s : State} {u : UnitId} {x : Issue} {op : CoreOp} {g : Core → Core} {e : Core} {k : Ctl} {sat : Bool} {n : Int}

/-- A body that writes a result narrowed to 32 bits to a general register. -/
theorem runs_putSat {d : BitVec 5} (hi : opOf i = some (u, x, op)) (hr : opIsRep op = false) (hb : bodyOf u op = pureBody u g)
    (hg : g (s.core u) = e.putSat d sat n) (he : Core.CtlOnly (s.core u) e k) (h : s.Issues u x op) :
    Runs i s fun t => UnitOnly u s t ∧
      Core.WroteG (s.core u) (t.core u) d (BitVec.ofInt 32 (satValue 32 sat n)) (k.flagged (satBits 32 sat n)) :=
  runs_setG hi hr hb hg (he.satFlag 32 sat n) h

/-- A body that writes a result narrowed to 40 bits to an accumulator. -/
theorem runs_putAccSat {a : BitVec 3} (hi : opOf i = some (u, x, op)) (hr : opIsRep op = false) (hb : bodyOf u op = pureBody u g)
    (hg : g (s.core u) = e.putAccSat a sat n) (he : Core.CtlOnly (s.core u) e k) (h : s.Issues u x op) :
    Runs i s fun t => UnitOnly u s t ∧
      Core.WroteAcc (s.core u) (t.core u) a (BitVec.ofInt 40 (satValue 40 sat n)) (k.flagged (satBits 40 sat n)) :=
  runs_setAcc hi hr hb hg (he.satFlag 40 sat n) h
end

end Sys2Proof.Machine

open Sys2Proof Sys2Proof.Machine

/-- Settles O3: each rounding body rounds with the core's own draw, which counts in KS_CTR under RKS alone, and every sum or product is narrowed
to its width before the one write. -/
theorem accumulatorAndRoundedResults : Obligations.AccumulatorAndRoundedResults := by
  unfold Obligations.AccumulatorAndRoundedResults
  constructor <;> intro s u x c
  · refine ⟨fun f hi => ?accset, fun f hi => ?accclr, fun f hi => ?accadd⟩
    case accset => exact runs_setAcc rfl rfl rfl rfl (.refl c) hi
    case accclr => exact runs_setAcc rfl rfl rfl rfl (.refl c) hi
    case accadd => exact ⟨_, _, narrowed_sat 40 (by decide) f.sat _, runs_putAccSat rfl rfl rfl rfl (.refl c) hi⟩
  · intro r
    have hround : ∀ (rm : Nat) (n : Int) (k : Nat), RoundsTo rm r n k (roundShift rm c.drawVal n k) := fun rm n k => by
      rw [Core.drawVal_eq]; exact roundShift_roundsTo rm r n k
    refine ⟨fun f hi => ?fmul, fun f hi => ?ext, fun f hi => ?mac, fun f hi => ?msu⟩
    case fmul =>
      exact ⟨_, _, _, hround _ _ _, narrowed_sat 32 (by decide) f.sat _, runs_putSat rfl rfl rfl rfl (.drawn c f.rm.toNat) hi⟩
    case ext =>
      exact ⟨_, _, _, hround _ _ _, narrowed_sat 32 (by decide) f.sat _, runs_putSat rfl rfl rfl rfl (.drawn c f.rm.toNat) hi⟩
    case mac =>
      exact ⟨_, _, _, hround _ _ _, narrowed_sat 40 (by decide) f.sat _, runs_putAccSat rfl rfl rfl rfl (.drawn c f.rm.toNat) hi⟩
    case msu =>
      exact ⟨_, _, _, hround _ _ _, narrowed_sat 40 (by decide) f.sat _, runs_putAccSat rfl rfl rfl rfl (.drawn c f.rm.toNat) hi⟩
end
section
/-! # Power: the cap, what is measured, and the throttle (R607 to R610) -/

namespace Sys2Proof.Machine

/-! ## Fields of registers -/

theorem State.fld_lt (s : State) (f : Fld) : s.fld f < 2 ^ f.w := Nat.mod_lt _ (Nat.two_pow_pos f.w)

/-- A field of one bit is 0 when its flag is down. -/
theorem State.flag_eq_false_iff (s : State) {f : Fld} (hw : f.w = 1) : s.flag f = false ↔ s.fld f = 0 := by
  have h := s.fld_lt f
  rw [hw] at h
  have h' : s.csr.fld f < 2 := h
  simp only [State.flag, State.fld, beq_eq_false_iff_ne, ne_eq]
  omega

theorem State.setFld_frame (s : State) (f : Fld) (v : Nat) : s.setFld f v = { s with csr := (s.setFld f v).csr } := rfl

/-- The words of the ports lie above the device's own. -/
theorem R.portLinkUp_key (p : Nat) : 0x2000000 ≤ (R.portLinkUp p).key := by
  simp only [R.portLinkUp, R.portStat, R.portKey, R.netKey]
  omega

/-! ## The power cap (R607, R551) -/

/-- The cap that CAP_IN_FORCE takes, in W. -/
def State.cap (s : State) : Nat := min (max 300 (min 560 (s.fld R.pwrCfg))) (rindCap (s.fld R.rindPower))

theorem State.cap_lt (s : State) : s.cap < 1024 :=
  lt_of_le_of_lt (Nat.min_le_left _ _) (by omega)

theorem State.fld_showCap (s : State) : s.showCap.fld R.pwrCapInForce = s.cap :=
  s.fld_setFld_same R.pwrCapInForce _ (by decide) s.cap_lt

/-- Showing the cap changes no field apart from CAP_IN_FORCE. -/
theorem State.fld_showCap_apart (s : State) (f : Fld) (h : f.key ≠ 0x100004 ∨ f.lo + f.w ≤ 8 ∨ 18 ≤ f.lo) : s.showCap.fld f = s.fld f :=
  s.fld_setFld_apart R.pwrCapInForce f _ (by decide) h

/-- A setting is taken between 300 and 560 W. -/
theorem max_min_eq_clamp (w : Nat) : max 300 (min 560 w) = if w < 300 then 300 else if 560 < w then 560 else w := by
  split_ifs <;> omega

theorem State.pwrSet_cap (s : State) {w : Nat} (hw : w < 1024) : (s.pwrSet w).fld R.pwrCfg = w ∧
    (s.pwrSet w).fld R.pwrCapInForce = min (if w < 300 then 300 else if 560 < w then 560 else w) (rindCap (s.fld R.rindPower)) := by
  have hcfg : (s.setFld R.pwrCfg (min w 1023)).fld R.pwrCfg = w := by
    rw [Nat.min_eq_left (by omega), s.fld_setFld_same R.pwrCfg w (by decide) hw]
  have hrind : (s.setFld R.pwrCfg (min w 1023)).fld R.rindPower = s.fld R.rindPower :=
    s.fld_setFld_apart R.pwrCfg R.rindPower _ (by decide) (by decide)
  constructor
  · rw [State.pwrSet, State.fld_showCap_apart _ _ (by decide), hcfg]
  · rw [State.pwrSet, State.fld_showCap, State.cap, hcfg, hrind, max_min_eq_clamp]

/-! ## Measured power (R608, R639) -/

theorem imonCode_full {v : Nat} (c : Nat) (h : 1000000 ≤ v) : imonCode v c = 1023 := if_pos h

theorem imonCode_zero (c : Nat) : imonCode 0 c = 0 := rfl

/-- A reading lies between the two nearest steps. -/
theorem imonCode_bounds {v : Nat} (c : Nat) (h : v < 1000000) :
    v * 1023 / 1000000 ≤ imonCode v c ∧ imonCode v c ≤ (v * 1023 + 999999) / 1000000 := by
  have hc : c % 2 < 2 := Nat.mod_lt c (by decide)
  rw [imonCode, if_neg (by omega)]
  split_ifs <;> constructor <;> omega

/-- One reading at full scale gives the full current of its rail. -/
theorem State.railPower_full (s : State) {a u : List Nat} {r : Nat} (h : 1000000 ≤ a.getD r 0) :
    s.railPower [a] [u] r = u.getD r 0 * imonFull.getD r 0 := by
  rw [List.getD_eq_getElem?_getD] at h
  simp [State.railPower, imonCode_full _ h]

/-- A reading of zero gives no power. -/
theorem State.railPower_zero (s : State) {a u : List Nat} {r : Nat} (h : a.getD r 0 = 0) : s.railPower [a] [u] r = 0 := by
  rw [List.getD_eq_getElem?_getD] at h
  simp [State.railPower, h, imonCode_zero]

/-- With only rails 6 and 8 loaded, and both at full scale, die 0 takes all power. -/
theorem State.diePower_die0 (s : State) {a u : List Nat} (h0 : ∀ j, j ≠ 6 → j ≠ 8 → a.getD j 0 = 0) (h6 : 1000000 ≤ a.getD 6 0)
    (h8 : 1000000 ≤ a.getD 8 0) : s.diePower [a] [u] = (u.getD 6 0 * 100 + u.getD 8 0 * 200, 0) := by
  have hz : ∀ r, r ≠ 6 → r ≠ 8 → s.railPower [a] [u] r = 0 := fun r h h' => s.railPower_zero (h0 r h h')
  have hboth : ([0, 1, 2, 3, 4, 5, 10].map (s.railPower [a] [u])).sum = 0 := by
    simp [hz 0, hz 1, hz 2, hz 3, hz 4, hz 5, hz 10]
  simp only [State.diePower, hboth, hz 7 (by decide) (by decide), hz 9 (by decide) (by decide), s.railPower_full h6, s.railPower_full h8]
  simp [imonFull, Nat.mod_one]

/-! ## An evaluation of the throttle (R610) -/

/-- The gain of the level in force once an evaluation that measured `p` mW has recorded it. -/
def State.gainNow (s : State) (p : Int) : Int :=
  if s.power.raised = true then s.power.before - p else s.power.gain.toList.getD (s.fld R.pwrLevel) 0

/-- Power plus gain stays under the cap, and has for 1 ms. -/
def State.FitsLong (s : State) (p : Int) (now : Nat) : Prop :=
  p + s.gainNow p < s.cap * 1000 ∧ ∃ f, s.power.fits = some f ∧ f + 1000000 ≤ now

/-- Since when an evaluation at `now` finds the power of `p` mW plus the gain under the cap. -/
def State.fitsSince (s : State) (p : Int) (now : Nat) : Option Nat :=
  if p + s.gainNow p < s.cap * 1000 then some (s.power.fits.getD now) else none

theorem State.ite_fitsSince (s : State) (p : Int) (now : Nat) {P : Prop} [Decidable P] :
    (if P then s.fitsSince p now else none) = if p + s.gainNow p < s.cap * 1000 ∧ P then some (s.power.fits.getD now) else none := by
  unfold State.fitsSince
  by_cases hP : P <;> simp [hP]

/-- An evaluation up to `t` measured `w`, in mW by die, and chose the level `n`; `up` says whether it was raised for the cap. -/
structure State.Evaluated (s : State) (t : Nat) (w : Nat × Nat) (n : Nat) (up : Bool) (r : State) : Prop where
  frame : r = { s.advance t with fresh := r.fresh, csr := r.csr, power := r.power }
  level : r.fld R.pwrLevel = n
  limited : r.fld R.pwrCapLimited = if s.fld R.pwrFloor < n then 1 else 0
  meas0 : r.fld R.pwrMeas0 = min (w.1 / 100) 65535
  meas1 : r.fld R.pwrMeas1 = min (w.2 / 100) 65535
  raised : r.power.raised = up
  before : r.power.before = if up then (w.1 + w.2 : Int) else s.power.before
  gain : r.power.gain.toList.getD (s.fld R.pwrLevel) 0 = s.gainNow (w.1 + w.2)
  gains : ∀ j, j ≠ s.fld R.pwrLevel → r.power.gain.toList.getD j 0 = s.power.gain.toList.getD j 0
  fits : r.power.fits = if n = s.fld R.pwrLevel then s.fitsSince (w.1 + w.2) (max s.time.now t) else none

/-- The gains after an evaluation that measured `p`. -/
def State.gainsNow (s : State) (p : Int) : Vector Int 7 :=
  if s.power.raised then s.power.gain.set (min (s.fld R.pwrLevel) 6) (s.power.before - p) (by omega) else s.power.gain

theorem State.gainsNow_eq (s : State) {x : PowerSt} (hx : x = s.power) (p : Int) {l : Nat} (h : l = s.fld R.pwrLevel) :
    s.gainsNow p = if x.raised then x.gain.set (min l 6) (x.before - p) (by omega) else x.gain := by
  subst hx h
  rfl

theorem State.gainsNow_level (s : State) (p : Int) (h : s.fld R.pwrLevel ≤ 6) : (s.gainsNow p).toList.getD (s.fld R.pwrLevel) 0 = s.gainNow p := by
  unfold State.gainsNow State.gainNow
  split
  · simp [Nat.min_eq_left h, List.getD_eq_getElem?_getD, Nat.lt_succ_of_le h]
  · rfl

theorem State.gainsNow_other (s : State) (p : Int) {j : Nat} (h : s.fld R.pwrLevel ≤ 6) (hj : j ≠ s.fld R.pwrLevel) :
    (s.gainsNow p).toList.getD j 0 = s.power.gain.toList.getD j 0 := by
  unfold State.gainsNow
  split
  · simp [Nat.min_eq_left h, List.getD_eq_getElem?_getD, Ne.symm hj]
  · rfl

/-- The level and floor of an evaluation are chosen from the cap, the floor and what was measured (R610). -/
theorem State.chooseLevel_congr {s u : State} (hc : u.fld R.pwrCapInForce = s.fld R.pwrCapInForce) (hf : u.fld R.pwrFloor = s.fld R.pwrFloor)
    (p : Int) (l : Nat) (b : Bool) : u.chooseLevel p l b = s.chooseLevel p l b := by
  simp only [State.chooseLevel, hc, hf]

section
variable {s : State} {p : Int} {l : Nat} {b : Bool}

theorem State.chooseLevel_raise (hp : s.cap * 1000 < p) (hl : l < 6) : s.showCap.chooseLevel p l b = (l + 1, true) := by
  rw [State.chooseLevel, State.fld_showCap]
  exact if_pos ⟨hp, hl⟩

theorem State.chooseLevel_lower (hp : p ≤ s.cap * 1000 ∨ l = 6) (hl : s.fld R.pwrFloor < l) (hb : b = true) :
    s.showCap.chooseLevel p l b = (l - 1, false) := by
  rw [State.chooseLevel, State.fld_showCap, State.fld_showCap_apart _ _ (by decide)]
  exact (if_neg (by omega)).trans (if_pos ⟨hl, hb⟩)

theorem State.chooseLevel_keep (hp : p ≤ s.cap * 1000 ∨ l = 6) (hb : l ≤ s.fld R.pwrFloor ∨ ¬b = true) :
    s.showCap.chooseLevel p l b = (l, false) := by
  rw [State.chooseLevel, State.fld_showCap, State.fld_showCap_apart _ _ (by decide)]
  exact (if_neg (by omega)).trans (if_neg fun h => hb.elim (Nat.not_le.mpr h.1) fun n => n h.2)

/-- Without a rise the level is not marked as raised. -/
theorem State.chooseLevel_calm (hp : p ≤ s.cap * 1000 ∨ l = 6) : (s.showCap.chooseLevel p l b).2 = false := by
  rw [State.chooseLevel, State.fld_showCap, if_neg (by omega)]
  split <;> rfl

theorem State.chooseLevel_le (hl : l ≤ 6) : (s.chooseLevel p l b).1 ≤ 6 := by
  unfold State.chooseLevel
  dsimp only
  split_ifs <;> dsimp only <;> omega
end

/-- The readings of an evaluation, as PWR_MEAS shows them, and the cap in force. -/
def State.measurePower (s : State) (amps volts : List (List Nat)) (t : Nat) : State :=
  (({ s with fresh := s.fresh + 11 * amps.length + 1 }.advance t).showCap.setFld R.pwrMeas0 (min ((s.diePower amps volts).1 / 100) 65535)).setFld
    R.pwrMeas1 (min ((s.diePower amps volts).2 / 100) 65535)

/-- A chosen level takes effect, and CAP_LIMITED with it; `x` is what the throttle keeps for the next evaluation. -/
def State.takeLevel (s : State) (x : PowerSt) (n : Nat) : State :=
  ({ s with power := x }.setFld R.pwrLevel n).setFld R.pwrCapLimited (b2n (decide (s.fld R.pwrFloor < n)))

/-- A measurement changes PWR_MEAS and CAP_IN_FORCE alone. -/
theorem State.fld_measurePower_apart (s : State) (amps volts : List (List Nat)) (t : Nat) (f : Fld) (hm : f.key ≠ 0x100008)
    (hc : f.key ≠ 0x100004 ∨ f.lo + f.w ≤ 8 ∨ 18 ≤ f.lo) : (s.measurePower amps volts t).fld f = s.fld f := by
  rw [State.measurePower, State.fld_setFld_apart _ _ _ _ (by decide) (.inl hm), State.fld_setFld_apart _ _ _ _ (by decide) (.inl hm)]
  exact State.fld_showCap_apart _ f hc

theorem State.fld_measurePower_cap (s : State) (amps volts : List (List Nat)) (t : Nat) : (s.measurePower amps volts t).fld R.pwrCapInForce = s.cap := by
  rw [State.measurePower, State.fld_setFld_apart _ _ _ _ (by decide) (by decide), State.fld_setFld_apart _ _ _ _ (by decide) (by decide)]
  exact State.fld_showCap _

theorem State.fld_measurePower_meas (s : State) (amps volts : List (List Nat)) (t : Nat) :
    (s.measurePower amps volts t).fld R.pwrMeas0 = min ((s.diePower amps volts).1 / 100) 65535 ∧
    (s.measurePower amps volts t).fld R.pwrMeas1 = min ((s.diePower amps volts).2 / 100) 65535 := by
  have hle : ∀ v, min v 65535 < 2 ^ 16 := fun v => lt_of_le_of_lt (Nat.min_le_right v _) (by decide)
  rw [State.measurePower]
  constructor
  · rw [State.fld_setFld_apart _ _ _ _ (by decide) (by decide), State.fld_setFld_same _ _ _ (by decide) (hle _)]
  · exact State.fld_setFld_same _ _ _ (by decide) (hle _)

theorem State.fld_takeLevel (s : State) (x : PowerSt) {n : Nat} (hn : n ≤ 6) :
    (s.takeLevel x n).fld R.pwrLevel = n ∧ (s.takeLevel x n).fld R.pwrCapLimited = if s.fld R.pwrFloor < n then 1 else 0 := by
  constructor
  · rw [State.takeLevel, State.fld_setFld_apart _ _ _ _ (by decide) (by decide), State.fld_setFld_same _ _ _ (by decide) (Nat.lt_of_le_of_lt hn (by decide))]
  · rw [State.takeLevel, State.fld_setFld_same _ _ _ (by decide) (by unfold b2n; split <;> decide)]
    simp [b2n]

theorem State.fld_takeLevel_apart (s : State) (x : PowerSt) (n : Nat) (f : Fld) (h : f.key ≠ 0x100004) : (s.takeLevel x n).fld f = s.fld f := by
  rw [State.takeLevel, State.fld_setFld_apart _ _ _ _ (by decide) (.inl h), State.fld_setFld_apart _ _ _ _ (by decide) (.inl h)]
  rfl

/-- The power record after an evaluation that measured `w` and chose the level `n`: `since` says since when the power has fitted. -/
def State.powerNow (s : State) (w : Nat × Nat) (n : Nat) (up : Bool) (since : Option Nat) : PowerSt :=
  { s.power with power := (s.power.power.set 0 w.1).set 1 w.2, gain := s.gainsNow (w.1 + w.2), raised := up,
                 before := if up then w.1 + w.2 else s.power.before, fits := if n = s.fld R.pwrLevel then since else none }

/-- What fits now has fitted for 1 ms. -/
def longAt (now : Nat) : Option Nat → Bool
  | some f => decide (f + 1000000 ≤ now)
  | none => false

theorem State.longAt_fitsSince (s : State) (p : Int) (now : Nat) : longAt now (s.fitsSince p now) = true ↔ s.FitsLong p now := by
  unfold State.fitsSince State.FitsLong
  by_cases h : p + s.gainNow p < s.cap * 1000
  · cases hs : s.power.fits with
    | some f => simp [h, longAt]
    | none => simp [h, longAt]
  · simp [h, longAt]

/-- What R610 makes of a measurement: the second half of an evaluation, from the state in which PWR_MEAS shows the measured power `w`. -/
def State.throttle (s : State) (w : Nat × Nat) : State :=
  let p : Int := w.1 + w.2
  let level := s.fld R.pwrLevel
  let s := { s with power.power := (s.power.power.set 0 w.1).set 1 w.2,
                    power.gain := if s.power.raised then s.power.gain.set (min level 6) (s.power.before - p) (by omega) else s.power.gain }
  let since := if decide (p + s.gainOf level < s.fld R.pwrCapInForce * 1000) then some (s.power.fits.getD s.time.now) else none
  let c := s.chooseLevel p level (longAt s.time.now since)
  let new := max c.1 (s.fld R.pwrFloor)
  let x := { s.power with raised := c.2, before := if c.2 then p else s.power.before, fits := if new = level then since else none }
  s.takeLevel x new

/-- The choice of a level changes no word but PWR_STAT. -/
theorem State.fld_throttle_apart (s : State) (w : Nat × Nat) (f : Fld) (h : f.key ≠ 0x100004) : (s.throttle w).fld f = s.fld f :=
  State.fld_takeLevel_apart _ _ _ f h

/-- An evaluation measures and shows the power, then chooses the level. -/
theorem exec_powerEvaluation (s : State) (amps volts : List (List Nat)) (t : Nat) :
    exec (.powerEvaluation amps volts t) s = .next ((s.measurePower amps volts t).throttle (s.diePower amps volts)) := by
  change execPowerEvaluation amps volts t s = _
  unfold execPowerEvaluation State.throttle
  rfl

/-- The choice of R610 on a state `m` in which PWR_MEAS and CAP_IN_FORCE alone differ from `s`, in terms of `s`. -/
theorem State.throttle_eq {s m : State} (w : Nat × Nat) {now : Nat} (hl : s.fld R.pwrLevel ≤ 6) (hlevel : m.fld R.pwrLevel = s.fld R.pwrLevel)
    (hfloor : m.fld R.pwrFloor = s.fld R.pwrFloor) (hcap : m.fld R.pwrCapInForce = s.cap) (hpower : m.power = s.power) (htime : m.time.now = now) :
    ∀ c n, s.showCap.chooseLevel (w.1 + w.2) (s.fld R.pwrLevel) (longAt now (s.fitsSince (w.1 + w.2) now)) = c → max c.1 (s.fld R.pwrFloor) = n →
      m.throttle w = m.takeLevel (s.powerNow w n c.2 (s.fitsSince (w.1 + w.2) now)) n := by
  intro c n hc hn
  subst htime
  unfold State.throttle
  extract_lets p l _ m' since' c' new x
  have hgains : m'.power.gain = s.gainsNow p := (s.gainsNow_eq hpower p hlevel).symm
  have hgain : m'.gainOf l = s.gainNow p := by
    rw [← s.gainsNow_level _ hl, ← hgains, ← hlevel, List.getD_eq_getElem?_getD]
    rfl
  have hsince : since' = s.fitsSince (w.1 + w.2) m.time.now := by
    have hfits : m.power.fits = s.power.fits := by rw [hpower]
    simp only [since', State.fitsSince, hgain, show m'.fld R.pwrCapInForce = _ from hcap, show m'.power.fits = _ from hfits, decide_eq_true_eq]
    rfl
  have hchoose := State.chooseLevel_congr (u := m') (hcap.trans s.fld_showCap.symm) (hfloor.trans (s.fld_showCap_apart _ (by decide)).symm) p l
    (longAt m.time.now since')
  have hc' : c' = c := by rw [show c' = _ from hchoose, hsince, show l = _ from hlevel, ← hc]
  have hn' : new = n := by rw [show new = max c'.1 (m'.fld R.pwrFloor) from rfl, hc', show m'.fld R.pwrFloor = _ from hfloor, hn]
  change m.takeLevel { m.power with power := (m.power.power.set 0 w.1).set 1 w.2, gain := m'.power.gain, raised := c'.2,
                                    before := if c'.2 then p else m.power.before, fits := if new = l then since' else none } new = _
  rw [hn', hc', hsince, show l = _ from hlevel, hgains, hpower]
  rfl

theorem State.takeLevel_frame (s : State) (x : PowerSt) (n : Nat) : s.takeLevel x n = { s with csr := (s.takeLevel x n).csr, power := x } := rfl

theorem State.measurePower_frame (s : State) (amps volts : List (List Nat)) (t : Nat) : s.measurePower amps volts t =
  { s.advance t with fresh := (s.measurePower amps volts t).fresh, csr := (s.measurePower amps volts t).csr } := rfl

/-- An evaluation chooses its level from the measured power as R610 does, and changes nothing else. -/
theorem powerEvaluation_evaluated (s : State) (amps volts : List (List Nat)) (t : Nat) {w : Nat × Nat} (hw : s.diePower amps volts = w)
    (hl : s.fld R.pwrLevel ≤ 6) (hf : s.fld R.pwrFloor ≤ 6) :
    ∃ b : Bool, (b = true ↔ s.FitsLong (w.1 + w.2) (max s.time.now t)) ∧
      ∀ c, s.showCap.chooseLevel (w.1 + w.2) (s.fld R.pwrLevel) b = c →
        Runs (.powerEvaluation amps volts t) s (s.Evaluated t w (max c.1 (s.fld R.pwrFloor)) c.2) := by
  refine ⟨_, s.longAt_fitsSince _ _, fun c hc => ?_⟩
  have hn : max c.1 (s.fld R.pwrFloor) ≤ 6 := Nat.max_le.mpr ⟨hc ▸ State.chooseLevel_le hl, hf⟩
  have hlevel := s.fld_measurePower_apart amps volts t R.pwrLevel (by decide) (by decide)
  have hfloor := s.fld_measurePower_apart amps volts t R.pwrFloor (by decide) (by decide)
  have hrun := State.throttle_eq w hl hlevel hfloor (s.fld_measurePower_cap amps volts t) rfl rfl c _ hc rfl
  have hexec := exec_powerEvaluation s amps volts t
  obtain ⟨h0, h1⟩ := s.fld_measurePower_meas amps volts t
  rw [hw] at h0 h1 hexec
  rw [hrun] at hexec
  refine ⟨_, hexec, ?_⟩
  constructor
  case frame => rw [State.takeLevel_frame, State.measurePower_frame]
  case level => exact (State.fld_takeLevel _ _ hn).1
  case limited => rw [(State.fld_takeLevel _ _ hn).2, hfloor]
  case meas0 => exact (State.fld_takeLevel_apart _ _ _ _ (by decide)).trans h0
  case meas1 => exact (State.fld_takeLevel_apart _ _ _ _ (by decide)).trans h1
  case raised => rfl
  case before => rfl
  case gain => exact s.gainsNow_level _ hl
  case gains => exact fun j hj => s.gainsNow_other _ hl hj
  case fits => rfl

/-- The cap in force, as the setting and the Rind's cap give it. -/
theorem State.cap_eq (s : State) : s.cap =
    min (if s.fld R.pwrCfg < 300 then 300 else if 560 < s.fld R.pwrCfg then 560 else s.fld R.pwrCfg) (rindCap (s.fld R.rindPower)) := by
  rw [State.cap, max_min_eq_clamp]

end Sys2Proof.Machine
end

section
/-! # Temperature: the thermal trip and the thermal floor (R611 to R613) -/

namespace Sys2Proof.Machine

/-! ## Temperatures (R611, R612) -/

/-- The highest of a list of readings, not below a start. -/
theorem foldl_max_eq {α : Type} (f : α → Nat) {l : List α} {a m : Nat} (ha : a ≤ m) (hle : ∀ x ∈ l, f x ≤ m)
    (hm : a = m ∨ ∃ x ∈ l, f x = m) : l.foldl (fun m x => max m (f x)) a = m := by
  induction l generalizing a with
  | nil => simpa using hm
  | cons x xs ih =>
    refine ih (max_le ha (hle x List.mem_cons_self)) (fun y hy => hle y (List.mem_cons_of_mem _ hy)) ?_
    have hx := hle x List.mem_cons_self
    rcases hm with rfl | ⟨y, hy, rfl⟩
    · exact .inl (max_eq_left hx)
    · rcases List.mem_cons.mp hy with rfl | hy
      · exact .inl (max_eq_right ha)
      · exact .inr ⟨y, hy, rfl⟩

/-- The first of the highest readings reads as the highest. -/
theorem foldl_hot_snd (l : List (Nat × Nat × Nat)) (a : Nat × Nat × Nat) :
    (l.foldl (fun m b => if m.2.2 < b.2.2 then b else m) a).2.2 = l.foldl (fun m b => max m b.2.2) a.2.2 := by
  induction l generalizing a with
  | nil => rfl
  | cons b l ih =>
    rw [List.foldl_cons, List.foldl_cons, ih]
    congr 1
    split <;> omega

theorem thermHotOf_eq {x : ThermIn} {m : Nat} (hle : ∀ b ∈ x.bunch, b.2.2 ≤ m) (hm : ∃ b ∈ x.bunch, b.2.2 = m) : (thermHotOf x).2.2 = m :=
  (foldl_hot_snd x.bunch (0, 0, 0)).trans (foldl_max_eq (fun b : Nat × Nat × Nat => b.2.2) (Nat.zero_le m) hle (.inr hm))

theorem thermStk_eq {x : ThermIn} {g : Nat} (hle : ∀ k ∈ x.stk, k.2 ≤ g) (hg : ∃ k ∈ x.stk, k.2 = g) : thermStk x = g :=
  foldl_max_eq (fun k : Nat × Nat => k.2) (Nat.zero_le g) hle (.inr hg)

/-! ## A thermal trip (R612, R613) -/

theorem exec_thermalSample_trip {s : State} {x : ThermIn} {t : Nat} (h : 115000 ≤ (thermHotOf x).2.2 ∨ 110000 ≤ thermStk x) :
    exec (.thermalSample x t) s = .next { (s.advance t).deviceReset 3 with pins.thermtrip := true } := by
  change execThermalSample x t s = _
  unfold execThermalSample
  exact if_pos h

/-- A device reset leaves the registers at reset but for RST_CAUSE. -/
theorem State.fld_deviceReset (s : State) (c : Nat) (f : Fld) (h : f.key ≠ 0x20) : (s.deviceReset c).fld f = State.reset.fld f :=
  State.fld_setFld_apart _ R.rstCauseF f c (by decide) (.inl h)

theorem State.fld_deviceReset_cause (s : State) {c : Nat} (h : c < 8) : (s.deviceReset c).fld R.rstCauseF = c :=
  State.fld_setFld_same _ R.rstCauseF c (by decide) h

theorem State.fld_thermtrip (s : State) (b : Bool) (f : Fld) : ({ s with pins.thermtrip := b } : State).fld f = s.fld f := rfl

/-- No port is up at reset. -/
theorem State.reset_portLinkUp : ∀ p, p < 32 → State.reset.fld (R.portLinkUp p) = 0 := by decide

/-- A device reset restores what is neither flash, pin nor the model's own. -/
theorem State.deviceReset_frame (s : State) (c : Nat) : (s.deviceReset c).cores = State.reset.cores ∧ (s.deviceReset c).time = State.reset.time ∧
    (s.deviceReset c).out = s.out ∧ (s.deviceReset c).boot.flash = s.boot.flash := by
  unfold State.deviceReset
  simp only [State.setFld_cores, State.setFld_time, State.setFld_out, State.setFld_boot, and_self]

/-- A thermal trip drives THERMTRIP_N and leaves the device reset: only flash, pins and what was sent are as before. -/
theorem thermalSample_trip {s : State} {x : ThermIn} {t : Nat} (h : 115000 ≤ (thermHotOf x).2.2 ∨ 110000 ≤ thermStk x) :
    Runs (.thermalSample x t) s fun r => r.pins.thermtrip = true ∧ r.fld R.rstCauseF = 3 ∧ r.fld R.bootDone = 0 ∧ r.cores = State.reset.cores ∧
      r.time = State.reset.time ∧ r.out = s.out ∧ r.boot.flash = s.boot.flash ∧ ∀ p, p < 32 → r.fld (R.portLinkUp p) = 0 := by
  have hfld : ∀ f : Fld, f.key ≠ 0x20 → ({ (s.advance t).deviceReset 3 with pins.thermtrip := true } : State).fld f = State.reset.fld f :=
    fun f hf => (State.fld_thermtrip _ _ f).trans (State.fld_deviceReset _ _ f hf)
  obtain ⟨hcores, htime, hout, hflash⟩ := (s.advance t).deviceReset_frame 3
  refine ⟨_, exec_thermalSample_trip h, rfl, ?cause, ?boot, hcores, htime, hout, hflash, ?ports⟩
  case cause => exact (State.fld_thermtrip _ _ _).trans (State.fld_deviceReset_cause _ (by decide))
  case boot => exact (hfld R.bootDone (by decide)).trans (by decide)
  case ports => exact fun p hp => (hfld _ (by have := R.portLinkUp_key p; omega)).trans (State.reset_portLinkUp p hp)

/-! ## The thermal floor (Table 24.4) -/

/-- The stacks' readings reach their controllers and nothing else. -/
theorem State.foldl_temp (l : List (Nat × Nat)) (s : State) : ∃ h, l.foldl (fun s k => s.modHbm ⟨k.1 % 4, by omega⟩ fun c => { c with temp := k.2 }) s =
    { s with hbmCtl := h } := by
  induction l generalizing s with
  | nil => exact ⟨_, rfl⟩
  | cons k l ih => exact ih (s.modHbm ⟨k.1 % 4, by omega⟩ fun c => { c with temp := k.2 })

/-- Since when a sample at `now` finds Tj at or above 105 °C. -/
def State.hotSince (s : State) (m now : Nat) : Option Nat := if 105000 ≤ m then some (s.power.hot.getD now) else none

theorem State.longAt_hotSince (s : State) (m now : Nat) :
    longAt now (s.hotSince m now) = true ↔ 105000 ≤ m ∧ ∃ f, s.power.hot = some f ∧ f + 1000000 ≤ now := by
  unfold State.hotSince
  by_cases h : 105000 ≤ m
  · cases hs : s.power.hot with
    | some f => simp [h, longAt]
    | none => simp [h, longAt]
  · simp [h, longAt]

/-- The floor that the readings impose, with Tj hot for 1 ms or not. -/
def thermFloor (long : Bool) (m g : Nat) : Nat := if long then 6 else if 100000 ≤ m then 4 else if 95000 ≤ g then 1 else 0

theorem thermFloor_le (long : Bool) (m g : Nat) : thermFloor long m g ≤ 6 := by
  unfold thermFloor
  split_ifs <;> omega

/-- THERM_STAT shows a sample. -/
def State.showTherm (s : State) (x : ThermIn) : State :=
  ((s.setFld R.thermTj (min ((thermHotOf x).2.2 / 1000) 255)).setFld R.thermHot ((thermHotOf x).1 % 2 * 32 + (thermHotOf x).2.1 % 32)).setFld R.thermHbm
    (min (thermStk x / 1000) 255)

theorem State.fld_showTherm (s : State) (x : ThermIn) : (s.showTherm x).fld R.thermTj = min ((thermHotOf x).2.2 / 1000) 255 ∧
    (s.showTherm x).fld R.thermHbm = min (thermStk x / 1000) 255 := by
  have hle : ∀ v, min v 255 < 2 ^ 8 := fun v => lt_of_le_of_lt (Nat.min_le_right v _) (by decide)
  rw [State.showTherm]
  constructor
  · rw [State.fld_setFld_apart _ _ _ _ (by decide) (by decide), State.fld_setFld_apart _ _ _ _ (by decide) (by decide),
      State.fld_setFld_same _ _ _ (by decide) (hle _)]
  · exact State.fld_setFld_same _ _ _ (by decide) (hle _)

theorem State.fld_showTherm_apart (s : State) (x : ThermIn) (f : Fld) (h : f.key ≠ 0x10000C) : (s.showTherm x).fld f = s.fld f := by
  rw [State.showTherm, State.fld_setFld_apart _ _ _ _ (by decide) (.inl h), State.fld_setFld_apart _ _ _ _ (by decide) (.inl h),
    State.fld_setFld_apart _ _ _ _ (by decide) (.inl h)]

/-- What the throttle and the margins keep of a sample at `now`. -/
def State.keepTherm (s : State) (x : ThermIn) (now : Nat) : State :=
  { s with power := { s.power with hot := s.hotSince (thermHotOf x).2.2 now, tj := (s.power.tj.set 0 (thermDie x 0)).set 1 (thermDie x 1) },
           health.tjMax := max s.health.tjMax (min ((thermHotOf x).2.2 / 1000) 255) }

/-- A sample that trips nothing shows the readings and sets the floor. -/
theorem exec_thermalSample_floor {s : State} {x : ThermIn} {t : Nat} (h : ¬(115000 ≤ (thermHotOf x).2.2 ∨ 110000 ≤ thermStk x)) :
    ∃ c, exec (.thermalSample x t) s = .next (((({ s.advance t with hbmCtl := c } : State).showTherm x).keepTherm x (max s.time.now t)).setFld R.pwrFloor
      (thermFloor (longAt (max s.time.now t) (s.hotSince (thermHotOf x).2.2 (max s.time.now t))) (thermHotOf x).2.2 (thermStk x))) := by
  obtain ⟨c, hc⟩ := State.foldl_temp x.stk (s.advance t)
  refine ⟨c, ?_⟩
  change execThermalSample x t s = _
  unfold execThermalSample
  refine (if_neg h).trans ?_
  rw [hc]
  rfl

theorem State.keepTherm_frame (s : State) (x : ThermIn) (now : Nat) :
    s.keepTherm x now = { s with power := (s.keepTherm x now).power, health := (s.keepTherm x now).health } := rfl

theorem State.showTherm_frame (s : State) (x : ThermIn) : s.showTherm x = { s with csr := (s.showTherm x).csr } := rfl

theorem State.fld_keepTherm (s : State) (x : ThermIn) (now : Nat) (f : Fld) : (s.keepTherm x now).fld f = s.fld f := rfl

/-- What a sample that trips nothing shows, and what it leaves. -/
theorem thermalSample_floor {s : State} {x : ThermIn} {t : Nat} (h : ¬(115000 ≤ (thermHotOf x).2.2 ∨ 110000 ≤ thermStk x)) :
    Runs (.thermalSample x t) s fun r => r = { s.advance t with hbmCtl := r.hbmCtl, csr := r.csr, power := r.power, health := r.health } ∧
      r.fld R.thermTj = min ((thermHotOf x).2.2 / 1000) 255 ∧ r.fld R.thermHbm = min (thermStk x / 1000) 255 ∧ r.fld R.pwrLevel = s.fld R.pwrLevel ∧
      r.fld R.pwrFloor = thermFloor (longAt (max s.time.now t) (s.hotSince (thermHotOf x).2.2 (max s.time.now t))) (thermHotOf x).2.2 (thermStk x) := by
  obtain ⟨c, hrun⟩ := exec_thermalSample_floor (s := s) (t := t) h
  obtain ⟨htj, hhbm⟩ := ({ s.advance t with hbmCtl := c } : State).fld_showTherm x
  have hlt : ∀ b m g, thermFloor b m g < 2 ^ 3 := fun b m g => Nat.lt_of_le_of_lt (thermFloor_le b m g) (by decide)
  refine ⟨_, hrun, ?frame, ?tj, ?hbm, ?level, ?floor⟩
  case frame => rw [State.setFld_frame, State.keepTherm_frame, State.showTherm_frame]
  case tj => rw [State.fld_setFld_apart _ _ _ _ (by decide) (by decide), State.fld_keepTherm, htj]
  case hbm => rw [State.fld_setFld_apart _ _ _ _ (by decide) (by decide), State.fld_keepTherm, hhbm]
  case level =>
    rw [State.fld_setFld_apart _ _ _ _ (by decide) (by decide), State.fld_keepTherm, State.fld_showTherm_apart _ _ _ (by decide)]
    rfl
  case floor => exact State.fld_setFld_same _ _ _ (by decide) (hlt _ _ _)

end Sys2Proof.Machine
end

section
/-! # A reset of port H (R606, R632, R653, Table 24.6) -/

namespace Sys2Proof.Machine

/-! ## Sparse maps without some of their entries -/

section
theorem SMap.get_of_lt {α : Type} (d : Nat → α) {m : SMap α} {b : Nat} (h : ∀ q ∈ m, b < q.1) : SMap.get d m b = d b := by
  cases m with
  | nil => rfl
  | cons q t =>
    have hq := h q List.mem_cons_self
    rw [SMap.get, if_neg (Nat.ne_of_gt hq), if_pos hq]

variable {α : Type} [DecidableEq α]

/-- A key that is kept reads as before when others are taken out. -/
theorem SMap.get_filter (d : Nat → α) {m : SMap α} (p : Nat × α → Bool) {b : Nat} (h : SMap.wf d m = true) (hp : ∀ x, p (b, x) = true) :
    SMap.get d (m.filter p) b = SMap.get d m b := by
  induction m with
  | nil => rfl
  | cons q t ih =>
    obtain ⟨k, v⟩ := q
    obtain ⟨hk, -, ht⟩ := (SMap.wf_cons d k v t).mp h
    by_cases hpk : p (k, v) = true
    · simp only [List.filter_cons_of_pos hpk, SMap.get, ih ht]
    · have hkb : k ≠ b := fun e => hpk (e ▸ hp v)
      rw [List.filter_cons_of_neg hpk, ih ht, SMap.get, if_neg hkb]
      split
      · next hb => exact SMap.get_of_lt d fun q hq => Nat.lt_trans hb (hk q hq)
      · rfl

theorem SMap.wf_filter (d : Nat → α) {m : SMap α} (p : Nat × α → Bool) (h : SMap.wf d m = true) : SMap.wf d (m.filter p) = true := by
  induction m with
  | nil => rfl
  | cons q t ih =>
    obtain ⟨k, v⟩ := q
    obtain ⟨hk, hv, ht⟩ := (SMap.wf_cons d k v t).mp h
    by_cases hpk : p (k, v) = true
    · rw [List.filter_cons_of_pos hpk, SMap.wf_cons]
      exact ⟨fun q hq => hk q (List.mem_of_mem_filter hq), hv, ih ht⟩
    · rw [List.filter_cons_of_neg hpk]
      exact ih ht
end

/-! ## The LHQI block of a function (Table 24.6) -/

theorem State.csr_foldl_setWord (s : State) (a n key : Nat) :
    ((List.range n).foldl (fun s i => s.setWord (a + 4 * i) (resetVal (a + 4 * i))) s).csr.get key =
      if ∃ i < n, key = a + 4 * i then resetVal key else s.csr.get key := by
  induction n with
  | zero => simp
  | succ n ih =>
    rw [List.range_succ, List.foldl_append, List.foldl_cons, List.foldl_nil]
    by_cases hk : key = a + 4 * n
    · subst hk
      rw [if_pos ⟨n, Nat.lt_succ_self n, rfl⟩]
      exact Csr.get_set_same _ _ _
    · have hiff : (∃ i < n + 1, key = a + 4 * i) ↔ ∃ i < n, key = a + 4 * i :=
        ⟨fun ⟨i, hi, e⟩ => ⟨i, by rcases Nat.lt_succ_iff_lt_or_eq.mp hi with h | rfl; exact h; exact absurd e hk, e⟩,
          fun ⟨i, hi, e⟩ => ⟨i, Nat.lt_succ_of_lt hi, e⟩⟩
      rw [if_congr hiff rfl rfl, ← ih]
      exact Csr.get_set_other _ _ _ _ hk

theorem State.wf_setFld {s : State} (h : SMap.wf resetVal s.csr = true) (f : Fld) (v : Nat) : SMap.wf resetVal (s.setFld f v).csr = true :=
  Csr.wf_set s.csr _ _ h

theorem State.wf_foldl_setWord {s : State} (h : SMap.wf resetVal s.csr = true) (a : Nat) (l : List Nat) :
    SMap.wf resetVal (l.foldl (fun s i => s.setWord (a + 4 * i) (resetVal (a + 4 * i))) s).csr = true :=
  List.foldlRecOn l _ (motive := fun t : State => SMap.wf resetVal t.csr = true) h fun t ht _ _ => Csr.wf_set t.csr _ _ ht

/-- The MSI-X words of function `n`. -/
def msixWord (n key : Nat) : Prop := if n = 0 then 0x1080000 ≤ key ∧ key < 0x10A0000 else R.lhqiKey n + 0x8000 ≤ key ∧ key < R.lhqiKey n + 0x10000

/-- Resetting the MSI-X words of a function leaves every other word. -/
theorem State.csr_msixReset {s : State} (h : SMap.wf resetVal s.csr = true) {n key : Nat} (hk : ¬msixWord n key) :
    (s.msixReset n).csr.get key = s.csr.get key := by
  refine SMap.get_filter resetVal _ h fun x => ?_
  unfold msixWord at hk
  split at hk <;> simp [*] <;> omega

theorem State.foldl_setWord_frame (s : State) (l : List Nat) (k : Nat → Nat) (v : Nat → Word) :
    (l.foldl (fun s i => s.setWord (k i) (v i)) s).lft = s.lft ∧ (l.foldl (fun s i => s.setWord (k i) (v i)) s).inst = s.inst ∧
      (l.foldl (fun s i => s.setWord (k i) (v i)) s).pins = s.pins :=
  List.foldlRecOn l _ (motive := fun t : State => t.lft = s.lft ∧ t.inst = s.inst ∧ t.pins = s.pins) ⟨rfl, rfl, rfl⟩ fun _ ht _ _ => ht

theorem State.msixReset_frame (s : State) (n : Nat) : (s.msixReset n).lft = s.lft ∧ (s.msixReset n).inst = s.inst ∧ (s.msixReset n).pins = s.pins :=
  ⟨rfl, rfl, rfl⟩

theorem State.lhqiReset_eq (s : State) (n : Nat) : s.lhqiReset n = ((List.range 15).foldl (fun s i => s.setWord (R.lhqiKey n + 4 * i)
  (resetVal (R.lhqiKey n + 4 * i))) (s.msixReset n)).setFld (R.lhqiGen n) ((s.msixReset n).fld (R.lhqiGen n)) := rfl

theorem State.lhqiReset_frame (s : State) (n : Nat) :
    (s.lhqiReset n).lft = s.lft ∧ (s.lhqiReset n).inst = s.inst ∧ (s.lhqiReset n).pins = s.pins := by
  obtain ⟨hl, hi, hp⟩ := (s.msixReset n).foldl_setWord_frame (List.range 15) (fun i => R.lhqiKey n + 4 * i) fun i => resetVal (R.lhqiKey n + 4 * i)
  obtain ⟨hl', hi', hp'⟩ := s.msixReset_frame n
  rw [State.lhqiReset_eq, State.setFld_lft, State.setFld_inst, State.setFld_pins]
  exact ⟨hl.trans hl', hi.trans hi', hp.trans hp'⟩

theorem State.wf_lhqiReset {s : State} (h : SMap.wf resetVal s.csr = true) (n : Nat) : SMap.wf resetVal (s.lhqiReset n).csr = true := by
  rw [State.lhqiReset_eq]
  exact State.wf_setFld (State.wf_foldl_setWord (s := s.msixReset n) (SMap.wf_filter resetVal _ h) _ _) _ _

/-- A field outside the LHQI block and the MSI-X words of a function stays as it is. -/
theorem State.fld_lhqiReset_other {s : State} (h : SMap.wf resetVal s.csr = true) {n : Nat} {f : Fld} (hm : ¬msixWord n f.key)
    (hk : f.key < R.lhqiKey n ∨ R.lhqiKey n + 0x3C ≤ f.key) : (s.lhqiReset n).fld f = s.fld f := by
  have hne : f.key ≠ (R.lhqiGen n).key := by change f.key ≠ R.lhqiKey n + 0x0C; omega
  have hno : ¬∃ i < 15, f.key = R.lhqiKey n + 4 * i := by rintro ⟨i, hi, e⟩; omega
  rw [State.lhqiReset_eq, State.fld_setFld_apart _ _ _ _ (by simp [R.lhqiGen]) (.inl hne), State.fld, Csr.fld, State.csr_foldl_setWord, if_neg hno,
    State.csr_msixReset h hm]
  rfl

/-- READY and GEN stand in a word that resets to zero. -/
theorem resetVal_lhqiReady : ∀ n, n < 64 → resetVal (R.lhqiKey n + 0x0C) = 0 := by decide

theorem not_msixWord_ready (n k : Nat) : ¬msixWord n (R.lhqiKey k + 0x0C) := by
  unfold msixWord R.lhqiKey
  split <;> omega

/-- The reset of a function's LHQI block clears READY. -/
theorem State.fld_lhqiReset_ready (s : State) {n : Nat} (hn : n < 64) : (s.lhqiReset n).fld (R.lhqiReady n) = 0 := by
  have hin : ∃ i < 15, R.lhqiKey n + 0x0C = R.lhqiKey n + 4 * i := ⟨3, by decide, rfl⟩
  have hap : (R.lhqiReady n).lo + (R.lhqiReady n).w ≤ (R.lhqiGen n).lo := by simp [R.lhqiGen, R.lhqiReady]
  rw [State.lhqiReset_eq, State.fld_setFld_apart _ _ _ _ (by simp [R.lhqiGen]) (.inr (.inl hap)), State.fld, Csr.fld,
    show (R.lhqiReady n).key = R.lhqiKey n + 0x0C from rfl, State.csr_foldl_setWord, if_pos hin, resetVal_lhqiReady n hn]
  simp [bits]

/-- The reset of a function's LHQI block keeps GEN. -/
theorem State.fld_lhqiReset_gen {s : State} (h : SMap.wf resetVal s.csr = true) (n : Nat) : (s.lhqiReset n).fld (R.lhqiGen n) = s.fld (R.lhqiGen n) := by
  have hgen : (s.msixReset n).fld (R.lhqiGen n) = s.fld (R.lhqiGen n) := by
    rw [State.fld, Csr.fld, show (R.lhqiGen n).key = R.lhqiKey n + 0x0C from rfl, State.csr_msixReset h (not_msixWord_ready n n)]
    rfl
  rw [State.lhqiReset_eq, State.fld_setFld_same _ _ _ (by simp [R.lhqiGen]) (State.fld_lt _ _), hgen]

/-! ## A transport without queue pairs -/

theorem State.lftPasses_of_no_qps {s : State} (h : s.lft.qps = []) (ev : Option Nat) (k : Nat) : s.lftPasses ev k = s := by
  induction k with
  | zero => rfl
  | succ k ih => rw [State.lftPasses, h, List.foldl_nil, ih]

theorem State.lftSettle_of_no_qps {s : State} (h : s.lft.qps = []) (ev : Option Nat) : s.lftSettle ev = s :=
  State.lftPasses_of_no_qps h ev _

/-! ## What a reset of port H leaves (Table 24.6) -/

/-- Fields that no step of a reset of port H changes until HOSTWIN_CFG takes effect. -/
def portHKept : List Fld := [R.twinState, R.hbmWorkMib, R.hostwinCfgBase, R.hostwinCfgLen, R.hostwinErr, R.lhqiGen 0]

/-- What a step of a reset of port H keeps, in a state without queue pairs whose register file is in canonical form. -/
structure State.PortHStep (s t : State) : Prop where
  qps : t.lft.qps = []
  wf : SMap.wf resetVal t.csr = true
  pins : t.pins = s.pins
  numVfs : t.inst.numVfs = s.inst.numVfs
  fld : ∀ f ∈ portHKept, t.fld f = s.fld f
  ready : ∀ k, k < 64 → s.fld (R.lhqiReady k) = 0 → t.fld (R.lhqiReady k) = 0

theorem portHKept_key : ∀ f ∈ portHKept, f = R.lhqiGen 0 ∨ f.key < 0x1080000 := by decide

/-- The READY word of one function is no word of another's LHQI block. -/
theorem lhqiKey_apart {k n : Nat} (h : k ≠ n) : R.lhqiKey k + 0x0C < R.lhqiKey n ∨ R.lhqiKey n + 0x3C ≤ R.lhqiKey k + 0x0C := by
  unfold R.lhqiKey
  omega

/-- A state without queue pairs whose register file is in canonical form. -/
def State.Plain (s : State) : Prop := s.lft.qps = [] ∧ SMap.wf resetVal s.csr = true

/-- From a plain state `s`, the state `t` keeps what a step of a reset of port H keeps. -/
def PortHKeeps (s t : State) : Prop := s.Plain → s.PortHStep t

theorem State.PortHStep.plain {s t : State} (h : s.PortHStep t) : t.Plain := ⟨h.qps, h.wf⟩

theorem State.PortHStep.trans {s t r : State} (h : s.PortHStep t) (k : t.PortHStep r) : s.PortHStep r :=
  ⟨k.qps, k.wf, k.pins.trans h.pins, k.numVfs.trans h.numVfs, fun f hf => (k.fld f hf).trans (h.fld f hf),
    fun i hi h0 => k.ready i hi (h.ready i hi h0)⟩

namespace PortHKeeps

/-- A step that changes neither registers, queue pairs, pins nor the number of functions. -/
theorem of_eq {s t : State} (hc : t.csr = s.csr) (hq : t.lft.qps = s.lft.qps) (hp : t.pins = s.pins) (hn : t.inst.numVfs = s.inst.numVfs) :
    PortHKeeps s t := by
  rintro ⟨hqps, hwf⟩
  have hfld : ∀ f, t.fld f = s.fld f := fun f => by rw [State.fld, hc]; rfl
  exact ⟨hq.trans hqps, hc ▸ hwf, hp, hn, fun f _ => hfld f, fun k _ h => (hfld _).trans h⟩

theorem setCreating (s : State) (x : List (Option Work × Nat × Nat × Nat × QpAttr)) : PortHKeeps s { s with lft.creating := x } :=
  of_eq rfl rfl rfl rfl

theorem setRegion (s : State) (i : Nat) (r : Option Region) : PortHKeeps s (s.setRegion i r) := of_eq rfl rfl rfl rfl

theorem setPoolsKeks (s : State) (x : SMap Pools) (y : SMap (Option (BitVec 256))) : PortHKeeps s { s with dec.pools := x, inst.keks := y } :=
  of_eq rfl rfl rfl rfl

theorem refl (s : State) : PortHKeeps s s := of_eq rfl rfl rfl rfl

theorem trans {s t r : State} (h : PortHKeeps s t) (k : PortHKeeps t r) : PortHKeeps s r := fun hs => (h hs).trans (k (h hs).plain)

theorem foldl {α : Type} {f : State → α → State} {l : List α} (h : ∀ s, ∀ x ∈ l, PortHKeeps s (f s x)) (s : State) : PortHKeeps s (l.foldl f s) :=
  List.foldlRecOn l f (motive := PortHKeeps s) (refl s) fun t ht x hx => ht.trans (h t x hx)

/-- A field clear of those kept and of every READY bit. -/
def Clear (f : Fld) : Prop := f.lo + f.w ≤ 32 ∧ (∀ g ∈ portHKept, g.key ≠ f.key ∨ g.lo + g.w ≤ f.lo ∨ f.lo + f.w ≤ g.lo) ∧
  ∀ k, k < 64 → R.lhqiKey k + 0x0C ≠ f.key ∨ 1 ≤ f.lo

theorem setFld (s : State) {f : Fld} (v : Nat) (h : Clear f) : PortHKeeps s (s.setFld f v) := by
  rintro ⟨hq, hwf⟩
  obtain ⟨hf, hkept, hready⟩ := h
  exact ⟨hq, State.wf_setFld hwf f v, rfl, rfl, fun g hg => s.fld_setFld_apart f g v hf (hkept g hg), fun k hk h0 =>
    (s.fld_setFld_apart f (R.lhqiReady k) v hf ((hready k hk).imp_right .inl)).trans h0⟩

theorem incFld (s : State) {f : Fld} (n : Nat) (h : Clear f) : PortHKeeps s (s.incFld f n) :=
  (setFld s (min (s.csr.fld f + n) (2 ^ f.w - 1)) h).trans (of_eq rfl rfl rfl rfl)

/-- Clearing the READY bit of a function. -/
theorem clearReady (s : State) (n : Nat) : PortHKeeps s (s.setFld (R.lhqiReady n) 0) := by
  rintro ⟨hq, hwf⟩
  have hlo : (R.lhqiReady n).lo + (R.lhqiReady n).w ≤ 32 := by simp [R.lhqiReady]
  refine ⟨hq, State.wf_setFld hwf _ _, rfl, rfl, fun g hg => s.fld_setFld_apart _ g 0 hlo ?_, fun k _ h0 => ?_⟩
  · revert g
    simp [portHKept, R.twinState, R.hbmWorkMib, R.hostwinCfgBase, R.hostwinCfgLen, R.hostwinErr, R.lhqiGen, R.lhqiReady, R.lhqiKey]
    omega
  · by_cases hk : k = n
    · subst hk
      exact s.fld_setFld_same _ 0 hlo (by simp)
    · exact (s.fld_setFld_apart _ _ 0 hlo (.inl (by simp [R.lhqiReady, R.lhqiKey, hk]))).trans h0

/-- A field whose word holds none of the fields kept. -/
theorem clear_of_key {f : Fld} (hf : f.lo + f.w ≤ 32) (hk : f.key ≠ 0x700008 ∧ f.key ≠ 0x800000 ∧ f.key ≠ 0xF00000 ∧ f.key ≠ 0xF00004)
    (hl : ∀ k, R.lhqiKey k + 0x0C ≠ f.key) : Clear f := by
  obtain ⟨h1, h2, h3, h4⟩ := hk
  have h0 : (R.lhqiGen 0).key ≠ f.key := hl 0
  refine ⟨hf, ?_, fun k _ => .inl (hl k)⟩
  simp [portHKept, R.twinState, R.hbmWorkMib, R.hostwinCfgBase, R.hostwinCfgLen, R.hostwinErr, h0, h1.symm, h2.symm, h3.symm, h4.symm]

theorem clear_instPending (n : Nat) : Clear (R.instPending n) :=
  clear_of_key (by simp [R.instPending]) (by simp only [R.instPending, R.instKey]; omega)
    (fun k => by simp only [R.instPending, R.instKey, R.lhqiKey]; omega)

theorem clear_instRemoving (n : Nat) : Clear (R.instRemoving n) :=
  clear_of_key (by simp [R.instRemoving]) (by simp only [R.instRemoving, R.instKey]; omega)
    (fun k => by simp only [R.instRemoving, R.instKey, R.lhqiKey]; omega)

theorem clear_rindBlocked : Clear R.rindBlocked :=
  clear_of_key (by decide) (by decide) (fun k => by simp only [R.rindBlocked, R.lhqiKey]; omega)

theorem clear_msixPend {n v : Nat} (hv : v < msixVecs n) : Clear (R.msixPend n v) := by
  have hlo : v % 32 < 32 := Nat.mod_lt _ (by decide)
  unfold msixVecs at hv
  refine clear_of_key hlo ?_ fun k => ?_ <;> simp only [R.msixPend, R.lhqiKey] <;> split at hv <;> simp only [*, if_true, if_false] <;> omega

theorem clear_twinLag : Clear R.twinLag := by
  refine ⟨by decide, by decide, fun k _ => .inr (by decide)⟩

theorem clear_lhqiQuiesced (n : Nat) : Clear (R.lhqiQuiesced n) := by
  refine ⟨by simp [R.lhqiQuiesced], ?_, fun k _ => .inr (by simp [R.lhqiQuiesced])⟩
  simp [portHKept, R.twinState, R.hbmWorkMib, R.hostwinCfgBase, R.hostwinCfgLen, R.hostwinErr, R.lhqiGen, R.lhqiQuiesced, R.lhqiKey]
  omega

/-! Steps of a quiesce (R525). -/

theorem setRing (s : State) (n r : Nat) (x : Ring) : PortHKeeps s (s.setRing n r x) := of_eq rfl rfl rfl rfl

theorem mirror (s : State) (m : MirItem) : PortHKeeps s (s.mirror m) := by
  unfold State.mirror
  split
  · extract_lets q _ s1 s2
    have h2 : PortHKeeps s s2 := (of_eq rfl rfl rfl rfl : PortHKeeps s s1).trans (setFld s1 _ clear_twinLag)
    split
    · exact h2.trans (of_eq rfl rfl rfl rfl)
    · exact h2.trans (of_eq rfl rfl rfl rfl)
  · exact refl s

theorem rindBlock (s : State) (p st : Nat) : PortHKeeps s (s.rindBlock p st) :=
  (incFld s 1 clear_rindBlocked).trans (of_eq rfl rfl rfl rfl)

theorem signal (s : State) (n vec : Nat) : PortHKeeps s (s.signal n vec) := by
  unfold State.signal
  split_ifs with hn hv
  · exact of_eq rfl rfl rfl rfl
  · exact refl s
  · exact setFld s 1 (clear_msixPend (by omega))
  · unfold State.msixSend
    extract_lets a s1
    have h1 : PortHKeeps s s1 := setFld s 0 (clear_msixPend (by omega))
    split
    · exact h1.trans (of_eq rfl rfl rfl rfl)
    · exact h1.trans (rindBlock s1 _ _)

theorem workEnd (s : State) (w : Work) : PortHKeeps s (s.workEnd w) := by
  unfold State.workEnd
  extract_lets s1 _ s2
  have h1 : PortHKeeps s s1 := setRing _ _ _ _
  split
  · have h2 : PortHKeeps s s2 := h1.trans (of_eq rfl rfl rfl rfl)
    split
    · exact h2
    · exact h2.trans (setFld s2 0 (clear_instPending _))
  · exact h1

theorem ringDrop (s : State) (w : Work) : PortHKeeps s (s.ringDrop w) := by
  unfold State.ringDrop
  split
  · exact workEnd s w
  · exact refl s

theorem dropBufs (s : State) (n r : Nat) : PortHKeeps s (s.dropBufs n r) := by
  unfold State.dropBufs
  extract_lets of mine _ s1 _ _ s2
  have h1 : PortHKeeps s s1 := by
    simp only [s1]
    split
    · exact of_eq rfl rfl rfl rfl
    · exact refl s
  have h2 : PortHKeeps s s2 := h1.trans (of_eq rfl rfl rfl rfl)
  exact h2.trans (foldl (fun s b _ => workEnd s b.work) s2)

theorem ringDrain (s : State) (n r : Nat) : PortHKeeps s (s.ringDrain n r) := (dropBufs s n r).trans (setRing _ _ _ _)

theorem quiesceNow (s : State) (n : Nat) : PortHKeeps (s.setFld (R.lhqiReady n) 0) (s.quiesceNow n) := by
  unfold State.quiesceNow
  extract_lets s1 s2 waiting _ s3 s4 qps s5 regs s6 p _ _ s7 s8
  have hrings : PortHKeeps s1 s2 := foldl (fun s r _ => ringDrain s n r) s1
  have hcreate : PortHKeeps s3 s4 := by
    refine foldl (fun s c _ => ?_) s3
    split
    · exact ringDrop s _
    · exact refl s
  have hqps : PortHKeeps s4 s5 := fun h4 => by
    have hnil : qps = [] := by simp only [qps, h4.1, List.filterMap_nil]
    have heq : s5 = s4 := by simp only [s5, hnil, List.foldl_nil]
    rw [heq]
    exact refl s4 h4
  have hregs : PortHKeeps s5 s6 := foldl (f := fun s i => s.setRegion i none) (fun s i _ => setRegion s i none) s5
  have hsignal : PortHKeeps s7 s8 := (setFld s7 1 (clear_lhqiQuiesced n)).trans (signal _ _ _)
  have hsettle : PortHKeeps s8 (s8.lftSettle none) := fun h8 => (State.lftSettle_of_no_qps h8.1 none).symm ▸ refl s8 h8
  have hmirror : PortHKeeps (s8.lftSettle none) _ := foldl (l := List.range 64)
    (f := fun s r => if (s.ring n r).st = .none then s else s.mirRing n r) (fun s r _ => by
      split
      · exact refl s
      · exact mirror s _) _
  have h3 : PortHKeeps s2 s3 := setCreating s2 _
  have h7 : PortHKeeps s6 s7 := setPoolsKeks s6 _ _
  exact hrings.trans (h3.trans (hcreate.trans (hqps.trans (hregs.trans (h7.trans (hsignal.trans (hsettle.trans hmirror)))))))

theorem quiesceFirst (s : State) (n : Nat) : PortHKeeps (s.setFld (R.lhqiReady n) 0) (s.quiesceFirst n) :=
  foldl (fun s r _ => dropBufs s n r) _

theorem quiesceLater (s : State) (n : Nat) : PortHKeeps s (s.quiesceLater n) := of_eq rfl rfl rfl rfl

theorem quiesce (s : State) (n : Nat) : PortHKeeps s (s.quiesce n) := by
  unfold State.quiesce
  split_ifs
  · exact refl s
  · exact quiesceLater s n
  · exact (clearReady s n).trans ((quiesceFirst s n).trans (quiesceLater _ n))
  · exact (clearReady s n).trans (quiesceNow s n)

theorem lhqiReset (s : State) (n : Nat) : PortHKeeps s (s.lhqiReset n) := by
  rintro ⟨hq, hwf⟩
  obtain ⟨hl, hi, hp⟩ := s.lhqiReset_frame n
  refine ⟨by rw [hl, hq], State.wf_lhqiReset hwf n, hp, by rw [hi], fun f hf => ?fld, fun k hk h0 => ?ready⟩
  case fld =>
    rcases portHKept_key f hf with rfl | hlow
    · by_cases hn0 : n = 0
      · subst hn0
        exact State.fld_lhqiReset_gen hwf 0
      · exact State.fld_lhqiReset_other hwf (not_msixWord_ready n 0) (lhqiKey_apart (Ne.symm hn0))
    · refine State.fld_lhqiReset_other hwf ?_ (.inl (by unfold R.lhqiKey; omega))
      unfold msixWord R.lhqiKey
      split <;> omega
  case ready =>
    by_cases hkn : k = n
    · subst hkn
      exact State.fld_lhqiReset_ready s hk
    · exact (State.fld_lhqiReset_other (f := R.lhqiReady k) hwf (not_msixWord_ready n k) (lhqiKey_apart hkn)).trans h0

theorem removeInst (s : State) (n : Nat) : PortHKeeps s (s.removeInst n) := by
  unfold State.removeInst
  split
  · exact refl s
  · exact (quiesce s n).trans ((lhqiReset _ n).trans (setFld _ 1 (clear_instRemoving n)))

end PortHKeeps

/-- A quiesce ends READY, unless it waits for an arbitration. -/
theorem State.quiesce_ready {s : State} (h : s.Plain) (h2 : s.fld R.twinState ≠ 2) {n : Nat} (hn : n < 64) : (s.quiesce n).fld (R.lhqiReady n) = 0 := by
  have hclear : (s.setFld (R.lhqiReady n) 0).fld (R.lhqiReady n) = 0 := s.fld_setFld_same _ 0 (by simp [R.lhqiReady]) (by simp)
  have hplain := (PortHKeeps.clearReady s n h).plain
  unfold State.quiesce
  split_ifs with hr
  · rw [Bool.not_eq_true', State.flag_eq_false_iff s rfl] at hr
    exact hr
  · exact ((PortHKeeps.quiesceFirst s n).trans (PortHKeeps.quiesceLater _ n) hplain).ready n hn hclear
  · exact (PortHKeeps.quiesceNow s n hplain).ready n hn hclear

/-- After its quiesces no function is READY. -/
theorem State.foldl_quiesce_ready {l : List Nat} (hl : ∀ n ∈ l, n < 64) {s : State} (h : s.Plain) (h2 : s.fld R.twinState ≠ 2) :
    ∀ n ∈ l, (l.foldl State.quiesce s).fld (R.lhqiReady n) = 0 := by
  induction l generalizing s with
  | nil => simp
  | cons a l ih =>
    have hstep := PortHKeeps.quiesce s a h
    have hrest := PortHKeeps.foldl (f := State.quiesce) (l := l) (fun s n _ => PortHKeeps.quiesce s n) (s.quiesce a) hstep.plain
    intro n hn
    rcases List.mem_cons.mp hn with rfl | hn
    · exact hrest.ready _ (hl _ List.mem_cons_self) (State.quiesce_ready h h2 (hl _ List.mem_cons_self))
    · exact ih (fun n hn => hl n (List.mem_cons_of_mem a hn)) hstep.plain (by rwa [hstep.fld R.twinState (by decide)]) n hn

/-- With NumVFs at zero every virtual function is removed. -/
theorem State.setVfs_zero (s : State) : s.setVfs 0 = (List.range 63).foldl (fun s k => s.removeInst (k + 1)) { s with inst.numVfs := 0 } := by
  unfold State.setVfs
  simp only [Nat.le_zero, Nat.add_one_ne_zero, if_false]

/-- FLR of the physical function and the resets of the virtual functions' LHQI blocks, as a reset of port H has them. -/
def State.portHBlocks (s : State) : State :=
  (List.range 63).foldl (fun s k => if s.instOn (k + 1) ∨ s.flag (R.instRemoving (k + 1)) then s.lhqiReset (k + 1) else s) s.flr0

/-- The number of virtual functions becomes zero. -/
def State.noVfs (s : State) : State := { s with inst.numVfs := 0 }

theorem State.portHBlocks_eq (s : State) : s.portHBlocks =
    (List.range 63).foldl (fun s k => if s.instOn (k + 1) ∨ s.flag (R.instRemoving (k + 1)) then s.lhqiReset (k + 1) else s)
      ((List.range 63).foldl (fun s k => s.removeInst (k + 1)) (((List.range 64).foldl State.quiesce s).lhqiReset 0).noVfs) := by
  rw [State.portHBlocks, State.flr0, State.setVfs_zero]
  rfl

/-- All that follows the reset of the physical function. -/
theorem PortHKeeps.portHBlocks (s : State) : PortHKeeps (((List.range 64).foldl State.quiesce s).lhqiReset 0).noVfs s.portHBlocks := by
  rw [State.portHBlocks_eq]
  refine (foldl (fun s k _ => removeInst s (k + 1)) _).trans (foldl (fun s k _ => ?_) _)
  split
  · exact lhqiReset s _
  · exact refl s

theorem State.fld_noVfs (s : State) (f : Fld) : s.noVfs.fld f = s.fld f := rfl

/-- What the blocks of a step are without virtual functions. -/
theorem State.PortHStep.noVfs {s t : State} (h : s.PortHStep t) : s.noVfs.PortHStep t.noVfs :=
  ⟨h.qps, h.wf, h.pins, rfl, h.fld, h.ready⟩

theorem State.portHBlocks_spec {s : State} (h : s.Plain) (h2 : s.fld R.twinState ≠ 2) : s.noVfs.PortHStep s.portHBlocks ∧
    ∀ k, k < 64 → s.portHBlocks.fld (R.lhqiReady k) = 0 := by
  have hrest := PortHKeeps.portHBlocks s
  have hready := State.foldl_quiesce_ready (fun n hn => List.mem_range.mp hn) h h2
  have hq := PortHKeeps.foldl (f := State.quiesce) (l := List.range 64) (fun s n _ => PortHKeeps.quiesce s n) s h
  generalize (List.range 64).foldl State.quiesce s = q at *
  have hreset := PortHKeeps.lhqiReset q 0 hq.plain
  have hz : s.noVfs.PortHStep (q.lhqiReset 0).noVfs := (hq.trans hreset).noVfs
  have hend := hrest hz.plain
  refine ⟨hz.trans hend, fun k hk => hend.ready k hk ?_⟩
  rw [State.fld_noVfs]
  exact hreset.ready k hk (hready k (List.mem_range.mpr hk))

/-! ## HOSTWIN_CFG takes effect (R653) -/

/-- Loading the window changes no word but HOSTWIN_STAT. -/
theorem State.hostWinLoad_frame (s : State) : s.hostWinLoad.pins = s.pins ∧ s.hostWinLoad.inst = s.inst ∧ s.hostWinLoad.cxl = s.cxl ∧
    ∀ f : Fld, f.key ≠ 0xF00004 → s.hostWinLoad.fld f = s.fld f := by
  have hfld : ∀ (u : State) (g f : Fld) (v : Nat), g.lo + g.w ≤ 32 → g.key = 0xF00004 → f.key ≠ 0xF00004 → (u.setFld g v).fld f = u.fld f :=
    fun u g f v hg hk hf => u.fld_setFld_apart g f v hg (.inl (hk ▸ hf))
  unfold State.hostWinLoad
  dsimp only
  split
  · refine ⟨rfl, rfl, rfl, fun f hf => ?_⟩
    rw [hfld _ _ f _ (by decide) rfl hf, hfld _ _ f _ (by decide) rfl hf, hfld _ _ f _ (by decide) rfl hf]
  · refine ⟨rfl, rfl, rfl, fun f hf => ?_⟩
    rw [hfld _ _ f _ (by decide) rfl hf, hfld _ _ f _ (by decide) rfl hf]

/-- A window of more than 256 units is refused. -/
theorem State.hostWinLoad_refused {s : State} (h : 256 < s.fld R.hostwinCfgLen) : s.hostWinLoad.fld R.hostwinBase = 0 ∧
    s.hostWinLoad.fld R.hostwinLen = 0 ∧ s.hostWinLoad.fld R.hostwinErr = 1 := by
  have hload : s.hostWinLoad = ((s.setFld R.hostwinBase 0).setFld R.hostwinLen 0).setFld R.hostwinErr 1 := by
    unfold State.hostWinLoad
    exact if_pos (.inl h)
  rw [hload]
  refine ⟨?_, ?_, State.fld_setFld_same _ _ _ (by decide) (by decide)⟩
  · rw [State.fld_setFld_apart _ _ _ _ (by decide) (by decide), State.fld_setFld_apart _ _ _ _ (by decide) (by decide),
      State.fld_setFld_same _ _ _ (by decide) (by decide)]
  · rw [State.fld_setFld_apart _ _ _ _ (by decide) (by decide), State.fld_setFld_same _ _ _ (by decide) (by decide)]

/-- An empty window within the working space is taken. -/
theorem State.hostWinLoad_empty {s : State} (h : s.fld R.hostwinCfgLen = 0) (ht : s.fld R.hostwinCfgBase * 2 ^ 28 ≤ s.workTop) :
    s.hostWinLoad.fld R.hostwinBase = s.fld R.hostwinCfgBase ∧ s.hostWinLoad.fld R.hostwinLen = 0 ∧
      s.hostWinLoad.fld R.hostwinErr = s.fld R.hostwinErr := by
  have hno : ¬(256 < s.fld R.hostwinCfgLen ∨ s.workTop < s.fld R.hostwinCfgBase * 2 ^ 28 + s.fld R.hostwinCfgLen * 2 ^ 28 ∨
      (s.fld R.hostwinCfgLen ≠ 0 ∧ (s.inFwSpan (s.fld R.hostwinCfgBase * 2 ^ 28) (s.fld R.hostwinCfgLen * 2 ^ 28) ||
        s.inRegion (s.fld R.hostwinCfgBase * 2 ^ 28) (s.fld R.hostwinCfgLen * 2 ^ 28)) = true)) := by
    rw [h]
    omega
  have hload : s.hostWinLoad = (s.setFld R.hostwinBase (s.fld R.hostwinCfgBase)).setFld R.hostwinLen (s.fld R.hostwinCfgLen) := by
    unfold State.hostWinLoad
    exact if_neg hno
  rw [hload, h]
  refine ⟨?_, State.fld_setFld_same _ _ _ (by decide) (by decide), ?_⟩
  · rw [State.fld_setFld_apart _ _ _ _ (by decide) (by decide), State.fld_setFld_same _ R.hostwinBase _ (by decide) (s.fld_lt R.hostwinCfgBase)]
  · rw [State.fld_setFld_apart _ _ _ _ (by decide) (by decide), State.fld_setFld_apart _ _ _ _ (by decide) (by decide)]

/-! ## A reset of port H -/

/-- The writes that waited for the host change HBM alone. -/
theorem State.foldl_waitLand (l : List (Nat × Nat × List Byte × Bool)) (s : State) : ∃ m, l.foldl State.waitLand s = { s with hbm := m } := by
  induction l generalizing s with
  | nil => exact ⟨s.hbm, rfl⟩
  | cons w l ih =>
    have hw : ∃ m, s.waitLand w = { s with hbm := m } := by
      unfold State.waitLand
      split
      · exact ⟨s.hbm, rfl⟩
      · exact ⟨_, rfl⟩
    obtain ⟨m, hm⟩ := hw
    rw [List.foldl_cons, hm]
    exact ih { s with hbm := m }

theorem State.portHReset_eq (s : State) : ∃ m, s.portHReset =
    { ({ s.portHBlocks with hbm := m, cxl := CxlSt.reset } : State).hostWinLoad with pins.portH := false } := by
  obtain ⟨m, hm⟩ := State.foldl_waitLand s.portHBlocks.cxl.waits s.portHBlocks
  refine ⟨m, ?_⟩
  unfold State.portHReset
  dsimp only
  rw [show List.foldl _ s.flr0 (List.range 63) = s.portHBlocks from rfl, hm]

/-- The state after a reset of port H, by event. -/
def State.portHAfter (s : State) (e : PortHEvent) : State :=
  match e with
  | .perst => { s.portHReset with pins.perst := true }
  | .hotReset => s.portHReset
  | .linkDown => s.portHReset

/-- Each event of port H resets it. -/
theorem exec_portHReset (s : State) (e : PortHEvent) (t : Nat) : exec (.portHReset e t) s = .next ((s.advance t).portHAfter e) := by
  cases e <;> rfl

/-- The loss of REFCLK_H resets port H in common-clock mode only (R606). -/
theorem exec_refclkHLoss (s : State) (t : Nat) : exec (.refclkHLoss t) s =
    .next (if s.pins.sris = true ∨ s.pins.perst = true then s.advance t else (s.advance t).portHAfter .linkDown) := rfl

theorem State.workTop_congr {s u : State} (h : u.fld R.hbmWorkMib = s.fld R.hbmWorkMib) : u.workTop = s.workTop := by
  rw [State.workTop, State.workTop, State.workBytes, State.workBytes, h]

/-- A reset of port H that leaves PERST_N as `held` says: the port goes down, no function is READY and none but the physical one is left, GEN stays, the host
holds no line, and the window takes its configuration or is refused. -/
structure State.PortHDown (s : State) (held : Bool) (r : State) : Prop where
  pins : r.pins = { s.pins with portH := false, perst := held }
  cxl : r.cxl = CxlSt.reset
  ready : ∀ k, k < 64 → r.fld (R.lhqiReady k) = 0
  numVfs : r.inst.numVfs = 0
  gen : r.fld (R.lhqiGen 0) = s.fld (R.lhqiGen 0)
  refused : 256 < s.fld R.hostwinCfgLen → r.fld R.hostwinBase = 0 ∧ r.fld R.hostwinLen = 0 ∧ r.fld R.hostwinErr = 1
  empty : s.fld R.hostwinCfgLen = 0 → s.fld R.hostwinCfgBase * 2 ^ 28 ≤ s.workTop →
    r.fld R.hostwinBase = s.fld R.hostwinCfgBase ∧ r.fld R.hostwinLen = 0 ∧ r.fld R.hostwinErr = s.fld R.hostwinErr

theorem State.portHReset_down {s : State} (h : s.Plain) (h2 : s.fld R.twinState ≠ 2) : s.PortHDown s.pins.perst s.portHReset := by
  obtain ⟨hstep, hready⟩ := State.portHBlocks_spec h h2
  obtain ⟨m, hm⟩ := s.portHReset_eq
  generalize s.portHBlocks = b at *
  obtain ⟨u, hu⟩ : ∃ u : State, u = { b with hbm := m, cxl := CxlSt.reset } := ⟨_, rfl⟩
  have hufld : ∀ f, u.fld f = b.fld f := fun f => by rw [hu]; rfl
  have hkept : ∀ f ∈ portHKept, u.fld f = s.fld f := fun f hf => (hufld f).trans (hstep.fld f hf)
  obtain ⟨hpins, hinst, hcxl, hother⟩ := u.hostWinLoad_frame
  rw [hm, ← hu]
  constructor
  case pins =>
    have hupins : u.pins = s.pins := by rw [hu]; exact hstep.pins
    exact congrArg (fun x : PinSt => { x with portH := false }) (hpins.trans hupins)
  case cxl => exact hcxl.trans (by rw [hu])
  case ready => exact fun k hk => (hother (R.lhqiReady k) (by simp only [R.lhqiReady, R.lhqiKey]; omega)).trans ((hufld _).trans (hready k hk))
  case numVfs => exact (congrArg InstSt.numVfs hinst).trans (by rw [hu]; exact hstep.numVfs)
  case gen => exact (hother (R.lhqiGen 0) (by decide)).trans (hkept _ (by decide))
  case refused => exact fun hlen => State.hostWinLoad_refused (by rwa [hkept R.hostwinCfgLen (by decide)])
  case empty =>
    intro hlen htop
    have hbase := hkept R.hostwinCfgBase (by decide)
    have hload := State.hostWinLoad_empty (s := u) (by rwa [hkept R.hostwinCfgLen (by decide)])
      (by rwa [hbase, State.workTop_congr (hkept R.hbmWorkMib (by decide))])
    rwa [hbase, hkept R.hostwinErr (by decide)] at hload

/-- PERST_N, a hot reset and the loss of the link reset port H, PERST_N also holding it. -/
theorem State.portHAfter_down {s : State} (h : s.Plain) (h2 : s.fld R.twinState ≠ 2) (e : PortHEvent) :
    s.PortHDown (decide (e = .perst) || s.pins.perst) (s.portHAfter e) := by
  have hr := State.portHReset_down h h2
  cases e
  case perst =>
    exact ⟨congrArg (fun x : PinSt => { x with perst := true }) hr.pins, hr.cxl, hr.ready, hr.numVfs, hr.gen, hr.refused, hr.empty⟩
  case hotReset => exact hr
  case linkDown => exact hr

end Sys2Proof.Machine
end

section
/-! # Lost reference clocks, and the statement about power and the platform -/

namespace Sys2Proof.Machine

/-! ## The loss of REFCLK_SYS (R606, R491, R492) -/

/-- A request of the device's own functions ends with a result of theirs. -/
theorem State.reqEnd_own (s : State) {r : LftReq} (hw : r.work = none) (hr : 16 ≤ r.steward) (st : Nat) :
    s.reqEnd r st = { s with lft.finished := s.lft.finished ++ [(r.steward, r.b.tag, st, r.inl.getD [])] } := by
  unfold State.reqEnd
  rw [hw]
  exact if_neg (by omega)

/-- Without queue pairs a request of the device's own functions ends at once. -/
theorem State.lftPost_of_no_qps {s : State} (h : s.lft.qps = []) (owner op : Nat) (b : LftBody) {steward : Nat} (hs : 16 ≤ steward)
    (inl : Option (List Byte)) : ∃ x : LftSt, x.qps = [] ∧ s.lftPost owner op b none steward inl = { s with lft := x } := by
  have hqp : ({ s with lft.ord := s.lft.ord + 1 } : State).qp b.qpn = none := by
    rw [State.qp, h]
    rfl
  unfold State.lftPost
  simp only [hqp]
  rw [State.reqEnd_own _ rfl hs]
  exact ⟨_, by exact h, rfl⟩

theorem State.backupSend_of_no_qps {s : State} (h : s.lft.qps = []) (r : TwinRec) : ∃ x : LftSt,
    s.backupSend r = { s with fresh := s.fresh + 1 + 1, out := .twin true r :: s.out, lft := x } := by
  unfold State.backupSend
  dsimp only
  obtain ⟨x, hx, hpost⟩ := State.lftPost_of_no_qps (s := s.tick.tick.emit (.twin true r)) h 64 1
    { rsvOp := false, notify := false, wait := false, rsv := false, qpn := s.fld R.twinBkQpn, len := 64, laddr := 0,
      raddr := s.freeWord.toNat, rkey := s.tick.freeWord.toNat, tag := 0, waitQpn := 0, waitCount := 0 } (steward := 18) (by decide)
    (some (twinBytes r ++ List.replicate 32 0))
  refine ⟨x, ?_⟩
  rw [hpost, State.lftSettle_of_no_qps (by exact hx)]
  rfl

/-- Setting a field of another word leaves TWIN_STAT.STATE and what was sent. -/
theorem State.setFld_twinState (s : State) {f : Fld} (v : Nat) (hf : f.lo + f.w ≤ 32) (hk : f.key ≠ 0x700008) :
    (s.setFld f v).out = s.out ∧ (s.setFld f v).fld R.twinState = s.fld R.twinState :=
  ⟨rfl, s.fld_setFld_apart f R.twinState v hf (.inl hk.symm)⟩

theorem State.gateDefaults_keeps (s : State) : s.gateDefaults.out = s.out ∧ s.gateDefaults.fld R.twinState = s.fld R.twinState := by
  have htx : ∀ n, R.txKey n + 8 ≠ 0x700008 := fun n => by simp only [R.txKey, R.netKey]; omega
  refine List.foldlRecOn (List.range 32) _ (motive := fun t : State => t.out = s.out ∧ t.fld R.twinState = s.fld R.twinState) ⟨rfl, rfl⟩ ?_
  rintro t ⟨hout, hst⟩ n -
  refine ⟨hout, ?_⟩
  rw [(State.setFld_twinState _ _ (by simp [R.txCellTag]) (htx n)).2, (State.setFld_twinState _ _ (by simp [R.txCellPcp]) (htx n)).2,
    (State.setFld_twinState _ _ (by simp [R.txOpen]) (htx n)).2, hst]

/-- Stopping the schedule sends nothing and leaves the state of the twin. -/
theorem State.stopSchedule_keeps (s : State) : s.stopSchedule.out = s.out ∧ s.stopSchedule.fld R.twinState = s.fld R.twinState := by
  unfold State.stopSchedule
  split
  · exact ⟨rfl, rfl⟩
  · extract_lets s1 _ s2 s3 s4
    have h3 : s3.out = s.out ∧ s3.fld R.twinState = s.fld R.twinState := by
      refine ⟨rfl, ?_⟩
      rw [(State.setFld_twinState _ _ (by decide) (by decide)).2, (State.setFld_twinState _ _ (by decide) (by decide)).2]
      rfl
    have h4 : s4.out = s3.out ∧ s4.fld R.twinState = s3.fld R.twinState := by
      simp only [s4]
      split
      · exact ⟨rfl, rfl⟩
      · refine ⟨rfl, ?_⟩
        rw [(State.setFld_twinState _ _ (by decide) (by decide)).2, (State.setFld_twinState _ _ (by decide) (by decide)).2]
    obtain ⟨hout, hst⟩ := s4.gateDefaults_keeps
    exact ⟨hout.trans (h4.1.trans h3.1), hst.trans (h4.2.trans h3.2)⟩

/-- With nothing left to do in the transport the device sends YIELD and is FENCED. -/
theorem State.yield_of_no_qps {s : State} (h : s.lft.qps = []) : s.yield.fld R.twinState = 5 ∧ .twin true (s.twinRec 5 0 0 0) ∈ s.yield.out := by
  obtain ⟨x, hx⟩ := State.backupSend_of_no_qps h (s.twinRec 5 0 0 0)
  obtain ⟨hout, hst⟩ := ((s.backupSend (s.twinRec 5 0 0 0)).setFld R.twinState 5).stopSchedule_keeps
  unfold State.yield State.fence
  rw [hout, hst, State.setFld_out, State.fld_setFld_same _ _ _ (by decide) (by decide), hx]
  exact ⟨rfl, List.mem_cons_self⟩

/-! ## The loss of REFCLK_ETH (R606) -/

theorem State.portDown_frame (s : State) (p : Nat) : s.portDown p = { s with csr := (s.portDown p).csr, out := (s.portDown p).out } := by
  unfold State.portDown State.anStart
  split
  · rfl
  · rfl

/-- A port that goes down is down, and no other comes up. -/
theorem State.portDown_linkUp (s : State) (p q : Nat) (h : p = q ∨ s.fld (R.portLinkUp q) = 0) : (s.portDown p).fld (R.portLinkUp q) = 0 := by
  have han : ∀ (u : State) (f : Fld), (u.anStart p).fld f = u.fld f := fun u f => by
    unfold State.anStart
    split
    · rfl
    · rfl
  have hap : ∀ (u : State) (i : Nat), 0 < i → i < 32 → (u.setFld (R.portStat p i) 0).fld (R.portLinkUp q) = u.fld (R.portLinkUp q) :=
    fun u i hi hi' => u.fld_setFld_apart _ _ 0 (by simp only [R.portStat]; omega) (.inr (.inl hi))
  unfold State.portDown
  rw [han, hap _ 3 (by decide) (by decide), hap _ 1 (by decide) (by decide)]
  by_cases hk : R.portKey q = R.portKey p
  · have he : R.portLinkUp q = R.portLinkUp p := by simp only [R.portLinkUp, R.portStat, hk]
    rw [he]
    exact s.fld_setFld_same _ 0 (by simp [R.portLinkUp, R.portStat]) (by simp)
  · have hne : p ≠ q := fun e => hk (e ▸ rfl)
    rw [s.fld_setFld_apart _ _ 0 (by simp [R.portLinkUp, R.portStat]) (.inl (by simp [R.portLinkUp, R.portStat, hk]))]
    exact h.resolve_left hne

/-- Taking down the ports that are up. -/
def State.portsDown (s : State) (l : List Nat) : State := l.foldl (fun s p => if s.flag (R.portLinkUp p) then s.portDown p else s) s

theorem State.portsDown_frame (s : State) (l : List Nat) : s.portsDown l = { s with csr := (s.portsDown l).csr, out := (s.portsDown l).out } := by
  refine List.foldlRecOn l _ (motive := fun t : State => t = { s with csr := t.csr, out := t.out }) rfl fun t ht p _ => ?_
  split
  · rw [State.portDown_frame, ht]
  · exact ht

/-- The step for one port: afterwards it is down, and a port that was down stays so. -/
theorem State.portStep_linkUp (s : State) (p q : Nat) (h : p = q ∨ s.fld (R.portLinkUp q) = 0) :
    (if s.flag (R.portLinkUp p) then s.portDown p else s).fld (R.portLinkUp q) = 0 := by
  split
  · exact s.portDown_linkUp p q h
  · next hup =>
    rcases h with rfl | h
    · exact (s.flag_eq_false_iff rfl).mp (Bool.eq_false_iff.mpr hup)
    · exact h

theorem State.portsDown_linkUp (l : List Nat) (s : State) : ∀ p ∈ l, (s.portsDown l).fld (R.portLinkUp p) = 0 := by
  induction l generalizing s with
  | nil => simp
  | cons a l ih =>
    intro p hp
    rcases List.mem_cons.mp hp with rfl | hp
    · exact List.foldlRecOn l _ (motive := fun t : State => t.fld (R.portLinkUp p) = 0) (s.portStep_linkUp p p (.inl rfl))
        fun t ht x _ => t.portStep_linkUp x p (.inr ht)
    · exact ih _ p hp

theorem exec_refclkEthLoss (s : State) (t : Nat) :
    exec (.refclkEthLoss t) s = .next (((s.advance t).portsDown (List.range 32)).setFld R.twinLinkUp 0) := rfl

/-- Without REFCLK_ETH every port and the twin link are down. -/
theorem refclkEthLoss_ports (s : State) (t : Nat) : Runs (.refclkEthLoss t) s fun r =>
    r = { s.advance t with csr := r.csr, out := r.out } ∧ r.fld R.twinLinkUp = 0 ∧ ∀ p, p < 32 → r.portUp p = false := by
  refine ⟨_, exec_refclkEthLoss s t, ?frame, State.fld_setFld_same _ _ 0 (by decide) (by decide), fun p hp => ?ports⟩
  case frame =>
    have h := (s.advance t).portsDown_frame (List.range 32)
    generalize (s.advance t).portsDown (List.range 32) = u at *
    rw [h]
    rfl
  case ports =>
    have hdown := (s.advance t).portsDown_linkUp (List.range 32) p (List.mem_range.mpr hp)
    have hkey : (R.portLinkUp p).key ≠ R.twinLinkUp.key := by
      have := R.portLinkUp_key p
      simp only [R.twinLinkUp]
      omega
    rw [← State.fld_setFld_apart _ R.twinLinkUp _ 0 (by decide) (.inl hkey), ← State.flag_eq_false_iff _ rfl] at hdown
    rw [State.portUp, hdown, Bool.and_false]

end Sys2Proof.Machine

open Sys2Proof Sys2Proof.Machine

/-- Settles O57: an evaluation of the throttle is a measurement followed by the choice of R610, the thermal floor is read off the highest readings, and a
reset of port H is a chain of steps that each keep the registers the statement names. -/
theorem powerAndPlatform : Obligations.PowerAndPlatform := by
  unfold Obligations.PowerAndPlatform
  intro s t now capOf
  refine ⟨fun w hw => ⟨_, rfl, rfl, s.pwrSet_cap hw⟩, fun v c => ⟨imonCode_full c, imonCode_bounds c⟩, ?meas, ?level, ?therm,
    fun h => ?yield, refclkEthLoss_ports s t, fun h => ⟨_, exec_refclkHLoss s t, if_pos h⟩,
    fun i e hi h2 hstill hwf => ?reset, fun b => ⟨_, rfl, rfl⟩, ?up, ?tap⟩
  case meas =>
    rintro _ _ a u rfl rfl h0 h6 h8
    obtain ⟨hm0, hm1⟩ := s.fld_measurePower_meas [a] [u] t
    rw [s.diePower_die0 h0 h6 h8] at hm0 hm1
    exact ⟨_, exec_powerEvaluation s [a] [u] t, (State.fld_throttle_apart _ _ _ (by decide)).trans hm0,
      (State.fld_throttle_apart _ _ _ (by decide)).trans (hm1.trans (by simp))⟩
  case level =>
    intro amps volts p0 p1 hw go p cap level floor g long level' hl hf
    have hcap : cap = s.cap * 1000 := by rw [s.cap_eq]; rfl
    obtain ⟨b, hb, hrun⟩ := powerEvaluation_evaluated s amps volts t hw.symm hl hf
    have hlong : long ↔ b = true := by rw [hb, State.FitsLong, ← hcap]; rfl
    have hlevel : ∀ n up, Runs go s (s.Evaluated t (p0, p1) n up) → level' n := fun n up h => h.imp fun r e =>
      ⟨e.level, e.limited, e.meas0, e.meas1, e.frame, e.gain, e.gains, by rw [e.fits, State.ite_fitsSince, ← hcap]; rfl⟩
    rw [hcap]
    refine ⟨fun hp h6 => ?raise, fun hp hfl hlg => ?lower, fun hp hno => ?keep, fun hp => ?calm⟩
    case raise =>
      have h := hrun _ (State.chooseLevel_raise hp h6)
      exact ⟨hlevel _ _ h, h.imp fun r e => ⟨e.raised, e.before⟩⟩
    case lower =>
      have h := hrun _ (State.chooseLevel_lower hp hfl (hlong.mp hlg))
      exact hlevel _ _ (Nat.max_eq_left (Nat.le_sub_one_of_lt hfl) ▸ h)
    case keep => exact hlevel _ _ (hrun _ (State.chooseLevel_keep hp (hno.imp_right (mt hlong.mpr))))
    case calm => exact (hrun _ rfl).imp fun r e => e.raised.trans (State.chooseLevel_calm hp)
  case therm =>
    intro x m g sample hle hm gle hg
    obtain rfl := thermHotOf_eq hle hm
    obtain rfl := thermStk_eq gle hg
    refine ⟨thermalSample_trip, ?floor⟩
    intro hm hg hot
    have hhot : longAt now (s.hotSince (thermHotOf x).2.2 now) = true ↔ hot := s.longAt_hotSince _ _
    refine (thermalSample_floor (by omega)).imp fun r ⟨hframe, htj, hhbm, hlevel, hfloor⟩ =>
      ⟨htj, hhbm, fun h => ?hot, fun h => ?cool, ?out, ?cores, ?mem, hlevel⟩
    case hot => rw [hfloor, thermFloor, if_pos (hhot.mpr h)]
    case cool => rw [hfloor, thermFloor, if_neg (mt hhot.mp h)]
    case out => rw [hframe]; rfl
    case cores => rw [hframe]; rfl
    case mem => rw [hframe]; exact .of_eq rfl rfl rfl rfl
  case yield =>
    obtain ⟨hst, hout⟩ := State.yield_of_no_qps h.1
    exact ⟨_, rfl, hst, _, hout, rfl⟩
  case reset =>
    have hrun : exec i s = .next ((s.advance t).portHAfter e) := by
      rcases hi with ⟨rfl, rfl, hsris, hperst⟩ | rfl
      · rw [exec_refclkHLoss, if_neg (by simp [hsris, hperst])]
      · exact exec_portHReset s e t
    have hdown := State.portHAfter_down (s := s.advance t) ⟨hstill.1, hwf⟩ h2 e
    exact ⟨_, hrun, hdown.pins, hdown.cxl, hdown.ready, hdown.numVfs, hdown.gen, hdown.refused, hdown.empty⟩
  case up =>
    refine ⟨_, rfl, ?_⟩
    simp only [State.flag_eq_false_iff s (f := R.bootRecovery) rfl]
  case tap =>
    refine ⟨⟨_, rfl, rfl⟩, ⟨_, rfl, rfl⟩, ⟨_, rfl, rfl⟩, ⟨_, rfl, rfl⟩, ⟨_, rfl, rfl⟩, ⟨_, rfl, rfl⟩⟩
end
